-- ==== Sys2Proof/Word.lean ====
section
/-! DEFINITION. The character of a link and the plainest vector and number helpers every layer uses. -/

namespace Sys2Proof

/-- One character of Link A, B or C (its low eight bits). -/
abbrev Byte := BitVec 8

/-- A clamp with both bounds named (00 section 0.5); where the bounds cross, the upper one holds. -/
def clamp (lo hi x : Int) : Int := min hi (max lo x)

/-- `v` with the object `i` replaced by `x`. -/
def put {α : Type} {n : Nat} (v : Vector α n) (i : Fin n) (x : α) : Vector α n := v.set i.val x i.isLt

/-- `v` with the object `i` changed by `f`. -/
def upd {α : Type} {n : Nat} (v : Vector α n) (i : Fin n) (f : α → α) : Vector α n := put v i (f v[i])

/-- Every object of `v` rebuilt from its number and its value. -/
def tab {α β : Type} {n : Nat} (f : Fin n → α → β) (v : Vector α n) : Vector β n :=
  Vector.ofFn fun i => f i v[i]

/-- The numbers of the four sections, ties and islands, ascending. -/
def four : List (Fin 4) := [0, 1, 2, 3]

/-- The numbers of the eight sets and profiles, ascending. -/
def eight : List (Fin 8) := [0, 1, 2, 3, 4, 5, 6, 7]

/-- The numbers of the twelve stations less one, ascending. -/
def twelve : List (Fin 12) := [0, 1, 2, 3, 4, 5, 6, 7, 8, 9, 10, 11]

/-- The numbers of the sixteen confirm inputs, ascending. -/
def sixteen : List (Fin 16) := [0, 1, 2, 3, 4, 5, 6, 7, 8, 9, 10, 11, 12, 13, 14, 15]

/-- The numbers of the 32 shed groups, ascending. -/
def thirtyTwo : List (Fin 32) :=
  [0, 1, 2, 3, 4, 5, 6, 7, 8, 9, 10, 11, 12, 13, 14, 15, 16, 17, 18, 19, 20, 21, 22, 23, 24, 25, 26, 27, 28, 29, 30, 31]

end Sys2Proof
end

