-- ==== Sys2Proof/Syntax.lean ====
section
/-! DEFINITION. The commands of the part: one constructor per row of spec/opcode_table.json, with the operands the
row's rule names. -/

namespace Sys2Proof

/-- The controller link a request or a response belongs to (09). -/
inductive Link where
  | a
  | b
  deriving DecidableEq, Repr

/-- The other link. -/
def Link.other : Link → Link
  | .a => .b
  | .b => .a

/-- The link's number in notices: 0 for A, 1 for B (09 R156). -/
def Link.code : Link → Nat
  | .a => 0
  | .b => 1

/-- A filtered plant input (01 R1). -/
inductive PlantInput where
  | gcbStatus (g : Fin 8)
  | setReady (g : Fin 8)
  | tieStatus (t : Fin 4)
  | setTrip (g : Fin 8)
  | confirm (c : Fin 16)
  deriving DecidableEq, Repr

/-- A side of the synchronising pair (02 section 2.6). -/
inductive SyncSide where
  | incoming
  | reference
  deriving DecidableEq, Repr

/-- The codes one scan round converted (02 R26). A code of a channel that is not converted is not read. -/
structure Samples where
  kw   : Vector Nat 8
  secv : Vector Nat 4
  vin  : Nat
  vref : Nat
  deriving DecidableEq, Repr

/-- A command: an event that reaches the part or ends something it has in flight. -/
inductive Instr where
  /-- POWER_ON_RESET (10 R165). -/
  | powerOnReset
  /-- RESET_LINE_ASSERTED (10 R165). -/
  | resetLineAsserted
  /-- RESET_LINE_RELEASED (10 R165). -/
  | resetLineReleased
  /-- IMAGE_CHECK (10 R166). -/
  | imageCheck
  /-- ADOPTION (10 R171). -/
  | adoption
  /-- RAW_INPUT_CHANGE (01 R1): the raw level; true is CLOSED, ACTIVE, or OPEN of a confirm input. -/
  | rawInputChange (i : PlantInput) (level : Bool)
  /-- FILTER_TIMER_EXPIRY (01 R1). -/
  | filterTimerExpiry (i : PlantInput)
  /-- ROUND_TIMER_EXPIRY (02 R26), with the codes of the round. -/
  | roundTimerExpiry (smp : Samples)
  /-- SECTION_CROSSING (02 R34): section and time stamp in µs. -/
  | sectionCrossing (x : Fin 4) (time : Nat)
  /-- SECTION_LOSS_TIMER_EXPIRY (02 R35). -/
  | sectionLossTimerExpiry (x : Fin 4)
  /-- SYNC_IN_CROSSING (02 R39). -/
  | syncInCrossing (time : Nat)
  /-- SYNC_REF_CROSSING (02 R38). -/
  | syncRefCrossing (time : Nat)
  /-- SYNC_LOSS_TIMER_EXPIRY (02 R38). -/
  | syncLossTimerExpiry (side : SyncSide)
  /-- SHARING_PERIOD_EXPIRY (03 R42). -/
  | sharingPeriodExpiry
  /-- GCB_OPEN_PULSE_EXPIRY (03 R57). -/
  | gcbOpenPulseExpiry (g : Fin 8)
  /-- OPEN_CONFIRM_WAIT_EXPIRY (03 R58). -/
  | openConfirmWaitExpiry (g : Fin 8)
  /-- SELECTOR_SETTLE_EXPIRY (04 R68). -/
  | selectorSettleExpiry
  /-- SYNC_PASS (04 R71). -/
  | syncPass
  /-- SYNC_TIME_LIMIT_EXPIRY (04 R80). -/
  | syncTimeLimitExpiry
  /-- CLOSE_PULSE_EXPIRY (04 R77). -/
  | closePulseExpiry
  /-- CLOSE_CONFIRM_EXPIRY (04 R78). -/
  | closeConfirmExpiry
  /-- CONFIRM_TIMER_EXPIRY (05 R89). -/
  | confirmTimerExpiry (g : Fin 32)
  /-- DWELL_EXPIRY (06 R113). -/
  | dwellExpiry (i : Fin 4)
  /-- RESTORE_DELAY_EXPIRY (06 R116). -/
  | restoreDelayExpiry (i : Fin 4)
  /-- POLL_SLOT_EXPIRY (07 R120). -/
  | pollSlotExpiry
  /-- POLL_FRAME_SENT (07 R121). -/
  | pollFrameSent
  /-- REPLY_FRAME (07 R121): the characters after address character 0, up to the last CRC character. -/
  | replyFrame (body : List Byte)
  /-- REPLY_BAD_ADDRESS (07 R121). -/
  | replyBadAddress
  /-- REPLY_WINDOW_EXPIRY (07 R121). -/
  | replyWindowExpiry
  /-- WAIT_TIMER_EXPIRY (07 R131): station less one, consumer index. -/
  | waitTimerExpiry (st : Fin 12) (c : Fin 4)
  /-- ACCEPT_DEADLINE_EXPIRY (07 R131). -/
  | acceptDeadlineExpiry (st : Fin 12) (c : Fin 4)
  /-- HOLD_DEADLINE_EXPIRY (07 R131). -/
  | holdDeadlineExpiry (st : Fin 12) (c : Fin 4)
  /-- PROFILE_BUILD_END (08 R144). -/
  | profileBuildEnd
  /-- STORE_WRITE_END (10 R169): whether the read-back matches. -/
  | storeWriteEnd (good : Bool)
  /-- FRAME_TIMER_EXPIRY (09 R153): the characters gathered after the frame's start character. -/
  | frameTimerExpiry (l : Link) (following : List Byte)
  /-- FRAME_DISCARDED (09 R153): the characters gathered after the frame's start character. -/
  | frameDiscarded (l : Link) (following : List Byte)
  /-- UNKNOWN_KIND (09 R153): the kind and the sequence number of the frame. -/
  | unknownKind (l : Link) (kind seq : Byte)
  /-- RESPONSE_SENT (09 R154). -/
  | responseSent (l : Link)
  /-- WARM_RESET_BEGIN (09 R158). -/
  | warmResetBegin
  /-- LINK_TIMER_EXPIRY (09 R156). -/
  | linkTimerExpiry (l : Link)
  /-- JOINT_WINDOW_EXPIRY (09 R160). -/
  | jointWindowExpiry
  /-- READ_ACCOUNTS (01 R24). Every request carries its link, its sequence number and its field characters. -/
  | readAccounts (l : Link) (seq : Byte) (fields : List Byte)
  /-- READ_SETS (01 R24). -/
  | readSets (l : Link) (seq : Byte) (fields : List Byte)
  /-- READ_GROUPS (05 R99). -/
  | readGroups (l : Link) (seq : Byte) (fields : List Byte)
  /-- READ_QUEUE (07 R136). -/
  | readQueue (l : Link) (seq : Byte) (fields : List Byte)
  /-- READ_PROFILES (08 R151). -/
  | readProfiles (l : Link) (seq : Byte) (fields : List Byte)
  /-- READ_NOTICES (09 R162). -/
  | readNotices (l : Link) (seq : Byte) (fields : List Byte)
  /-- READ_STATE (09 R164). -/
  | readState (l : Link) (seq : Byte) (fields : List Byte)
  /-- SET_MODE (01 R5). -/
  | setMode (l : Link) (seq : Byte) (fields : List Byte)
  /-- SET_BASE_POINT (01 R5). -/
  | setBasePoint (l : Link) (seq : Byte) (fields : List Byte)
  /-- UNLOAD (03 R55). -/
  | unload (l : Link) (seq : Byte) (fields : List Byte)
  /-- CLEAR_TRIP (01 R11). -/
  | clearTrip (l : Link) (seq : Byte) (fields : List Byte)
  /-- CONNECT_SET (04 R65). -/
  | connectSet (l : Link) (seq : Byte) (fields : List Byte)
  /-- CLOSE_TIE (04 R66). -/
  | closeTie (l : Link) (seq : Byte) (fields : List Byte)
  /-- CANCEL_SYNC (04 R67). -/
  | cancelSync (l : Link) (seq : Byte) (fields : List Byte)
  /-- SHED (05 R91). -/
  | shed (l : Link) (seq : Byte) (fields : List Byte)
  /-- RESTORE (05 R92). -/
  | restore (l : Link) (seq : Byte) (fields : List Byte)
  /-- INHIBIT (05 R93). -/
  | inhibit (l : Link) (seq : Byte) (fields : List Byte)
  /-- RELEASE_INHIBIT (05 R93). -/
  | releaseInhibit (l : Link) (seq : Byte) (fields : List Byte)
  /-- SET_GROUP (05 R94). -/
  | setGroup (l : Link) (seq : Byte) (fields : List Byte)
  /-- CANCEL_RESERVATION (07 R131). -/
  | cancelReservation (l : Link) (seq : Byte) (fields : List Byte)
  /-- ENTER (08 R141). -/
  | enter (l : Link) (seq : Byte) (fields : List Byte)
  /-- PUSH (08 R141). -/
  | push (l : Link) (seq : Byte) (fields : List Byte)
  /-- POP (08 R141). -/
  | pop (l : Link) (seq : Byte) (fields : List Byte)
  /-- REFRESH (08 R149). -/
  | refresh (l : Link) (seq : Byte) (fields : List Byte)
  /-- WRITE_SETTING (08 R147). -/
  | writeSetting (l : Link) (seq : Byte) (fields : List Byte)
  /-- WRITE_PROFILE (08 R148). -/
  | writeProfile (l : Link) (seq : Byte) (fields : List Byte)
  /-- LOAD_RECORD (10 R168). -/
  | loadRecord (l : Link) (seq : Byte) (fields : List Byte)
  /-- RESET (09 R158). -/
  | reset (l : Link) (seq : Byte) (fields : List Byte)
  /-- HOLD (10 R170). -/
  | hold (l : Link) (seq : Byte) (fields : List Byte)
  /-- RESUME (10 R170). -/
  | resume (l : Link) (seq : Byte) (fields : List Byte)
  /-- CONFIG_COMMIT (10 R169). -/
  | configCommit (l : Link) (seq : Byte) (fields : List Byte)
  /-- START_CHARACTER (09 R153). -/
  | startCharacter (l : Link)
  /-- LOSS_OF_POWER (10 R169). -/
  | lossOfPower
  deriving DecidableEq, Repr

end Sys2Proof
end

