-- ==== Sys2Proof/Decode.lean ====
section
/-! DEFINITION. The command a word of spec/opcode_table.json spells. No row of the table gives any bits ("fields" is
empty in every row and none has "fixed"), so no word spells a command (log 1). -/

namespace Sys2Proof

/-- The command whose table bits are `w`: none for every word, because the table gives no row any bits. -/
def decodeTableWord (_nbits _w : Nat) : Option Instr := none

end Sys2Proof
end

