-- ==== Sys2Proof/Machine/Image.lean ====
section
/-! DEFINITION. The configuration image: its records, their defaults and ranges, and the checks of R167. -/

namespace Sys2Proof.Machine

/-- A set's sharing mode (01 R4). -/
inductive Mode where
  | share
  | base
  | hold
  deriving DecidableEq, Repr

/-- A set's trip sense (01 R3). -/
inductive TripSense where
  | edge
  | level
  deriving DecidableEq, Repr

/-- Which edges of a lock send SYNC_LOCK (04 R76). -/
inductive Edges where
  | none
  | rise
  | fall
  | both
  deriving DecidableEq, Repr

/-- The general record (11 section 11.5). Times in ms, thresholds in per-mille, frequency in mHz. -/
structure GeneralCfg where
  nominal : Nat
  breakerFilter : Nat
  tripFilter : Nat
  confirmFilter : Nat
  liveThr : Nat
  deadThr : Nat
  lossTime : Nat
  confirmTime : Nat
  linkTimeout : Nat
  agreeWindow : Nat
  initialProfile : Fin 8
  deriving DecidableEq, Repr

/-- The configuration of a set (01 R4). -/
structure SetCfg where
  present : Bool
  sect : Fin 4
  rating : Nat
  fs : Nat
  park : Int
  sense : TripSense
  deriving DecidableEq, Repr

/-- The configuration of a section or of a tie (01 R15, R16). -/
structure BusCfg where
  present : Bool
  deadClose : Bool
  deriving DecidableEq, Repr

/-- The configuration of a shed group (05 R84). -/
structure GroupCfg where
  present : Bool
  sect : Fin 4
  confirm : Option (Fin 16)
  deriving DecidableEq, Repr

/-- The synchronising parameters (04 R64). The time limit is in seconds, the other times in ms. -/
structure SyncCfg where
  settle : Nat
  limit : Nat
  slipTarget : Int
  slipWindow : Int
  voltWindow : Int
  gain : Int
  qualPasses : Nat
  phaseWindow : Int
  tClose : Int
  pulse : Nat
  confirm : Nat
  coarseEdges : Edges
  fineEdges : Edges
  deriving DecidableEq, Repr

/-- A group's banked fields (05 R84). -/
structure GroupBank where
  level : Nat
  load : Nat
  deriving DecidableEq, Repr

/-- A set's banked fields (01 R4). -/
structure SetBank where
  mode : Mode
  base : Nat
  deriving DecidableEq, Repr

/-- A configuration bank (08 R139). -/
structure Bank where
  groups : Vector GroupBank 32
  sets : Vector SetBank 8
  deriving DecidableEq, Repr

/-- A settings block (08 R138), fields in the table's order. -/
structure Settings where
  sharePeriod : Nat
  gl : Nat
  gf : Nat
  smax : Nat
  rampN : Nat
  loadLimit : Nat
  fastLimit : Nat
  overDwell : Nat
  underOffset : Nat
  underDwell : Nat
  restoreDelay : Nat
  restoreMargin : Nat
  autoRestore : Bool
  acceptTime : Nat
  waitLimit : Nat
  openThr : Nat
  deriving DecidableEq, Repr

/-- A patch (08 R137): its target table, first index and entries; its count is the number of entries. -/
inductive Patch where
  | groups (first : Nat) (entries : List GroupBank)
  | sets (first : Nat) (entries : List SetBank)
  deriving DecidableEq, Repr

/-- The part of a profile record that is in the image (08 R137). -/
structure Profile where
  present : Bool
  patch : Bool
  initial : Settings
  patches : List Patch
  deriving DecidableEq, Repr

/-- The configuration image (10 R167). -/
structure Image where
  general : GeneralCfg
  sets : Vector SetCfg 8
  sections : Vector BusCfg 4
  ties : Vector BusCfg 4
  groups : Vector GroupCfg 32
  sync : SyncCfg
  stations : Vector Bool 12
  base : Bank
  profiles : Vector Profile 8
  deriving DecidableEq, Repr

/-- The defaults of R138. -/
def Settings.default : Settings where
  sharePeriod := 200
  gl := 32
  gf := 16
  smax := 40
  rampN := 25
  loadLimit := 900
  fastLimit := 1100
  overDwell := 10000
  underOffset := 1500
  underDwell := 2000
  restoreDelay := 15000
  restoreMargin := 500
  autoRestore := true
  acceptTime := 5000
  waitLimit := 120
  openThr := 50

/-- The defaults of R64. -/
def SyncCfg.default : SyncCfg where
  settle := 200
  limit := 60
  slipTarget := 50
  slipWindow := 100
  voltWindow := 50
  gain := 24
  qualPasses := 3
  phaseWindow := 10
  tClose := 80
  pulse := 300
  confirm := 1000
  coarseEdges := .none
  fineEdges := .none

/-- The bank of the default image (10 R166) and of a reset (08 R150). -/
def Bank.blank : Bank where
  groups := Vector.replicate 32 { level := 0, load := 0 }
  sets := Vector.replicate 8 { mode := .share, base := 0 }

/-- The profile record of the default image: not present. -/
def Profile.blank : Profile := { present := false, patch := false, initial := Settings.default, patches := [] }

/-- The default image (10 R166): nothing present, every other field at its default. DESIGN CHOICE (log 9): the
fields for which the manual states no default hold the lowest value of their range, a park bias of 0 and a nominal
frequency of 50,000. -/
def Image.default : Image where
  general :=
    { nominal := 50000, breakerFilter := 50, tripFilter := 10, confirmFilter := 50, liveThr := 800, deadThr := 200,
      lossTime := 100, confirmTime := 1000, linkTimeout := 3000, agreeWindow := 2000, initialProfile := 0 }
  sets := Vector.replicate 8 { present := false, sect := 0, rating := 500, fs := 500, park := 0, sense := .edge }
  sections := Vector.replicate 4 { present := false, deadClose := false }
  ties := Vector.replicate 4 { present := false, deadClose := false }
  groups := Vector.replicate 32 { present := false, sect := 0, confirm := none }
  sync := SyncCfg.default
  stations := Vector.replicate 12 false
  base := Bank.blank
  profiles := Vector.replicate 8 Profile.blank

/-- `lo ≤ x ≤ hi`. -/
def within (lo hi x : Int) : Bool := decide (lo ≤ x) && decide (x ≤ hi)

/-! ### Settings -/

/-- The block as sixteen numbers, in the order of R138 (auto restore: off 0, on 1). -/
def Settings.toList (b : Settings) : List Int :=
  [b.sharePeriod, b.gl, b.gf, b.smax, b.rampN, b.loadLimit, b.fastLimit, b.overDwell, b.underOffset, b.underDwell,
   b.restoreDelay, b.restoreMargin, (if b.autoRestore then 1 else 0), b.acceptTime, b.waitLimit, b.openThr]

/-- A block from sixteen numbers in the order of R138. -/
def Settings.ofList : List Int → Option Settings
  | [v0, v1, v2, v3, v4, v5, v6, v7, v8, v9, v10, v11, v12, v13, v14, v15] =>
    some
      { sharePeriod := v0.toNat, gl := v1.toNat, gf := v2.toNat, smax := v3.toNat, rampN := v4.toNat,
        loadLimit := v5.toNat, fastLimit := v6.toNat, overDwell := v7.toNat, underOffset := v8.toNat,
        underDwell := v9.toNat, restoreDelay := v10.toNat, restoreMargin := v11.toNat, autoRestore := decide (v12 ≠ 0),
        acceptTime := v13.toNat, waitLimit := v14.toNat, openThr := v15.toNat }
  | _ => none

/-- Every field in its range (R138). -/
def Settings.inRange (b : Settings) : Bool :=
  within 100 1000 b.sharePeriod && within 0 255 b.gl && within 0 255 b.gf && within 1 200 b.smax &&
  within 1 64 b.rampN && within 500 1000 b.loadLimit && within 1000 1300 b.fastLimit &&
  within 1000 60000 b.overDwell && within 200 5000 b.underOffset && within 200 10000 b.underDwell &&
  within 2000 120000 b.restoreDelay && within 0 5000 b.restoreMargin && within 1000 30000 b.acceptTime &&
  within 10 900 b.waitLimit && within 0 200 b.openThr

/-- A consistent block (R138): in range, the period a multiple of 50, the underfrequency dwell at most the overload
dwell. -/
def Settings.consistent (b : Settings) : Bool :=
  b.inRange && decide (b.sharePeriod % 50 = 0) && decide (b.underDwell ≤ b.overDwell)

/-- The value of field `n` made ready (R147) beside the overload dwell `overload` and the underfrequency dwell `under`. -/
def readyField (n : Nat) (overload under v : Int) : Int :=
  match n with
  | 0 => clamp 100 1000 (v.tdiv 50 * 50)
  | 1 => clamp 0 255 v
  | 2 => clamp 0 255 v
  | 3 => clamp 1 200 v
  | 4 => clamp 1 64 v
  | 5 => clamp 500 1000 v
  | 6 => clamp 1000 1300 v
  | 7 => clamp (max 1000 under) 60000 v
  | 8 => clamp 200 5000 v
  | 9 => clamp 200 (min 10000 overload) v
  | 10 => clamp 2000 120000 v
  | 11 => clamp 0 5000 v
  | 12 => clamp 0 1 v
  | 13 => clamp 1000 30000 v
  | 14 => clamp 10 900 v
  | _ => clamp 0 200 v

/-- An Initial block made ready for WRITE PROFILE (R148): the overload dwell against the underfrequency dwell
carried, then the underfrequency dwell against the overload dwell just made ready. -/
def readyBlock (vs : List Int) : List Int :=
  let overload := readyField 7 0 (vs.getD 9 0) (vs.getD 7 0)
  let under := readyField 9 overload 0 (vs.getD 9 0)
  vs.mapIdx fun n v => if n = 7 then overload else if n = 9 then under else readyField n 0 0 v

/-- An Initial block clamped by LOAD RECORD (10 R168): each field to its own range, the two dwells independently. DEDUCED
(log 59): the steps of 50 belong to the range of the sharing period, which is truncated to one. -/
def clampBlock (vs : List Int) : List Int := vs.mapIdx fun n v => readyField n 60000 0 v

/-! ### Patches -/

/-- The patch's count of entries. -/
def Patch.count : Patch → Nat
  | .groups _ es => es.length
  | .sets _ es => es.length

/-- One patch written into a bank, or `none` where R142 calls it invalid. Modes other than SHARE, BASE and HOLD do
not arise: `Mode` has no other value. -/
def applyPatch (ratings : Vector Nat 8) (b : Bank) : Patch → Option Bank
  | .groups first es =>
    if first + es.length ≤ 32 ∧ es.all (fun e => decide (e.level ≤ 7) && decide (e.load ≤ 20000)) then
      some { b with groups := tab (fun j x => if first ≤ j.val then es.getD (j.val - first) x else x) b.groups }
    else none
  | .sets first es =>
    let t := tab (fun j x => if first ≤ j.val then es.getD (j.val - first) x else x) b.sets
    let fits := (List.range es.length).all fun k =>
      match eight[first + k]? with
      | some j => decide ((es.getD k { mode := .share, base := 0 }).base ≤ ratings[j])
      | none => false
    if first + es.length ≤ 8 ∧ fits then some { b with sets := t } else none

/-- The patches applied in list order from patch number `n` (R142): the bank so far and the number of the first
invalid patch. The list ends at the first patch of count 0 (R137). -/
def applyPatches (ratings : Vector Nat 8) : Nat → List Patch → Bank → Bank × Option Nat
  | _, [], b => (b, none)
  | n, p :: ps, b =>
    if p.count = 0 then (b, none)
    else
      match applyPatch ratings b p with
      | some b' => applyPatches ratings (n + 1) ps b'
      | none => (b, some n)

/-- The ratings the image holds for the sets, present or not (R142). -/
def Image.ratings (img : Image) : Vector Nat 8 := tab (fun _ c => c.rating) img.sets

/-! ### The checks of R167 -/

/-- Check 1: every field in its range. -/
def Image.inRange (img : Image) : Bool :=
  let g := img.general
  let y := img.sync
  (decide (g.nominal = 50000) || decide (g.nominal = 60000)) && within 20 500 g.breakerFilter &&
  within 5 100 g.tripFilter && within 20 500 g.confirmFilter && within 500 950 g.liveThr && within 50 400 g.deadThr &&
  within 30 300 g.lossTime && within 100 5000 g.confirmTime && within 500 10000 g.linkTimeout &&
  within 1000 5000 g.agreeWindow &&
  img.sets.toList.all (fun c => within 500 20000 c.rating && within 500 25000 c.fs && within (-1000) 1000 c.park) &&
  within 50 1000 y.settle && within 10 300 y.limit && within 0 200 y.slipTarget && within 10 500 y.slipWindow &&
  within 10 100 y.voltWindow && within 0 255 y.gain && within 1 10 y.qualPasses && within 1 30 y.phaseWindow &&
  within 20 500 y.tClose && within 100 1000 y.pulse && within 200 3000 y.confirm &&
  img.base.groups.toList.all (fun b => within 0 7 b.level && within 0 20000 b.load) &&
  img.base.sets.toList.all (fun b => within 0 20000 b.base) &&
  img.profiles.toList.all (fun p =>
    p.initial.inRange &&
    p.patches.all (fun q =>
      match q with
      | .groups first es => within 0 31 first && es.all (fun e => within 0 7 e.level && within 0 20000 e.load)
      | .sets first es => within 0 7 first && es.all (fun e => within 0 20000 e.base)))

/-- The number of the first check of R167 the image fails, or `none` where it is valid. -/
def Image.check (img : Image) : Option Nat :=
  if ¬ img.inRange then some 1
  else if ¬ img.general.deadThr + 50 < img.general.liveThr then some 2
  else if ¬ eight.all (fun j => decide ((img.base.sets[j]).base ≤ (img.sets[j]).rating)) then some 3
  else if ¬ (img.profiles[img.general.initialProfile]).present then some 4
  else if ¬ img.profiles.toList.all (fun p => !p.present || p.initial.consistent) then some 5
  else if ¬ img.profiles.toList.all (fun p =>
      !(p.present && p.patch) || (applyPatches img.ratings 1 p.patches img.base).2.isNone) then some 6
  else none

end Sys2Proof.Machine
end

