-- ==== Sys2Proof/Machine/Operands.lean ====
section
/-! DEFINITION. The coding of fields on the links (11 sections 11.1 and 11.2): widths, byte order, the codes of named
values, and the reading of a request's field characters into the values its rule names. -/

namespace Sys2Proof.Machine

/-- The width of a field (11 section 11.1): 1 or 2 bytes unsigned, or 4 bytes. -/
inductive Width where
  | w1
  | w2
  | w4
  deriving DecidableEq, Repr

/-- A value as characters, most significant byte first; negative numbers in two's complement. -/
def writeField (w : Width) (v : Int) : List Byte :=
  match w with
  | .w1 => [BitVec.ofInt 8 v]
  | .w2 => let x := BitVec.ofInt 16 v; [x.extractLsb' 8 8, x.extractLsb' 0 8]
  | .w4 =>
    let x := BitVec.ofInt 32 v
    [x.extractLsb' 24 8, x.extractLsb' 16 8, x.extractLsb' 8 8, x.extractLsb' 0 8]

/-- The code of an absent or invalid item (11 R172). -/
def absent : Width → Int
  | .w1 => 255
  | .w2 => 65535
  | .w4 => -2147483648

/-- An item that may be absent. -/
def orAbsent (w : Width) (v : Option Int) : Int := v.getD (absent w)

/-- A list of items, each with its width, as characters. -/
def writeItems (items : List (Width × Int)) : List Byte := items.flatMap fun p => writeField p.1 p.2

/-- The fields of the given widths at the head of the characters, and what follows them. -/
def readPrefix : List Width → List Byte → Option (List Int × List Byte)
  | [], cs => some ([], cs)
  | .w1 :: ws, a :: cs => (readPrefix ws cs).map fun p => ((a.toNat : Int) :: p.1, p.2)
  | .w2 :: ws, a :: b :: cs => (readPrefix ws cs).map fun p => (((a ++ b).toNat : Int) :: p.1, p.2)
  | .w4 :: ws, a :: b :: c :: d :: cs => (readPrefix ws cs).map fun p => ((a ++ b ++ c ++ d).toInt :: p.1, p.2)
  | _ :: _, _ => none

/-- The fields of a request whose kind has exactly these widths; `none` where the count does not fit (09 R153). -/
def readFields (ws : List Width) (cs : List Byte) : Option (List Int) :=
  match readPrefix ws cs with
  | some (vs, []) => some vs
  | _ => none

/-- An index inside the numbering of `n` objects. -/
def index (n : Nat) (v : Int) : Option (Fin n) := if h : v.toNat < n ∧ 0 ≤ v then some ⟨v.toNat, h.1⟩ else none

/-- A yes or no flag: 0 is no and 1 is yes (log 25). -/
def flag (v : Int) : Option Bool := if v = 0 then some false else if v = 1 then some true else none

/-- The code of a yes or no flag. -/
def flagCode (b : Bool) : Int := if b then 1 else 0

/-- Codes run from 0 in the order the values are listed (11 section 11.1). -/
def Mode.code : Mode → Nat
  | .share => 0
  | .base => 1
  | .hold => 2

/-- The mode a code names. -/
def modeOf (v : Int) : Option Mode :=
  if v = 0 then some .share else if v = 1 then some .base else if v = 2 then some .hold else none

/-- See `Mode.code`. -/
def TripSense.code : TripSense → Nat
  | .edge => 0
  | .level => 1

/-- The trip sense a code names. -/
def senseOf (v : Int) : Option TripSense := if v = 0 then some .edge else if v = 1 then some .level else none

/-- See `Mode.code`. -/
def Edges.code : Edges → Nat
  | .none => 0
  | .rise => 1
  | .fall => 2
  | .both => 3

/-- The notice edges a code names. -/
def edgesOf (v : Int) : Option Edges :=
  if v = 0 then some .none else if v = 1 then some .rise else if v = 2 then some .fall
  else if v = 3 then some .both else none

/-- The widths of a settings block: numbers, and one code for auto restore (log 6). -/
def blockWidths : List Width := [.w4, .w4, .w4, .w4, .w4, .w4, .w4, .w4, .w4, .w4, .w4, .w4, .w1, .w4, .w4, .w4]

/-- A settings block as characters. -/
def blockBytes (b : Settings) : List Byte := writeItems (blockWidths.zip b.toList)

/-! ### Patch lists (11 R172) -/

/-- A patch as it is carried: table code, first index, count and entries. -/
structure RawPatch where
  table : Int
  first : Int
  count : Int
  entries : List (Int × Int)
  deriving DecidableEq, Repr

/-- `n` entries, each a one-byte field and a four-byte field. -/
def readEntries : Nat → List Byte → Option (List (Int × Int) × List Byte)
  | 0, cs => some ([], cs)
  | n + 1, cs =>
    match readPrefix [.w1, .w4] cs with
    | some ([x, y], cs') => (readEntries n cs').map fun p => ((x, y) :: p.1, p.2)
    | _ => none

/-- `n` patches, one after another. -/
def readPatches : Nat → List Byte → Option (List RawPatch × List Byte)
  | 0, cs => some ([], cs)
  | n + 1, cs =>
    match readPrefix [.w1, .w1, .w2] cs with
    | some ([t, f, c], cs') =>
      match readEntries c.toNat cs' with
      | some (es, cs'') => (readPatches n cs'').map fun p => ({ table := t, first := f, count := c, entries := es } :: p.1, p.2)
      | none => none
    | _ => none

/-- A whole patch list: a patch count, then the patches and nothing after them. -/
def readPatchList (cs : List Byte) : Option (List RawPatch) :=
  match readPrefix [.w2] cs with
  | some ([n], cs') =>
    match readPatches n.toNat cs' with
    | some (ps, []) => some ps
    | _ => none
  | _ => none

/-- No patch follows one of count 0 (08 R148). -/
def zeroLast : List RawPatch → Bool
  | [] => true
  | [_] => true
  | p :: q :: ps => decide (p.count ≠ 0) && zeroLast (q :: ps)

/-- A patch made ready (08 R148): levels clamped to 0 to 7, loads and base points to 0 to 20,000, another mode taken
as SHARE; and whether an entry was changed. DEDUCED (log 63): the same for a PROFILE PATCHES record. -/
def readyPatch (p : RawPatch) : Patch × Bool :=
  if p.table = 0 then
    (.groups p.first.toNat (p.entries.map fun e => { level := (clamp 0 7 e.1).toNat, load := (clamp 0 20000 e.2).toNat }),
     p.entries.any fun e => decide (clamp 0 7 e.1 ≠ e.1) || decide (clamp 0 20000 e.2 ≠ e.2))
  else
    (.sets p.first.toNat (p.entries.map fun e => { mode := (modeOf e.1).getD .share, base := (clamp 0 20000 e.2).toNat }),
     p.entries.any fun e => (modeOf e.1).isNone || decide (clamp 0 20000 e.2 ≠ e.2))

/-- A patch list made ready, and whether an entry was changed; `none` where R148 refuses it BAD_FIELD. DEDUCED (log 58): a
first index outside its table is written as carried, and tested at the entry. -/
def readyPatches (ps : List RawPatch) : Option (List Patch × Bool) :=
  if ps.length ≤ 8 ∧ (ps.map fun p => p.entries.length).sum ≤ 48 ∧
      ps.all (fun p => decide (p.count ≤ 32) && (decide (p.table = 0) || decide (p.table = 1))) ∧ zeroLast ps then
    some (ps.map fun p => (readyPatch p).1, ps.any fun p => (readyPatch p).2)
  else none

/-- A patch as characters. -/
def Patch.bytes : Patch → List Byte
  | .groups first es =>
    writeItems [(.w1, 0), (.w1, first), (.w2, es.length)] ++
    es.flatMap fun e => writeItems [(.w1, e.level), (.w4, e.load)]
  | .sets first es =>
    writeItems [(.w1, 1), (.w1, first), (.w2, es.length)] ++
    es.flatMap fun e => writeItems [(.w1, e.mode.code), (.w4, e.base)]

/-- A patch list as characters. -/
def patchListBytes (ps : List Patch) : List Byte := writeField .w2 ps.length ++ ps.flatMap Patch.bytes

/-! ### Configuration image records (11 section 11.5, 10 R168) -/

/-- What a LOAD RECORD does to the image: the new image and the record's values as held; `none` where a field lies
outside its coding or numbering (BAD_FIELD). -/
abbrev Loaded := Option (Image × List Int)

/-- The GENERAL record. A nominal frequency below 55,000 is taken as 50,000, any other as 60,000. -/
def loadGeneral (img : Image) : List Int → Loaded
  | [nom, bf, tf, cf, lv, dd, ls, ct, lt, aw, ip] =>
    (index 8 ip).map fun ip' =>
      let nom' : Int := if nom < 55000 then 50000 else 60000
      let bf' := clamp 20 500 bf
      let tf' := clamp 5 100 tf
      let cf' := clamp 20 500 cf
      let lv' := clamp 500 950 lv
      let dd' := clamp 50 400 dd
      let ls' := clamp 30 300 ls
      let ct' := clamp 100 5000 ct
      let lt' := clamp 500 10000 lt
      let aw' := clamp 1000 5000 aw
      ({ img with
          general :=
            { nominal := nom'.toNat, breakerFilter := bf'.toNat, tripFilter := tf'.toNat, confirmFilter := cf'.toNat,
              liveThr := lv'.toNat, deadThr := dd'.toNat, lossTime := ls'.toNat, confirmTime := ct'.toNat,
              linkTimeout := lt'.toNat, agreeWindow := aw'.toNat, initialProfile := ip' } },
       [nom', bf', tf', cf', lv', dd', ls', ct', lt', aw', ip])
  | _ => none

/-- The SET record of set `g`. -/
def loadSet (img : Image) (g : Fin 8) : List Int → Loaded
  | [p, x, r, f, k, t] =>
    match flag p, index 4 x, senseOf t with
    | some p', some x', some t' =>
      let r' := clamp 500 20000 r
      let f' := clamp 500 25000 f
      let k' := clamp (-1000) 1000 k
      some
        ({ img with
            sets := put img.sets g
              { present := p', sect := x', rating := r'.toNat, fs := f'.toNat, park := k', sense := t' } },
         [p, x, r', f', k', t])
    | _, _, _ => none
  | _ => none

/-- The two fields of a SECTION or TIE record. -/
def busOf : List Int → Option BusCfg
  | [p, d] =>
    match flag p, flag d with
    | some p', some d' => some { present := p', deadClose := d' }
    | _, _ => none
  | _ => none

/-- The GROUP record of group `g`. -/
def loadGroup (img : Image) (g : Fin 32) : List Int → Loaded
  | [p, x, c] =>
    match flag p, index 4 x with
    | some p', some x' =>
      if c = 255 then
        some ({ img with groups := put img.groups g { present := p', sect := x', confirm := none } }, [p, x, c])
      else
        (index 16 c).map fun c' =>
          ({ img with groups := put img.groups g { present := p', sect := x', confirm := some c' } }, [p, x, c])
    | _, _ => none
  | _ => none

/-- The SYNC record, in the order of R64. -/
def loadSync (img : Image) : List Int → Loaded
  | [st, li, tg, sw, vw, gs, qp, pw, tc, pl, cf, ce, fe] =>
    match edgesOf ce, edgesOf fe with
    | some ce', some fe' =>
      let st' := clamp 50 1000 st
      let li' := clamp 10 300 li
      let tg' := clamp 0 200 tg
      let sw' := clamp 10 500 sw
      let vw' := clamp 10 100 vw
      let gs' := clamp 0 255 gs
      let qp' := clamp 1 10 qp
      let pw' := clamp 1 30 pw
      let tc' := clamp 20 500 tc
      let pl' := clamp 100 1000 pl
      let cf' := clamp 200 3000 cf
      some
        ({ img with
            sync :=
              { settle := st'.toNat, limit := li'.toNat, slipTarget := tg', slipWindow := sw', voltWindow := vw',
                gain := gs', qualPasses := qp'.toNat, phaseWindow := pw', tClose := tc', pulse := pl'.toNat,
                confirm := cf'.toNat, coarseEdges := ce', fineEdges := fe' } },
         [st', li', tg', sw', vw', gs', qp', pw', tc', pl', cf', ce, fe])
    | _, _ => none
  | _ => none

/-- The widths of the record kinds of fixed length. -/
def recordWidths : Int → Option (List Width)
  | 0 => some [.w4, .w4, .w4, .w4, .w4, .w4, .w4, .w4, .w4, .w4, .w1]
  | 1 => some [.w1, .w1, .w4, .w4, .w4, .w1]
  | 2 => some [.w1, .w1]
  | 3 => some [.w1, .w1]
  | 4 => some [.w1, .w1, .w1]
  | 5 => some [.w4, .w4, .w4, .w4, .w4, .w4, .w4, .w4, .w4, .w4, .w4, .w1, .w1]
  | 6 => some (List.replicate 12 .w1)
  | 7 => some [.w1, .w4]
  | 8 => some [.w1, .w4]
  | 9 => some [.w1, .w1]
  | 10 => some blockWidths
  | _ => none

/-- A record of fixed length written into the image. -/
def loadFixed (img : Image) (kind idx : Int) (vs : List Int) : Loaded :=
  match kind with
  | 0 => if idx = 0 then loadGeneral img vs else none
  | 1 => (index 8 idx).bind fun g => loadSet img g vs
  | 2 => (index 4 idx).bind fun x => (busOf vs).map fun c => ({ img with sections := put img.sections x c }, vs)
  | 3 => (index 4 idx).bind fun t => (busOf vs).map fun c => ({ img with ties := put img.ties t c }, vs)
  | 4 => (index 32 idx).bind fun g => loadGroup img g vs
  | 5 => if idx = 0 then loadSync img vs else none
  | 6 =>
    if idx = 0 ∧ vs.length = 12 ∧ vs.all (fun v => (flag v).isSome) then
      some ({ img with stations := tab (fun i _ => (vs.getD i.val 0) = 1) img.stations }, vs)
    else none
  | 7 =>
    match index 32 idx, vs with
    | some g, [l, k] =>
      let l' := clamp 0 7 l
      let k' := clamp 0 20000 k
      some ({ img with base.groups := put img.base.groups g { level := l'.toNat, load := k'.toNat } }, [l', k'])
    | _, _ => none
  | 8 =>
    match index 8 idx, vs with
    | some g, [m, b] =>
      (modeOf m).map fun m' =>
        let b' := clamp 0 20000 b
        ({ img with base.sets := put img.base.sets g { mode := m', base := b'.toNat } }, [m, b'])
    | _, _ => none
  | 9 =>
    match index 8 idx, vs with
    | some p, [pr, pa] =>
      match flag pr, flag pa with
      | some pr', some pa' =>
        some ({ img with profiles := upd img.profiles p fun r => { r with present := pr', patch := pa' } }, vs)
      | _, _ => none
    | _, _ => none
  | 10 =>
    (index 8 idx).bind fun p =>
      (Settings.ofList (clampBlock vs)).map fun b =>
        ({ img with profiles := upd img.profiles p fun r => { r with initial := b } }, clampBlock vs)
  | _ => none

/-- What LOAD RECORD does with the characters of a record (10 R168): the new image, the record's values as held as
characters, and whether a value was changed; `none` is BAD_FIELD. A PROFILE PATCHES record leaves the PATCH flag. -/
def loadRecordOf (img : Image) (cs : List Byte) : Option (Image × List Byte × Bool) :=
  match readPrefix [.w1, .w1] cs with
  | some ([kind, idx], rest) =>
    if kind = 11 then
      match index 8 idx, (readPatchList rest).bind readyPatches with
      | some p, some (ps, changed) =>
        some ({ img with profiles := upd img.profiles p fun r => { r with patches := ps } }, patchListBytes ps, changed)
      | _, _ => none
    else
      match recordWidths kind with
      | some ws =>
        match readFields ws rest with
        | some vs => (loadFixed img kind idx vs).map fun r => (r.1, writeItems (ws.zip r.2), decide (r.2 ≠ vs))
        | none => none
      | none => none
  | _ => none

end Sys2Proof.Machine
end

