-- ==== Sys2Proof/Machine/State.lean ====
section
/-! DEFINITION. The state of the part, block by block (00 section 0.3), as plain data, and its value right after a
power-on reset. Every piece is listed in INVENTORY.md under State. -/

namespace Sys2Proof.Machine

/-- A timer (00 section 0.5): the ms it still has to run, or `none` where it is not running. -/
abbrev Timer := Option Nat

/-! ### Plant Image (01) -/

/-- The state of a set (01 R6). -/
inductive SetState where
  | offline
  | incoming
  | online
  | unloading
  | tripped
  deriving DecidableEq, Repr

/-- The live state of a section, of VIN or of VREF (01 R15, 02 R33). -/
inductive Live where
  | live
  | dead
  | uncertain
  deriving DecidableEq, Repr

/-- A filtered plant input (01 R1, R2): its raw level, its filtered state (`none` is UNSETTLED), its filter timer. -/
structure Filter where
  raw : Bool
  filtered : Option Bool
  timer : Timer
  deriving DecidableEq, Repr

/-- The runtime fields of a set record that have no other home (01 R4). -/
structure SetRt where
  state : SetState
  latch : Bool
  deriving DecidableEq, Repr

/-- An island account (01 R20, R22): L, C, Cfast and R are `load`, `cap`, `fast` and `resv`. -/
structure Account where
  sections : List (Fin 4)
  online : List (Fin 8)
  load : Nat
  cap : Nat
  fast : Nat
  resv : Nat
  spare : Int
  wanted : Nat
  freq : Option Nat
  degraded : Bool
  isOver : Bool
  shortfall : Bool
  allBase : Bool
  dead : Bool
  deriving DecidableEq, Repr

/-- The Plant Image. `partition` gives each section's island; `freq` the section frequencies as taken by R15. -/
structure Plant where
  gcb : Vector Filter 8
  ready : Vector Filter 8
  trip : Vector Filter 8
  tie : Vector Filter 4
  confirm : Vector Filter 16
  sets : Vector SetRt 8
  partition : Option (Vector (Fin 4) 4)
  generation : Nat
  freq : Vector (Option Nat) 4
  accounts : Vector (Option Account) 4
  deriving DecidableEq, Repr

/-! ### Measurement Scanner (02) -/

/-- The validity of a reading (02 R27, R29). -/
inductive Validity where
  | pending
  | valid
  | invalid
  | unused
  deriving DecidableEq, Repr

/-- A kW channel (02 R29 to R32). `value` is the reading, or the held value while INVALID. -/
structure KwChan where
  window : List Nat
  validity : Validity
  value : Nat
  overrange : Bool
  deriving DecidableEq, Repr

/-- A section's voltage and frequency channel (02 R33 to R36). `value` is the latest frequency in range. -/
structure SectChan where
  volt : Nat
  live : Live
  record : List Nat
  value : Nat
  valid : Bool
  loss : Timer
  deriving DecidableEq, Repr

/-- The selector state (02 R37). -/
inductive SelState where
  | released
  | settling
  | settled
  deriving DecidableEq, Repr

/-- The frequency channel of one side of the synchronising pair (02 R38). `freq` is the latest value in range while
the record is full; it is valid in SETTLED only. -/
structure SyncChan where
  record : List Nat
  freq : Option Nat
  loss : Timer
  deriving DecidableEq, Repr

/-- A voltage channel of the synchronising pair (02 R38). -/
structure VoltChan where
  volt : Nat
  live : Live
  deriving DecidableEq, Repr

/-- The Measurement Scanner. `converting`: the round in progress converts VIN and VREF (02 R37). -/
structure Scan where
  round : Timer
  kw : Vector KwChan 8
  sect : Vector SectChan 4
  selector : SelState
  chanIn : SyncChan
  chanRef : SyncChan
  phi : Option Int
  vin : VoltChan
  vref : VoltChan
  converting : Bool
  deriving DecidableEq, Repr

/-! ### Sharing Engine (03) -/

/-- SATURATED with the bound at which it was set (03 R49). -/
inductive Sat where
  | clear
  | atMax
  | atMin
  deriving DecidableEq, Repr

/-- The unload stage (03 R41). -/
inductive UnloadStage where
  | none
  | ramping
  | opening
  deriving DecidableEq, Repr

/-- The Sharing Engine's record of a set (03 R41). GCB-OPEN of the set is asserted while `openPulse` runs. -/
structure ShareRt where
  bias : Int
  k : Nat
  sat : Sat
  unload : UnloadStage
  openWait : Timer
  openPulse : Timer
  deriving DecidableEq, Repr

/-- The Sharing Engine. -/
structure Share where
  sets : Vector ShareRt 8
  period : Timer
  deriving DecidableEq, Repr

/-! ### Synchroniser (04) -/

/-- The object of a request: CONNECT of a set, or TIE (04 R63). -/
inductive SyncObj where
  | set (g : Fin 8)
  | tie (t : Fin 4)
  deriving DecidableEq, Repr

/-- The stages other than IDLE (04 R63). -/
inductive SyncStage where
  | select
  | matching
  | phase
  | close
  deriving DecidableEq, Repr

/-- The abort causes (04 R80). -/
inductive AbortCause where
  | cancelled
  | timeout
  | lostReference
  | setTripped
  | topologyChanged
  | held
  | closeFailed
  | bothDead
  | noDeadBus
  | externalClose
  | setNotReady
  deriving DecidableEq, Repr

/-- The request record (04 R63) with its stage, its five timers (04 R64) and the parameters it was taken with
(04 R82). -/
structure SyncReq where
  obj : SyncObj
  origin : Link
  refSect : Fin 4
  inSect : Option (Fin 4)
  inIsland : Option (Fin 4)
  ringClose : Bool
  deadBus : Bool
  stage : SyncStage
  coarse : Bool
  qual : Nat
  ringQual : Nat
  fine : Bool
  prev : Option Int
  par : SyncCfg
  settle : Timer
  limit : Timer
  pass : Timer
  pulse : Timer
  confirm : Timer
  deriving DecidableEq, Repr

/-- The Synchroniser; `req = none` is IDLE. -/
structure Sync where
  req : Option SyncReq
  offset : Int
  lastAbort : Option AbortCause
  deriving DecidableEq, Repr

/-! ### Shed Controller (05, 06) -/

/-- The state of a group (05 R86). -/
inductive GroupState where
  | connected
  | inhibited
  | shedPending
  | shed
  | shedFailed
  deriving DecidableEq, Repr

/-- The shed cause (05 R86). -/
inductive ShedCause where
  | autoFast
  | autoSlow
  | blackout
  | manual
  | adopted
  deriving DecidableEq, Repr

/-- A group's runtime record and its SHED output (05 R84, R87). -/
structure GroupRt where
  state : GroupState
  cause : Option ShedCause
  confirm : Timer
  out : Bool
  deriving DecidableEq, Repr

/-- The dwell state (06 R100). -/
inductive DwellState where
  | idle
  | running
  | frozen
  deriving DecidableEq, Repr

/-- The dwell kind (06 R100). -/
inductive DwellKind where
  | overload
  | underfrequency
  deriving DecidableEq, Repr

/-- An island's overload dwell timer (06 R100). -/
structure Dwell where
  state : DwellState
  kind : Option DwellKind
  remaining : Nat
  deriving DecidableEq, Repr

/-- The Shed Controller. -/
structure Shed where
  groups : Vector GroupRt 32
  dwell : Vector Dwell 4
  restore : Vector Timer 4
  deriving DecidableEq, Repr

/-! ### Reservation Arbiter and Consumer Line Controller (07) -/

/-- The state of a reservation entry (07 R126). -/
inductive EntryState where
  | waiting
  | offered
  | active
  deriving DecidableEq, Repr

/-- A reservation entry (07 R126); `station` is the station number less one. `remaining` is the time left on the
timer its state runs: wait timer, accept deadline or hold deadline. -/
structure Entry where
  station : Fin 12
  consumer : Fin 4
  sect : Fin 4
  kw : Nat
  level : Nat
  hold : Nat
  state : EntryState
  arrival : Nat
  remaining : Nat
  deriving DecidableEq, Repr

/-- The Reservation Arbiter: its queue in ascending arrival number. -/
structure Resv where
  queue : List Entry
  counter : Nat
  lastWanted : Vector Nat 4
  deriving DecidableEq, Repr

/-- The reasons of a REFUSED answer (07 R124). -/
inductive RefuseReason where
  | full
  | duplicate
  | badField
  | wrongState
  deriving DecidableEq, Repr

/-- The answers to a station (07 R124). -/
inductive Answer where
  | queued
  | offer
  | withdrawn
  | active
  | notOffered
  | notFound
  | removed
  | expired
  | holdEnded
  | timedOut
  | held
  | dropped
  | refused (r : RefuseReason)
  deriving DecidableEq, Repr

/-- A pending answer and its delivered mark (07 R124). -/
structure PendAnswer where
  answer : Answer
  delivered : Bool
  deriving DecidableEq, Repr

/-- The state of a station (07 R122). -/
inductive StationState where
  | unknown
  | present
  | lost
  deriving DecidableEq, Repr

/-- A station record (07 R122). -/
structure StationRt where
  state : StationState
  miss : Nat
  answers : Vector (Option PendAnswer) 4
  deriving DecidableEq, Repr

/-- The Consumer Line Controller: the slot timer, the station of the next slot and of the slot in progress, the poll
frame being sent (its characters, the first one with the ninth bit set) and the reply window. -/
structure Line where
  stations : Vector StationRt 12
  slot : Timer
  next : Option (Fin 12)
  current : Option (Fin 12)
  poll : Option (List Byte)
  window : Timer
  deriving DecidableEq, Repr

/-! ### Profile Unit (08) -/

/-- The command that started an entry (08 R141, R150). -/
inductive EntryCmd where
  | enter
  | push
  | pop
  | initial
  deriving DecidableEq, Repr

/-- The entry in flight: its command and target, the settings block the target will use, the build's failure value
(08 R145) or `none`, and the contents STANDBY had before the build. -/
structure EntryOp where
  command : EntryCmd
  target : Fin 8
  block : Settings
  fail : Option Nat
  saved : Bank
  deriving DecidableEq, Repr

/-- The Profile Unit; the stack is bottom first. -/
structure Prof where
  fresh : Vector Bool 8
  working : Vector Settings 8
  active : Bank
  standby : Bank
  stack : List (Fin 8)
  entry : Option EntryOp
  deriving DecidableEq, Repr

/-! ### Link Interface (09) -/

/-- The notice kinds (11 R174). -/
inductive NoticeKind where
  | started
  | linkActive
  | linkSilent
  | supervisionMode
  | jointPending
  | jointConflict
  | jointExpired
  | stateChanged
  | configStored
  | configStoreFailed
  | partitionChanged
  | manualClose
  | uncommandedOpen
  | setTripped
  | tripCleared
  | tripInputCleared
  | readingInvalid
  | readingValid
  | readingOverrange
  | freqInvalid
  | freqValid
  | biasSaturated
  | unloadDone
  | unloadFailed
  | unloadAborted
  | syncDone
  | syncAborted
  | syncLock
  | manualShed
  | shedFailed
  | restored
  | groupInhibit
  | confirmLost
  | fastShed
  | makeUpShed
  | blackoutShed
  | slowShed
  | stationLost
  | stationPresent
  | holdEnded
  | capacityWanted
  | profileEntered
  | profileFailed
  deriving DecidableEq, Repr

/-- A notice record (09 R161). -/
structure Notice where
  kind : NoticeKind
  subject : Option Nat
  value : Option Int
  gen : Nat
  time : Nat
  deriving DecidableEq, Repr

/-- The response statuses (09 R155). -/
inductive Status where
  | done
  | pending
  | busy
  | refused
  deriving DecidableEq, Repr

/-- A response (11 section 11.2): kind and sequence number of its request, status, mark and data. `resets` marks the
DONE of a joint RESET, after whose last character the warm reset begins (09 R158). -/
structure Response where
  kind : Nat
  seq : Byte
  status : Status
  mark : Nat
  data : List Byte
  resets : Bool
  deriving DecidableEq, Repr

/-- One controller link: liveness, link timer, notice queue, the response being sent and those waiting, and the frame
timer of the frame being gathered (09 R152 to R154). -/
structure LinkRt where
  active : Bool
  timer : Timer
  notices : List Notice
  overflow : Bool
  sending : Option Response
  waiting : List Response
  frame : Timer
  deriving DecidableEq, Repr

/-- The joint commands, coded 0 to 3 in this order (09 R158). -/
inductive JointCmd where
  | reset
  | hold
  | resume
  | commit
  deriving DecidableEq, Repr

/-- The pending joint command (09 R158). -/
structure Joint where
  cmd : JointCmd
  tag : Nat
  origin : Link
  window : Nat
  deriving DecidableEq, Repr

/-- The Link Interface. -/
structure LinkIf where
  a : LinkRt
  b : LinkRt
  clock : Nat
  joint : Option Joint
  deriving DecidableEq, Repr

/-! ### Start-up Controller (10) -/

/-- The operating states (10 R165). -/
inductive OpState where
  | starting
  | unconfigured
  | held
  | running
  deriving DecidableEq, Repr

/-- The reset kinds of STARTED (09 R161). -/
inductive ResetKind where
  | powerOn
  | resetLine
  | jointReset
  deriving DecidableEq, Repr

/-- The non-volatile store (10 R166, R169): it holds `img` followed by its CRC-32, or contents whose CRC does not
match (log 30). -/
inductive Store where
  | sound (img : Image)
  | broken
  deriving DecidableEq, Repr

/-- The last store result (10 R169). -/
inductive StoreResult where
  | stored
  | failed
  deriving DecidableEq, Repr

/-- The Start-up Controller. `checked`: the image check of this start has been made; `adopted`: an adoption has been
taken since the reset; `adoptWait`: an adoption is awaited, with that many scan-round completions still to come. -/
structure Startup where
  power : Bool
  resetLine : Bool
  kind : ResetKind
  op : OpState
  checked : Bool
  adopted : Bool
  adoptWait : Option Nat
  store : Store
  storeOp : Option Image
  lastStore : Option StoreResult
  ram : Image
  deriving DecidableEq, Repr

/-- The whole part. `conf` holds the values the blocks were last initialised with (10 R166, R170); `pending` is the
queue of commands that wait, first in first out. -/
structure State where
  plant : Plant
  scan : Scan
  share : Share
  sync : Sync
  shed : Shed
  resv : Resv
  line : Line
  prof : Prof
  link : LinkIf
  start : Startup
  conf : Image
  pending : List Instr
  deriving DecidableEq, Repr

/-- Why the part would stop with a fault. The manual names no event that stops it, so there is no constructor: no
command raises a fault. -/
inductive Fault where
  deriving DecidableEq, Repr

/-- Why a command would be refused a meaning. -/
inductive Refusal where
  /-- Raised by an arm of `exec` whose command has no meaning yet. Safe: the model stops. No arm raises it. -/
  | notModelled (mnemonic : String)
  deriving DecidableEq, Repr

/-! ### The state right after a power-on reset -/

/-- A filtered input after a reset (01 R25). DESIGN CHOICE (log 7): its raw level is inactive. -/
def Filter.reset : Filter := { raw := false, filtered := none, timer := none }

/-- The Plant Image after a reset (01 R25). -/
def Plant.reset : Plant where
  gcb := Vector.replicate 8 Filter.reset
  ready := Vector.replicate 8 Filter.reset
  trip := Vector.replicate 8 Filter.reset
  tie := Vector.replicate 4 Filter.reset
  confirm := Vector.replicate 16 Filter.reset
  sets := Vector.replicate 8 { state := .offline, latch := false }
  partition := none
  generation := 0
  freq := Vector.replicate 4 none
  accounts := Vector.replicate 4 none

/-- The Scanner after a reset, with no set and no section present (02 R40). -/
def Scan.reset : Scan where
  round := none
  kw := Vector.replicate 8 { window := [], validity := .unused, value := 0, overrange := false }
  sect := Vector.replicate 4 { volt := 0, live := .dead, record := [], value := 0, valid := false, loss := none }
  selector := .released
  chanIn := { record := [], freq := none, loss := none }
  chanRef := { record := [], freq := none, loss := none }
  phi := none
  vin := { volt := 0, live := .uncertain }
  vref := { volt := 0, live := .uncertain }
  converting := false

/-- The Sharing Engine after a power-on reset (03 R61). -/
def Share.reset : Share where
  sets := Vector.replicate 8
    { bias := 0, k := 0, sat := .clear, unload := .none, openWait := none, openPulse := none }
  period := none

/-- The Synchroniser after a reset (04 R83). -/
def Sync.reset : Sync := { req := none, offset := 0, lastAbort := none }

/-- An idle dwell timer (06 R118). -/
def Dwell.idle : Dwell := { state := .idle, kind := none, remaining := 0 }

/-- The Shed Controller after a power-on reset (05 R98, 06 R118). DESIGN CHOICE (log 55): the group state that 05 R98 gives
as none until adoption is held as CONNECTED, as 05 R85 holds a group that is not present. -/
def Shed.reset : Shed where
  groups := Vector.replicate 32 { state := .connected, cause := none, confirm := none, out := false }
  dwell := Vector.replicate 4 Dwell.idle
  restore := Vector.replicate 4 none

/-- The Reservation Arbiter after a reset (07 R135). -/
def Resv.reset : Resv := { queue := [], counter := 1, lastWanted := Vector.replicate 4 0 }

/-- The Consumer Line Controller after a reset (07 R135). -/
def Line.reset : Line where
  stations := Vector.replicate 12 { state := .unknown, miss := 0, answers := Vector.replicate 4 none }
  slot := none
  next := none
  current := none
  poll := none
  window := none

/-- The Profile Unit after a reset (08 R150). DESIGN CHOICE (log 33): FRESH is clear before initialisation. -/
def Prof.reset : Prof where
  fresh := Vector.replicate 8 false
  working := Vector.replicate 8 Settings.default
  active := Bank.blank
  standby := Bank.blank
  stack := []
  entry := none

/-- A link after a reset (09 R164). -/
def LinkRt.reset : LinkRt where
  active := false
  timer := none
  notices := []
  overflow := false
  sending := none
  waiting := []
  frame := none

/-- The Link Interface after a reset (09 R164). -/
def LinkIf.reset : LinkIf := { a := LinkRt.reset, b := LinkRt.reset, clock := 0, joint := none }

/-- The Start-up Controller right after a power-on reset (10 R165, R166). DESIGN CHOICE: the RESET line stands
released (log 7), the store is empty (log 8), the RAM image not yet read holds the default image (log 9). -/
def Startup.reset : Startup where
  power := true
  resetLine := false
  kind := .powerOn
  op := .starting
  checked := false
  adopted := false
  adoptWait := none
  store := .broken
  storeOp := none
  lastStore := none
  ram := Image.default

/-- The part right after a power-on reset, with no command waiting. -/
def State.reset : State where
  plant := Plant.reset
  scan := Scan.reset
  share := Share.reset
  sync := Sync.reset
  shed := Shed.reset
  resv := Resv.reset
  line := Line.reset
  prof := Prof.reset
  link := LinkIf.reset
  start := Startup.reset
  conf := Image.default
  pending := []

end Sys2Proof.Machine
end

