-- ==== Sys2Proof/Machine/Formats.lean ====
section
/-! DEFINITION. The formats of chapter 11: both CRCs, the response frame, the notice and account records, the poll
frame's characters and the stored image. -/

namespace Sys2Proof.Machine

/-- One bit of a CRC (11 section 11.1): shift left, and apply the generator where a one leaves. -/
def crcBit {w : Nat} (gen crc : BitVec w) : BitVec w := if crc.msb then (crc <<< 1) ^^^ gen else crc <<< 1

/-- Eight bits of a CRC. -/
def crcEight {w : Nat} (gen crc : BitVec w) : BitVec w :=
  crcBit gen (crcBit gen (crcBit gen (crcBit gen (crcBit gen (crcBit gen (crcBit gen (crcBit gen crc)))))))

/-- The CRC-16 of the links: generator x^16 + x^12 + x^5 + 1, from all ones, no final inversion. -/
def crc16 (cs : List Byte) : BitVec 16 :=
  cs.foldl (fun crc c => crcEight 0x1021#16 (crc ^^^ BitVec.shiftLeft (c.setWidth 16) 8)) 0xFFFF#16

/-- The CRC-32 of the image: from all ones, final inversion of all bits. -/
def crc32 (cs : List Byte) : BitVec 32 :=
  ~~~ (cs.foldl (fun crc c => crcEight 0x04C11DB7#32 (crc ^^^ BitVec.shiftLeft (c.setWidth 32) 24)) 0xFFFFFFFF#32)

/-- The two CRC characters that close a frame, high byte first. -/
def crcChars (cs : List Byte) : List Byte := writeField .w2 (crc16 cs).toNat

/-- The status code (11 section 11.2). -/
def Status.code : Status → Nat
  | .done => 0
  | .pending => 1
  | .busy => 2
  | .refused => 3

/-- The characters of a response frame, from its start character to its last CRC character (11 section 11.2). -/
def Response.frame (r : Response) : List Byte :=
  let body := writeItems [(.w1, r.kind), (.w1, r.seq.toNat), (.w1, r.status.code), (.w1, r.mark)] ++ r.data
  let covered := writeField .w2 body.length ++ body
  0xA5#8 :: covered ++ crcChars covered

/-- The characters a request frame carries after its start character (11 section 11.2). -/
def requestChars (kind seq : Byte) (fields : List Byte) : List Byte :=
  let covered := writeField .w2 (fields.length + 2 : Nat) ++ kind :: seq :: fields
  covered ++ crcChars covered

/-- A request's length is in range (11 R172). -/
def lengthOk (n : Nat) : Bool := decide (2 ≤ n) && decide (n ≤ 300)

/-- What the characters of one frame gathered after its start character come to (09 R153). -/
inductive Gathered where
  | incomplete
  | discarded
  | valid
  deriving DecidableEq, Repr

/-- The characters gathered after a start character: a length out of range discards the frame at the second length
character, a CRC-16 that does not match at the last CRC character (09 R153, 11 R172). `none` where they run on past
the frame's end. -/
def gathered : List Byte → Option Gathered
  | hi :: lo :: rest =>
    let n := (hi ++ lo).toNat
    if ¬ lengthOk n then (if rest = [] then some .discarded else none)
    else if rest.length < n + 2 then some .incomplete
    else if rest.length = n + 2 then
      some (if rest.drop n = crcChars (hi :: lo :: rest.take n) then .valid else .discarded)
    else none
  | _ => some .incomplete

/-- The notice kind codes (11 R174). -/
def NoticeKind.code : NoticeKind → Nat
  | .started => 1
  | .linkActive => 2
  | .linkSilent => 3
  | .supervisionMode => 4
  | .jointPending => 5
  | .jointConflict => 6
  | .jointExpired => 7
  | .stateChanged => 8
  | .configStored => 9
  | .configStoreFailed => 10
  | .partitionChanged => 11
  | .manualClose => 12
  | .uncommandedOpen => 13
  | .setTripped => 14
  | .tripCleared => 15
  | .tripInputCleared => 16
  | .readingInvalid => 17
  | .readingValid => 18
  | .readingOverrange => 19
  | .freqInvalid => 20
  | .freqValid => 21
  | .biasSaturated => 22
  | .unloadDone => 23
  | .unloadFailed => 24
  | .unloadAborted => 25
  | .syncDone => 26
  | .syncAborted => 27
  | .syncLock => 28
  | .manualShed => 29
  | .shedFailed => 30
  | .restored => 31
  | .groupInhibit => 32
  | .confirmLost => 33
  | .fastShed => 34
  | .makeUpShed => 35
  | .blackoutShed => 36
  | .slowShed => 37
  | .stationLost => 38
  | .stationPresent => 39
  | .holdEnded => 40
  | .capacityWanted => 41
  | .profileEntered => 42
  | .profileFailed => 43

/-- A notice record (11 R174), 14 characters. -/
def Notice.bytes (n : Notice) : List Byte :=
  writeItems
    [(.w1, n.kind.code), (.w1, flagCode n.subject.isSome + 2 * flagCode n.value.isSome),
     (.w2, ((n.subject.getD 0 : Nat) : Int)), (.w4, n.value.getD 0), (.w2, n.gen), (.w4, n.time)]

/-- A list in a record of fixed places, unused places 0xFF. -/
def places (n : Nat) (xs : List Nat) : List Byte :=
  (List.range n).flatMap fun i => writeField .w1 ((xs.getD i 255 : Nat) : Int)

/-- An island account record (11 R174), 44 characters. -/
def Account.bytes (i : Nat) (a : Account) : List Byte :=
  writeItems [(.w1, i), (.w1, a.sections.length)] ++ places 4 (a.sections.map Fin.val) ++
  writeItems [(.w1, a.online.length)] ++ places 8 (a.online.map Fin.val) ++
  writeItems
    [(.w4, a.load), (.w4, a.cap), (.w4, a.fast), (.w4, a.resv), (.w4, a.spare), (.w4, a.wanted),
     (.w4, ((a.freq.getD 0 : Nat) : Int)),
     (.w1, flagCode a.degraded + 2 * flagCode a.isOver + 4 * flagCode a.shortfall + 8 * flagCode a.allBase +
       16 * flagCode a.dead)]

/-- The answer codes (11 section 11.3). -/
def Answer.code : Answer → Nat
  | .queued => 1
  | .offer => 2
  | .withdrawn => 3
  | .active => 4
  | .notOffered => 5
  | .notFound => 6
  | .removed => 7
  | .expired => 8
  | .holdEnded => 9
  | .timedOut => 10
  | .held => 11
  | .dropped => 12
  | .refused _ => 13

/-- The reason codes of a REFUSED answer (11 section 11.3). -/
def RefuseReason.code : RefuseReason → Nat
  | .full => 1
  | .duplicate => 2
  | .badField => 3
  | .wrongState => 4

/-- An answer's characters in a poll frame: the answer byte and its fields, with `kw` and `ms` the entry's kW and the
time remaining when the frame is sent (07 R124). -/
def answerBytes (c : Fin 4) (a : Answer) (kw ms : Nat) : List Byte :=
  writeField .w1 (((16 * a.code + c.val : Nat)) : Int) ++
  match a with
  | .offer => writeItems [(.w2, kw), (.w2, ms)]
  | .active => writeField .w2 ((ms / 1000 : Nat) : Int)
  | .refused r => writeField .w1 r.code
  | .queued | .withdrawn | .notOffered | .notFound | .removed | .expired | .holdEnded | .timedOut | .held | .dropped => []

/-- The characters of a poll frame (11 section 11.3): address, answer count, answers, CRC-16 over all of them
(11 R173). -/
def pollChars (station : Nat) (answers : List (List Byte)) : List Byte :=
  let covered := writeItems [(.w1, station), (.w1, answers.length)] ++ answers.flatten
  covered ++ crcChars covered

/-- The records of the image in the order of section 11.5, each with its kind, its index and its fields. -/
def Image.bytes (img : Image) : List Byte :=
  let head (kind idx : Nat) : List Byte := writeItems [(.w1, kind), (.w1, idx)]
  let g := img.general
  let y := img.sync
  head 0 0 ++
  writeItems
    [(.w4, g.nominal), (.w4, g.breakerFilter), (.w4, g.tripFilter), (.w4, g.confirmFilter), (.w4, g.liveThr),
     (.w4, g.deadThr), (.w4, g.lossTime), (.w4, g.confirmTime), (.w4, g.linkTimeout), (.w4, g.agreeWindow),
     (.w1, g.initialProfile.val)] ++
  eight.flatMap (fun i =>
    let c := img.sets[i]
    head 1 i.val ++
    writeItems
      [(.w1, flagCode c.present), (.w1, c.sect.val), (.w4, c.rating), (.w4, c.fs), (.w4, c.park), (.w1, c.sense.code)]) ++
  four.flatMap (fun i =>
    head 2 i.val ++ writeItems [(.w1, flagCode img.sections[i].present), (.w1, flagCode img.sections[i].deadClose)]) ++
  four.flatMap (fun i =>
    head 3 i.val ++ writeItems [(.w1, flagCode img.ties[i].present), (.w1, flagCode img.ties[i].deadClose)]) ++
  thirtyTwo.flatMap (fun i =>
    let c := img.groups[i]
    head 4 i.val ++
    writeItems [(.w1, flagCode c.present), (.w1, c.sect.val), (.w1, orAbsent .w1 (c.confirm.map fun k => (k.val : Int)))]) ++
  head 5 0 ++
  writeItems
    [(.w4, y.settle), (.w4, y.limit), (.w4, y.slipTarget), (.w4, y.slipWindow), (.w4, y.voltWindow), (.w4, y.gain),
     (.w4, y.qualPasses), (.w4, y.phaseWindow), (.w4, y.tClose), (.w4, y.pulse), (.w4, y.confirm),
     (.w1, y.coarseEdges.code), (.w1, y.fineEdges.code)] ++
  head 6 0 ++ twelve.flatMap (fun i => writeField .w1 (flagCode img.stations[i])) ++
  thirtyTwo.flatMap (fun i =>
    head 7 i.val ++ writeItems [(.w1, img.base.groups[i].level), (.w4, img.base.groups[i].load)]) ++
  eight.flatMap (fun i =>
    head 8 i.val ++ writeItems [(.w1, img.base.sets[i].mode.code), (.w4, img.base.sets[i].base)]) ++
  eight.flatMap (fun i =>
    head 9 i.val ++ writeItems [(.w1, flagCode img.profiles[i].present), (.w1, flagCode img.profiles[i].patch)]) ++
  eight.flatMap (fun i => head 10 i.val ++ blockBytes img.profiles[i].initial) ++
  eight.flatMap (fun i => head 11 i.val ++ patchListBytes img.profiles[i].patches)

/-- What a store written with this image holds (10 R169, 11 section 11.5): the records and their CRC-32. -/
def Image.stored (img : Image) : List Byte := img.bytes ++ writeField .w4 (crc32 img.bytes).toNat

end Sys2Proof.Machine
end

