-- ==== Sys2Proof/Config.lean ====
section
/-! DEFINITION. What one part fixes for good: the constants the manual states outside the configuration image, and
the model's free values. -/

namespace Sys2Proof.Config

/-- The scan round, in ms (02 R26). -/
def roundTime : Nat := 20
/-- The poll slot, in ms (07 R120). -/
def slotTime : Nat := 25
/-- The reply window, in ms (07 R121). -/
def replyWindow : Nat := 15
/-- The sync pass period, in ms (04 R71). -/
def syncPassTime : Nat := 100
/-- The frame timer of a controller link, in ms (09 R153). -/
def frameTime : Nat := 20
/-- Notices one link's queue holds (09 R161). -/
def noticeCap : Nat := 32
/-- Notices one READ NOTICES removes (09 R162). -/
def noticeRead : Nat := 8
/-- Responses that may await transmission on one link (09 R154). -/
def responseCap : Nat := 4
/-- Entries the reservation queue holds (07 R126). -/
def queueCap : Nat := 16
/-- Lowest and highest frequency in range, in mHz (02 R34). -/
def freqMin : Nat := 40000
/-- See `freqMin`. -/
def freqMax : Nat := 70000
/-- Largest arrival number (07 R126). -/
def arrivalMax : Nat := 4294967295

/-- FREE VALUE (log 28): the frequency computed from nine crossings that carry one and the same time. The manual's
quotient 8 × 10^9 / T8 has no value there (02 R34). Nothing can evaluate it. -/
opaque freqOfZeroSpan : Nat

/-- FREE VALUE (log 28): the quotient d × 360 / P of a SYNC-IN crossing at a distance `d` µs where the reference period
P is 0. The manual's quotient has no value there (02 R39). Nothing can evaluate it. -/
opaque angleOfZeroPeriod : Nat → Nat

/-- FREE VALUE (log 37): the target of a share set, from the pool, where the proportional rating is 0. The manual's
quotient has no value there (03 R45). Nothing can evaluate it. -/
opaque targetOfNoRating : Nat → Nat

end Sys2Proof.Config
end

