-- ==== Sys2Proof/Machine/Ops.lean ====
section
/-! DEFINITION. The operations every block shares: what is present, the settings in force, the passing of time,
notices, the partition, and the accessors of filters, sets, groups and links. -/

namespace Sys2Proof.Machine

/-! ### Whether the part runs, and what is present -/

/-- The part has power and is not held in reset (10 R165). -/
def State.alive (s : State) : Bool := s.start.power && !s.start.resetLine

/-- The Link Interface, the Scanner and the filters have started (09 R152, 02 R26, 01 R2). -/
def State.started (s : State) : Bool := s.alive && s.start.checked

/-- The operating state is RUNNING. -/
def State.running (s : State) : Bool := decide (s.start.op = .running)

/-- Section present (01 R15). -/
def sectPresent (s : State) (x : Fin 4) : Bool := s.conf.sections[x].present

/-- Set present: its flag is yes and so is its section's (01 R4). -/
def setPresent (s : State) (g : Fin 8) : Bool := s.conf.sets[g].present && sectPresent s s.conf.sets[g].sect

/-- The section below which tie `t` stands in the ring: T0 joins S0 and S1, up to T3, which joins S3 and S0 (01 R16). -/
def tieLow (t : Fin 4) : Fin 4 := if t = 3 then 0 else t

/-- The other section of tie `t`; for T3 it is S3 (04 R63). -/
def tieHigh (t : Fin 4) : Fin 4 := if t = 3 then 3 else t + 1

/-- Tie present, and both of its sections (01 R16). -/
def tieUsable (s : State) (t : Fin 4) : Bool :=
  s.conf.ties[t].present && sectPresent s (tieLow t) && sectPresent s (tieHigh t)

/-- Group present: adopted since the reset, its flag yes and its section present (05 R85, R98, R99). -/
def groupPresent (s : State) (g : Fin 32) : Bool :=
  s.start.adopted && s.conf.groups[g].present && sectPresent s s.conf.groups[g].sect

/-- The Working settings every block reads: those of the active profile, or the defaults while the stack is empty
(08 R138). -/
def settings (s : State) : Settings :=
  match s.prof.stack.getLast? with
  | some p => s.prof.working[p]
  | none => Settings.default

/-- SUPERVISED (09 R157). -/
def State.supervised (s : State) : Bool := s.link.a.active || s.link.b.active

/-! ### Time -/

/-- `n` ms pass on a timer. -/
def Timer.elapse (n : Nat) (t : Timer) : Timer := t.map (· - n)

/-- `n` ms pass on an input's filter. -/
def Filter.elapse (n : Nat) (f : Filter) : Filter := { f with timer := Timer.elapse n f.timer }

/-- `n` ms pass on a controller link. -/
def LinkRt.elapse (n : Nat) (l : LinkRt) : LinkRt :=
  { l with timer := Timer.elapse n l.timer, frame := Timer.elapse n l.frame }

/-- `n` ms pass on a request's timers. -/
def SyncReq.elapse (n : Nat) (r : SyncReq) : SyncReq :=
  { r with
    settle := Timer.elapse n r.settle, limit := Timer.elapse n r.limit, pass := Timer.elapse n r.pass,
    pulse := Timer.elapse n r.pulse, confirm := Timer.elapse n r.confirm }

/-- `n` ms pass on a dwell timer: only a RUNNING one counts (06 R100). -/
def Dwell.elapse (n : Nat) (d : Dwell) : Dwell :=
  if d.state = .running then { d with remaining := d.remaining - n } else d

/-- The notice clock `n` ms later, wrapping after 4,294,967,295 (09 R152). -/
def clockAfter (c n : Nat) : Nat := (c + n) % 4294967296

/-- `n` ms pass: every running timer counts down and the notice clock counts up (00 section 0.5, log 2). Without
power, or held in reset, nothing counts. -/
def elapse (n : Nat) (s : State) : State :=
  if s.alive then
    { s with
      plant.gcb := tab (fun _ => Filter.elapse n) s.plant.gcb,
      plant.ready := tab (fun _ => Filter.elapse n) s.plant.ready,
      plant.trip := tab (fun _ => Filter.elapse n) s.plant.trip,
      plant.tie := tab (fun _ => Filter.elapse n) s.plant.tie,
      plant.confirm := tab (fun _ => Filter.elapse n) s.plant.confirm,
      scan.round := Timer.elapse n s.scan.round,
      scan.sect := tab (fun _ c => { c with loss := Timer.elapse n c.loss }) s.scan.sect,
      scan.chanIn.loss := Timer.elapse n s.scan.chanIn.loss,
      scan.chanRef.loss := Timer.elapse n s.scan.chanRef.loss,
      share.sets := tab
        (fun _ c => { c with openWait := Timer.elapse n c.openWait, openPulse := Timer.elapse n c.openPulse }) s.share.sets,
      share.period := Timer.elapse n s.share.period,
      sync.req := s.sync.req.map (SyncReq.elapse n),
      shed.groups := tab (fun _ c => { c with confirm := Timer.elapse n c.confirm }) s.shed.groups,
      shed.dwell := tab (fun _ => Dwell.elapse n) s.shed.dwell,
      shed.restore := tab (fun _ => Timer.elapse n) s.shed.restore,
      resv.queue := s.resv.queue.map fun e => { e with remaining := e.remaining - n },
      line.slot := Timer.elapse n s.line.slot,
      line.window := Timer.elapse n s.line.window,
      link.a := s.link.a.elapse n,
      link.b := s.link.b.elapse n,
      link.clock := clockAfter s.link.clock n,
      link.joint := s.link.joint.map fun j => { j with window := j.window - n } }
  else s

/-- The expiry of a timer as a command: where the timer runs, the time it still had passes and `act` is taken; where
it does not run, no such event arises (log 3). -/
def onExpiry (t : Timer) (s : State) (act : State → State) : State :=
  match t with
  | some r => act (elapse r s)
  | none => s

/-! ### Notices (09 R161) -/

/-- A notice appended to one link's queue, or dropped with the OVERFLOW mark set where it already holds 32. -/
def LinkRt.append (n : Notice) (l : LinkRt) : LinkRt :=
  if l.notices.length < Config.noticeCap then { l with notices := l.notices ++ [n] } else { l with overflow := true }

/-- A notice of the given kind, subject and value, created now. -/
def newNotice (k : NoticeKind) (subject : Option Nat) (value : Option Int) (s : State) : Notice :=
  { kind := k, subject := subject, value := value, gen := s.plant.generation, time := s.link.clock }

/-- A notice submitted to the Link Interface: one copy to each link's queue. -/
def notify (k : NoticeKind) (subject : Option Nat) (value : Option Int) (s : State) : State :=
  { s with
    link.a := s.link.a.append (newNotice k subject value s),
    link.b := s.link.b.append (newNotice k subject value s) }

/-! ### Links -/

/-- The state of a link. -/
def LinkIf.get (li : LinkIf) : Link → LinkRt
  | .a => li.a
  | .b => li.b

/-- A link's state replaced. -/
def LinkIf.put (li : LinkIf) (l : Link) (x : LinkRt) : LinkIf :=
  match l with
  | .a => { li with a := x }
  | .b => { li with b := x }

/-- A link's state changed. -/
def updLink (l : Link) (f : LinkRt → LinkRt) (s : State) : State :=
  { s with link := s.link.put l (f (s.link.get l)) }

/-! ### Filtered inputs -/

/-- The filter of an input. -/
def getFilter (s : State) : PlantInput → Filter
  | .gcbStatus g => s.plant.gcb[g]
  | .setReady g => s.plant.ready[g]
  | .tieStatus t => s.plant.tie[t]
  | .setTrip g => s.plant.trip[g]
  | .confirm c => s.plant.confirm[c]

/-- The filter of an input replaced. -/
def setFilter (i : PlantInput) (f : Filter) (s : State) : State :=
  match i with
  | .gcbStatus g => { s with plant.gcb := put s.plant.gcb g f }
  | .setReady g => { s with plant.ready := put s.plant.ready g f }
  | .tieStatus t => { s with plant.tie := put s.plant.tie t f }
  | .setTrip g => { s with plant.trip := put s.plant.trip g f }
  | .confirm c => { s with plant.confirm := put s.plant.confirm c f }

/-- The filter time of an input (01 R1), from the values the blocks were initialised with. -/
def filterTime (g : GeneralCfg) : PlantInput → Nat
  | .gcbStatus _ => g.breakerFilter
  | .setReady _ => g.breakerFilter
  | .tieStatus _ => g.breakerFilter
  | .setTrip _ => g.tripFilter
  | .confirm _ => g.confirmFilter

/-- Every filtered input is settled (01 R2). -/
def allSettled (s : State) : Bool :=
  s.plant.gcb.toList.all (·.filtered.isSome) && s.plant.ready.toList.all (·.filtered.isSome) &&
  s.plant.trip.toList.all (·.filtered.isSome) && s.plant.tie.toList.all (·.filtered.isSome) &&
  s.plant.confirm.toList.all (·.filtered.isSome)

/-! ### Sets and groups -/

/-- The runtime record of a set. -/
def updSet (g : Fin 8) (f : SetRt → SetRt) (s : State) : State := { s with plant.sets := upd s.plant.sets g f }

/-- A set's state changed. -/
def setSetState (g : Fin 8) (st : SetState) (s : State) : State := updSet g (fun r => { r with state := st }) s

/-- The Sharing Engine's record of a set. -/
def updShare (g : Fin 8) (f : ShareRt → ShareRt) (s : State) : State := { s with share.sets := upd s.share.sets g f }

/-- A group's runtime record. -/
def updGroup (g : Fin 32) (f : GroupRt → GroupRt) (s : State) : State := { s with shed.groups := upd s.shed.groups g f }

/-- A set is online (01 section 1.3): ONLINE or UNLOADING. -/
def SetState.isOnline : SetState → Bool
  | .online => true
  | .unloading => true
  | .offline => false
  | .incoming => false
  | .tripped => false

/-! ### The partition (01 R17) -/

/-- Tie `t` joins its two sections (01 R16). -/
def tieJoins (s : State) (t : Fin 4) : Bool := tieUsable s t && decide (s.plant.tie[t].filtered = some true)

/-- The `n` ties met going up the ring from section `x` all join. -/
def arcJoined (s : State) (x : Fin 4) : Nat → Bool
  | 0 => true
  | n + 1 => tieJoins s x && arcJoined s (x + 1) n

/-- A chain of joining ties connects `x` and `y`: going up the ring from `x` to `y`, or from `y` to `x`. -/
def connected (s : State) (x y : Fin 4) : Bool := arcJoined s x (y - x).val || arcJoined s y (x - y).val

/-- The lowest section connected to `x`. -/
def lowestConnected (s : State) (x : Fin 4) : Fin 4 := (four.find? fun y => connected s x y).getD x

/-- The partition: each section's island, numbered by its lowest section. -/
def computePartition (s : State) : Vector (Fin 4) 4 := Vector.ofFn fun x => lowestConnected s x

/-- The sections of island `i` under a partition, ascending. -/
def sectionsOf (p : Vector (Fin 4) 4) (i : Fin 4) : List (Fin 4) := four.filter fun x => decide (p[x] = i)

/-- The island of a section, where the partition is computed. -/
def islandOf (s : State) (x : Fin 4) : Option (Fin 4) := s.plant.partition.map fun p => p[x]

/-- The island of a set: the island of its section (01 R17). -/
def setIsland (s : State) (g : Fin 8) : Option (Fin 4) := islandOf s s.conf.sets[g].sect

/-- Every TIE-STATUS input of a present tie is settled (01 R2). -/
def tiesSettled (s : State) : Bool :=
  four.all fun t => !s.conf.ties[t].present || s.plant.tie[t].filtered.isSome

/-- The online sets of island `i`, ascending (01 R20). -/
def onlineSets (s : State) (i : Fin 4) : List (Fin 8) :=
  eight.filter fun g => setPresent s g && s.plant.sets[g].state.isOnline && decide (setIsland s g = some i)

/-- The ONLINE sets of island `i`, ascending: those that count in its capacity. -/
def capacitySets (s : State) (i : Fin 4) : List (Fin 8) :=
  eight.filter fun g => setPresent s g && decide (s.plant.sets[g].state = .online) && decide (setIsland s g = some i)

/-- A set's reading, or its held value while INVALID (02 R29, R30). -/
def reading (s : State) (g : Fin 8) : Nat := s.scan.kw[g].value

/-- The sum of the readings of island `i`'s online sets (01 R20): L, and Lpre of R13. -/
def islandLoad (s : State) (i : Fin 4) : Nat := ((onlineSets s i).map (reading s)).sum

/-- floor(rating × limit‰ / 1000) of a set. -/
def limited (s : State) (limit : Nat) (g : Fin 8) : Nat := s.conf.sets[g].rating * limit / 1000

/-! ### Outputs that another item fixes (log 38) -/

/-- GCB-OPEN n (03 R57). -/
def State.gcbOpen (s : State) (g : Fin 8) : Bool := s.share.sets[g].openPulse.isSome

/-- The close line of a request is asserted (04 R77). -/
def SyncReq.closing (r : SyncReq) : Bool := decide (r.stage = .close) && r.pulse.isSome

/-- GCB-CLOSE n (04 R77). -/
def State.gcbClose (s : State) (g : Fin 8) : Bool :=
  match s.sync.req with
  | some r => decide (r.obj = .set g) && r.closing
  | none => false

/-- TIE-CLOSE t (04 R77). -/
def State.tieClose (s : State) (t : Fin 4) : Bool :=
  match s.sync.req with
  | some r => decide (r.obj = .tie t) && r.closing
  | none => false

/-- The SELECTOR code of an object: n for Gn, 8 + t for Tt (04 R63). -/
def SyncObj.code : SyncObj → Nat
  | .set g => g.val
  | .tie t => 8 + t.val

/-- The SELECTOR code driven (04 R63, R83). -/
def State.selector (s : State) : Nat :=
  match s.sync.req with
  | some r => r.obj.code
  | none => 15

/-- ATTN-A and ATTN-B (09 R163). -/
def State.attn (s : State) (l : Link) : Bool := !(s.link.get l).notices.isEmpty

/-- BIAS n (03 R41). -/
def State.biasOut (s : State) (g : Fin 8) : Int := s.share.sets[g].bias

/-- SHED n (05 R87). -/
def State.shedOut (s : State) (g : Fin 32) : Bool := s.shed.groups[g].out

end Sys2Proof.Machine
end

