-- ==== Sys2Proof/Machine/Flags.lean ====
section
/-! DEFINITION. The island account and its flags (01 R20 to R22), and the two parts of the slow-shed condition
(06 R109). -/

namespace Sys2Proof.Machine

/-- The overload part of the slow-shed condition: L > C (06 R109). -/
def overloadPart (load cap : Nat) : Bool := decide (cap < load)

/-- The underfrequency part: the frequency is valid and below nominal − offset (06 R109). -/
def underPart (nominal offset : Nat) (freq : Option Nat) : Bool :=
  match freq with
  | some f => decide ((f : Int) < (nominal : Int) - (offset : Int))
  | none => false

/-- The overload part of an account. -/
def Account.overload (a : Account) : Bool := overloadPart a.load a.cap

/-- The underfrequency part of an account, under the settings in force. -/
def Account.under (s : State) (a : Account) : Bool :=
  underPart s.conf.general.nominal (settings s).underOffset a.freq

/-- The slow-shed condition an account shows (06 R109). -/
def Account.slowShed (s : State) (a : Account) : Bool := a.overload || a.under s

/-- DEGRADED: an online set has an INVALID reading (01 R22). -/
def degradedFlag (s : State) (online : List (Fin 8)) : Bool :=
  online.any fun g => decide (s.scan.kw[g].validity = .invalid)

/-- ALL_BASE: there is an online set, and none is in SHARE mode with a valid reading (01 R22). -/
def allBaseFlag (s : State) (online : List (Fin 8)) : Bool :=
  !online.isEmpty &&
  online.all fun g => !(decide (s.prof.active.sets[g].mode = .share) && decide (s.scan.kw[g].validity = .valid))

/-- The island frequency (01 R21): that of its lowest section that is LIVE with a valid frequency. -/
def islandFreq (s : State) (sections : List (Fin 4)) : Option Nat :=
  match sections.find? (fun x => decide (s.scan.sect[x].live = .live) && s.plant.freq[x].isSome) with
  | some x => s.plant.freq[x]
  | none => none

/-- The entry's island, looked up at each use (07 R126). -/
def Entry.island (s : State) (e : Entry) : Option (Fin 4) := islandOf s e.sect

/-- The island's entries in the given state. -/
def entriesOf (s : State) (i : Fin 4) (st : EntryState) : List Entry :=
  s.resv.queue.filter fun e => decide (e.state = st) && decide (e.island s = some i)

/-- R of an island: the kW of its OFFERED and ACTIVE entries (07 R133). -/
def reserved (s : State) (i : Fin 4) : Nat :=
  ((s.resv.queue.filter fun e => decide (e.state ≠ .waiting) && decide (e.island s = some i)).map (·.kw)).sum

/-- `e` goes before `f` as the candidate: higher level, then lower arrival number (07 R128). -/
def Entry.before (e f : Entry) : Bool :=
  decide (f.level < e.level) || (decide (e.level = f.level) && decide (e.arrival < f.arrival))

/-- The candidate of an island (07 R128). -/
def candidate (s : State) (i : Fin 4) : Option Entry :=
  (entriesOf s i .waiting).foldl
    (fun best e =>
      match best with
      | none => some e
      | some b => if e.before b then some e else some b)
    none

/-- The island's OFFERED entry (07 R126). -/
def offeredEntry (s : State) (i : Fin 4) : Option Entry := (entriesOf s i .offered).head?

/-- Whether an entry of the island is ACTIVE (07 R133). -/
def activePresent (s : State) (i : Fin 4) : Bool := !(entriesOf s i .active).isEmpty

/-- The wanted capacity (01 R20): max(0, candidate's kW − spare), 0 without a candidate. -/
def wantedOf (cand : Option Entry) (spare : Int) : Nat :=
  match cand with
  | some e => ((e.kw : Int) - spare).toNat
  | none => 0

/-- The account of island `i` from the state as it stands (01 R20 to R22), with the SHORTFALL flag given. -/
def computeAccount (s : State) (p : Vector (Fin 4) 4) (i : Fin 4) (shortfall : Bool) : Account :=
  let w := settings s
  let sections := sectionsOf p i
  let online := onlineSets s i
  let load := islandLoad s i
  let cap := ((capacitySets s i).map (limited s w.loadLimit)).sum
  let fast := ((capacitySets s i).map (limited s w.fastLimit)).sum
  let resv := reserved s i
  let spare : Int := (cap : Int) - (load : Int) - (resv : Int)
  let freq := islandFreq s sections
  { sections := sections, online := online, load := load, cap := cap, fast := fast, resv := resv, spare := spare,
    wanted := wantedOf (candidate s i) spare, freq := freq, degraded := degradedFlag s online,
    isOver := overloadPart load cap || underPart s.conf.general.nominal w.underOffset freq, shortfall := shortfall,
    allBase := allBaseFlag s online, dead := online.isEmpty }

/-- The account island number `i` has now: none where the partition is not computed, `i` names no island, or the
island is vacant (01 R17). The SHORTFALL flag of an account that stood is carried, over a RESUME too. DESIGN CHOICE
(log 43): 01 R25 does not say whether it survives one. -/
def newAccount (s : State) (i : Fin 4) (old : Option Account) : Option Account :=
  match s.plant.partition with
  | none => none
  | some p =>
    if p[i] = i ∧ (sectionsOf p i).any (sectPresent s) then
      some (computeAccount s p i (match old with | some a => a.shortfall | none => false))
    else none

/-- The accounts of the listed islands recomputed (01 R23). -/
def recompute (is : List (Fin 4)) (s : State) : State :=
  { s with plant.accounts := tab (fun i old => if i ∈ is then newAccount s i old else old) s.plant.accounts }

/-- An island's SHORTFALL flag written (06 R100). -/
def setShortfall (i : Fin 4) (b : Bool) (s : State) : State :=
  { s with plant.accounts := upd s.plant.accounts i fun a => a.map fun a => { a with shortfall := b } }

end Sys2Proof.Machine
end

