-- ==== Sys2Proof/Machine/ResvOps.lean ====
section
/-! DEFINITION. The Reservation Arbiter's operations on its queue and the pending answers (07). -/

namespace Sys2Proof.Machine

/-- An answer made pending for a consumer of a station; it replaces the one pending (07 R124). -/
def answer (st : Fin 12) (c : Fin 4) (a : Answer) (s : State) : State :=
  { s with
    line.stations := upd s.line.stations st fun r =>
      { r with answers := put r.answers c (some { answer := a, delivered := false }) } }

/-- The entry of a station and consumer index. -/
def findEntry (s : State) (st : Fin 12) (c : Fin 4) : Option Entry :=
  s.resv.queue.find? fun e => decide (e.station = st) && decide (e.consumer = c)

/-- The entry names this station and consumer. -/
def Entry.isOf (st : Fin 12) (c : Fin 4) (e : Entry) : Bool := decide (e.station = st) && decide (e.consumer = c)

/-- The entry of a station and consumer index changed. -/
def updEntry (st : Fin 12) (c : Fin 4) (f : Entry → Entry) (s : State) : State :=
  { s with resv.queue := s.resv.queue.map fun e => if e.isOf st c then f e else e }

/-- The entry of a station and consumer index removed. -/
def dropEntry (st : Fin 12) (c : Fin 4) (s : State) : State :=
  { s with resv.queue := s.resv.queue.filter fun e => !e.isOf st c }

/-- A WAITING entry becomes OFFERED (07 R128): its wait timer ends, its accept deadline starts, OFFER is pending. -/
def makeOffer (e : Entry) (s : State) : State :=
  answer e.station e.consumer .offer
    (updEntry e.station e.consumer (fun x => { x with state := .offered, remaining := (settings s).acceptTime }) s)

/-- An OFFERED entry returns to WAITING (07 R129, R132): its deadline ends, its wait timer starts with the queue wait
limit, WITHDRAWN is pending. -/
def returnOffer (e : Entry) (s : State) : State :=
  answer e.station e.consumer .withdrawn
    (updEntry e.station e.consumer (fun x => { x with state := .waiting, remaining := (settings s).waitLimit * 1000 }) s)

/-- The offers among the listed entries withdrawn, all at one event (07 R132). -/
def returnOffers (es : List Entry) (s : State) : State := es.foldl (fun t e => returnOffer e t) s

/-- What the offer test of island `i` does (07 R128, R129): an offer, a swap, or nothing (`none`). -/
def offerTest (i : Fin 4) (s : State) : Option State :=
  match s.plant.accounts[i], candidate s i with
  | some a, some e =>
    match offeredEntry s i with
    | none => if (e.kw : Int) ≤ a.spare then some (makeOffer e s) else none
    | some o =>
      if o.level < e.level ∧ (e.kw : Int) ≤ a.spare + (o.kw : Int) then some (makeOffer e (returnOffer o s)) else none
  | _, _ => none

/-- The Arbiter sees an account's wanted field (07 R133): CAPACITY_WANTED where it rose from 0. -/
def seeWanted (i : Fin 4) (s : State) : State :=
  match s.plant.accounts[i] with
  | some a =>
    let s1 :=
      if s.resv.lastWanted[i] = 0 ∧ a.wanted ≠ 0 then notify .capacityWanted (some i.val) (some (a.wanted : Int)) s else s
    { s1 with resv.lastWanted := put s1.resv.lastWanted i a.wanted }
  | none => s

/-- The queue with arrival numbers 1, 2 and so on in its order (07 R126). -/
def renumber (n : Nat) : List Entry → List Entry
  | [] => []
  | e :: es => { e with arrival := n } :: renumber (n + 1) es

/-- A new entry put into the queue with the next arrival number (07 R126, R127). -/
def enqueueEntry (e : Entry) (s : State) : State :=
  let c := if s.resv.queue.isEmpty then 1 else s.resv.counter
  let q := s.resv.queue ++ [{ e with arrival := c }]
  if c < Config.arrivalMax then { s with resv.queue := q, resv.counter := c + 1 }
  else { s with resv.queue := renumber 1 q, resv.counter := q.length + 1 }

end Sys2Proof.Machine
end

