-- ==== Sys2Proof/Machine/ShedOps.lean ====
section
/-! DEFINITION. The Shed Controller's operations: orders, selections, shed actions, the restore gates and the dwell
timers (05, 06). -/

namespace Sys2Proof.Machine

/-- Group `g`'s level in the ACTIVE bank. -/
def groupLevel (s : State) (g : Fin 32) : Nat := s.prof.active.groups[g].level

/-- Group `g`'s expected load in the ACTIVE bank. -/
def groupLoad (s : State) (g : Fin 32) : Nat := s.prof.active.groups[g].load

/-- The island of group `g` (05 R85). -/
def groupIsland (s : State) (g : Fin 32) : Option (Fin 4) := islandOf s s.conf.groups[g].sect

/-- Group `g` is present, in island `i`, in state `st` and of level `lv`. -/
def groupAt (s : State) (i : Fin 4) (st : GroupState) (lv : Nat) (g : Fin 32) : Bool :=
  groupPresent s g && decide (groupIsland s g = some i) && decide (s.shed.groups[g].state = st) &&
  decide (groupLevel s g = lv)

/-- The shed order of island `i` (05 R95): CONNECTED, by ascending level 1 to 7, then descending group number. -/
def shedOrder (s : State) (i : Fin 4) : List (Fin 32) :=
  [1, 2, 3, 4, 5, 6, 7].flatMap fun lv => thirtyTwo.reverse.filter (groupAt s i .connected lv)

/-- The restore order of island `i` (05 R96): SHED, by descending level, then ascending group number. -/
def restoreOrder (s : State) (i : Fin 4) : List (Fin 32) :=
  [7, 6, 5, 4, 3, 2, 1].flatMap fun lv => thirtyTwo.filter (groupAt s i .shed lv)

/-- A cause automatic restore acts on (06 R114). -/
def ShedCause.automatic : ShedCause → Bool
  | .autoFast => true
  | .autoSlow => true
  | .blackout => true
  | .manual => false
  | .adopted => false

/-- The causes as notice values (05 R86). -/
def ShedCause.code : ShedCause → Nat
  | .autoFast => 1
  | .autoSlow => 2
  | .blackout => 3
  | .manual => 4
  | .adopted => 5

/-- The restore candidate of island `i` (06 R114): the first of its restore order with an automatic cause. -/
def restoreCandidate (s : State) (i : Fin 4) : Option (Fin 32) :=
  (restoreOrder s i).find? fun g =>
    match s.shed.groups[g].cause with
    | some c => c.automatic
    | none => false

/-- The restore gates of island `i` (06 R114), each read as it stands. -/
def gatesHold (s : State) (i : Fin 4) : Bool :=
  s.running && s.supervised && (settings s).autoRestore &&
  match s.plant.accounts[i], restoreCandidate s i with
  | some a, some g =>
    !a.isOver && !a.dead && decide (s.shed.dwell[i].state = .idle) &&
    decide (((groupLoad s g + (settings s).restoreMargin : Nat) : Int) ≤ a.spare)
  | _, _ => false

/-- The restore delay timer of island `i` cancelled. -/
def cancelRestore (i : Fin 4) (s : State) : State := { s with shed.restore := put s.shed.restore i none }

/-- Every restore delay timer cancelled. -/
def cancelRestores (s : State) : State := { s with shed.restore := Vector.replicate 4 none }

/-- A gate test that cancels (06 R115): a running restore delay is cancelled where a gate fails. -/
def testGates (i : Fin 4) (s : State) : State := if gatesHold s i then s else cancelRestore i s

/-- The gate test for the island of a group (06 R115). -/
def testGatesOf (g : Fin 32) (s : State) : State :=
  match groupIsland s g with
  | some i => testGates i s
  | none => s

/-- The start of a restore delay at a scan-round update (06 R115). -/
def startRestore (i : Fin 4) (s : State) : State :=
  if gatesHold s i ∧ s.shed.restore[i] = none then
    { s with shed.restore := put s.shed.restore i (some (settings s).restoreDelay) }
  else s

/-- The filtered state of group `g`'s confirm input says the feeder is open, or no input is configured: a shed
action passes straight to SHED (05 R88). -/
def opensAtOnce (s : State) (g : Fin 32) : Bool :=
  match s.conf.groups[g].confirm with
  | none => true
  | some c => decide (s.plant.confirm[c].filtered = some true)

/-- The shed action on one group (05 R88). -/
def shedGroup (cause : ShedCause) (g : Fin 32) (s : State) : State :=
  let straight := opensAtOnce s g
  let time := s.conf.general.confirmTime
  updGroup g
    (fun _ =>
      { state := if straight then .shed else .shedPending, cause := some cause,
        confirm := if straight then none else some time, out := true })
    s

/-- One shed action on several groups, and the gate test of their islands (05 R88, 06 R115). -/
def shedAction (cause : ShedCause) (gs : List (Fin 32)) (s : State) : State :=
  gs.foldl (fun t g => testGatesOf g t) (gs.foldl (fun t g => shedGroup cause g t) s)

/-- A group returned to CONNECTED with its output released (05 R92), and the gate test of its island. -/
def connectGroup (g : Fin 32) (s : State) : State :=
  testGatesOf g (updGroup g (fun _ => { state := .connected, cause := none, confirm := none, out := false }) s)

/-- The walk of a selection (06 R101): groups from the head until their expected loads cover the amount still
`need`ed; the groups taken, and whether the order ran out. -/
def walk (load : Fin 32 → Nat) : Nat → List (Fin 32) → List (Fin 32) × Bool
  | 0, _ => ([], false)
  | _ + 1, [] => ([], true)
  | n + 1, g :: gs =>
    let r := walk load (n + 1 - load g) gs
    (g :: r.1, r.2)

/-- The selection for island `i` and an amount (06 R101). -/
def selection (s : State) (i : Fin 4) (amount : Nat) : List (Fin 32) × Bool :=
  walk (groupLoad s) amount (shedOrder s i)

/-- The subject of FAST_SHED and MAKE_UP_SHED (06 R103). -/
def shedSubject (i : Fin 4) (sel : List (Fin 32) × Bool) : Nat :=
  i.val + 4 * sel.1.length + (if sel.2 then 256 else 0)

/-- A selection shed with cause AUTO_FAST, SHORTFALL written and the notice sent (06 R103, R105). -/
def shedSelection (k : NoticeKind) (i : Fin 4) (amount : Nat) (s : State) : State :=
  let sel := selection s i amount
  notify k (some (shedSubject i sel)) (some amount) (setShortfall i sel.2 (shedAction .autoFast sel.1 s))

/-- The pending credit of island `i` (06 R102). -/
def pendingCredit (s : State) (i : Fin 4) : Nat :=
  ((thirtyTwo.filter fun g =>
    groupPresent s g && decide (groupIsland s g = some i) && decide (s.shed.groups[g].state = .shedPending)).map
      (groupLoad s)).sum

/-- The fast shed of a set loss with pre-loss load `lpre` (06 R102, R103), on the account as the loss left it. A DEAD
island has its blackout shed at the account update instead. -/
def fastShed (i : Fin 4) (lpre : Nat) (s : State) : State :=
  match s.plant.accounts[i] with
  | some a =>
    let d : Int := (lpre : Int) - (a.fast : Int) - (pendingCredit s i : Int)
    if s.running ∧ ¬ a.dead ∧ 0 < d then shedSelection .fastShed i d.toNat s else s
  | none => s

/-- The blackout shed of island `i` (06 R108). -/
def blackoutShed (i : Fin 4) (s : State) : State :=
  let order := shedOrder s i
  notify .blackoutShed (some i.val) (some (order.length : Int)) (shedAction .blackout order s)

/-- Island `i`'s dwell timer written. -/
def setDwell (i : Fin 4) (d : Dwell) (s : State) : State := { s with shed.dwell := put s.shed.dwell i d }

/-- RUNNING, or FROZEN where the island holds an ACTIVE entry (06 R112). -/
def allowanceState (active : Bool) : DwellState := if active then .frozen else .running

/-- A dwell timer of kind UNDERFREQUENCY just started. -/
def startUnder (w : Settings) : Dwell := { state := .running, kind := some .underfrequency, remaining := w.underDwell }

/-- A dwell timer of kind OVERLOAD just started. -/
def startOver (w : Settings) (active : Bool) : Dwell :=
  { state := allowanceState active, kind := some .overload, remaining := w.overDwell }

/-- The dwell timer after a scan-round update (06 R110, R111), from the two parts of the condition found. -/
def dwellNext (w : Settings) (isOver under active : Bool) (d : Dwell) : Dwell :=
  if ¬ (isOver ∨ under) then Dwell.idle
  else
    match d.state with
    | .idle => if under then startUnder w else startOver w active
    | .running | .frozen =>
      if under then
        if d.kind = some .underfrequency then d
        else { state := .running, kind := some .underfrequency, remaining := min d.remaining w.underDwell }
      else { state := allowanceState active, kind := some .overload, remaining := d.remaining }

/-- The start allowance at an event update (06 R112). -/
def dwellAllow (active : Bool) (d : Dwell) : Dwell :=
  match d.state with
  | .idle => d
  | .running => if d.kind = some .overload ∧ active then { d with state := .frozen } else d
  | .frozen => if active then d else { d with state := .running }

/-- The Shed Controller takes an account update of island `i` (06 R100): the dwell timer, then the restore gates.
Nothing is done outside RUNNING (06 R117). -/
def shedUpdate (scan : Bool) (i : Fin 4) (s : State) : State :=
  if s.running then
    match s.plant.accounts[i] with
    | some a =>
      let active := activePresent s i
      if scan then
        let s1 := setDwell i (dwellNext (settings s) a.overload (a.under s) active s.shed.dwell[i]) s
        startRestore i (testGates i s1)
      else testGates i (setDwell i (dwellAllow active s.shed.dwell[i]) s)
    | none => s
  else s

end Sys2Proof.Machine
end

