-- ==== Sys2Proof/Machine/PlantOps.lean ====
section
/-! DEFINITION. Moving a set between its states, the end of a synchronising request, the account update with all it
hands on, set loss and partition change (01, 03 R51 and R59, 04 R79). -/

namespace Sys2Proof.Machine

/-- Parking (03 R51): park bias, k = 0, SATURATED clear, no unload. Outside RUNNING the bias keeps its value
(03 R54). A GCB-OPEN pulse runs on. -/
def park (g : Fin 8) (s : State) : State :=
  updShare g
    (fun r =>
      { r with
        bias := if s.running then s.conf.sets[g].park else r.bias, k := 0, sat := .clear, unload := .none,
        openWait := none })
    s

/-- A set handed over ONLINE with ramp counter `k` (03 R52); its bias stands, and no unload of it is in flight. -/
def toOnline (g : Fin 8) (k : Nat) (s : State) : State :=
  updShare g (fun r => { r with k := k, unload := .none, openWait := none }) (setSetState g .online s)

/-! ### The synchronising pair and the end of a request (02 R37, 04 R77 to R80) -/

/-- The selector handed to the Scanner with a code 0 to 14 (02 R37). -/
def selectPair (s : State) : State :=
  let c : SyncChan := { record := [], freq := none, loss := some s.conf.general.lossTime }
  { s with
    scan.selector := .settling, scan.chanIn := c, scan.chanRef := c, scan.phi := none,
    scan.vin := { volt := 0, live := .uncertain }, scan.vref := { volt := 0, live := .uncertain },
    scan.converting := false }

/-- The selector's release handed to the Scanner (02 R37). -/
def releasePair (s : State) : State :=
  let c : SyncChan := { record := [], freq := none, loss := none }
  { s with
    scan.selector := .released, scan.chanIn := c, scan.chanRef := c, scan.phi := none,
    scan.vin := { volt := 0, live := .uncertain }, scan.vref := { volt := 0, live := .uncertain },
    scan.converting := false }

/-- The request ends: no record, so no close line, timer, lock or selector code is left, and the offset is 0
(04 R77, R79). -/
def endRequest (s : State) : State := releasePair { s with sync.req := none, sync.offset := 0 }

/-- A confirmed close ends its request with SYNC_DONE (04 R77, R78). -/
def syncDone (s : State) : State :=
  match s.sync.req with
  | some r => notify .syncDone (some r.obj.code) (some (if r.deadBus then 0 else 1)) (endRequest s)
  | none => s

/-- The cause values (04 R80). -/
def AbortCause.code : AbortCause → Nat
  | .cancelled => 1
  | .timeout => 2
  | .lostReference => 3
  | .setTripped => 4
  | .topologyChanged => 5
  | .held => 6
  | .closeFailed => 7
  | .bothDead => 8
  | .noDeadBus => 9
  | .externalClose => 10
  | .setNotReady => 11

/-- The release of a request's set after an abort (01 R10, 04 R79): an INCOMING set becomes OFFLINE and is parked. -/
def releaseObj (o : SyncObj) (s : State) : State :=
  match o with
  | .set g => if s.plant.sets[g].state = .incoming then park g (setSetState g .offline s) else s
  | .tie _ => s

/-- An abort of the request in flight (04 R79). -/
def syncAbort (cause : AbortCause) (s : State) : State :=
  match s.sync.req with
  | some r =>
    let s1 := endRequest s
    notify .syncAborted (some r.obj.code) (some (cause.code : Int))
      (releaseObj r.obj { s1 with sync.lastAbort := some cause })
  | none => s

/-- The request in flight is for this object. -/
def requestFor (s : State) (o : SyncObj) : Option SyncReq :=
  match s.sync.req with
  | some r => if r.obj = o then some r else none
  | none => none

/-! ### The account update (01 R23) -/

/-- The unload of set `g` aborted with a cause value (03 R59). -/
def abortUnload (cause : Int) (g : Fin 8) (s : State) : State :=
  notify .unloadAborted (some g.val) (some cause) (toOnline g (settings s).rampN s)

/-- The sets of island `i` in RAMPING, ascending. -/
def rampingSets (s : State) (i : Fin 4) : List (Fin 8) :=
  (onlineSets s i).filter fun g => decide (s.plant.sets[g].state = .unloading) && decide (s.share.sets[g].unload = .ramping)

/-- The aborts an account recomputation of island `i` brings (03 R59): cause 2 where the island has no ONLINE set
left, otherwise cause 1 where it is OVER (log 17); every RAMPING set of the island, and the account again. -/
def abortUnloads (i : Fin 4) (s : State) : State :=
  match s.plant.accounts[i] with
  | some a =>
    let gs := rampingSets s i
    if gs.isEmpty then s
    else if (capacitySets s i).isEmpty then recompute [i] (gs.foldl (fun t g => abortUnload 2 g t) s)
    else if a.isOver then recompute [i] (gs.foldl (fun t g => abortUnload 1 g t) s)
    else s
  | none => s

/-- Section `x` was in an island not flagged DEAD (06 R107). -/
def wasAlive (before : State) (x : Fin 4) : Bool :=
  match islandOf before x with
  | some j =>
    match before.plant.accounts[j] with
    | some a => !a.dead
    | none => false
  | none => false

/-- The blackout shed of island `i` where it has become dead since `before` (06 R107, R108). -/
def blackoutIfDead (before : State) (i : Fin 4) (s : State) : State :=
  match s.plant.accounts[i] with
  | some a => if s.running ∧ a.dead ∧ a.sections.any (wasAlive before) then blackoutShed i s else s
  | none => s

/-- The account of island `i` after the Arbiter's own change (07 R128): recomputed and handed on, without a further
offer, because the island has an OFFERED entry now. -/
def reUpdate (i : Fin 4) (s : State) : State :=
  seeWanted i (shedUpdate false i (abortUnloads i (recompute [i] s)))

/-- The Arbiter takes an account update of island `i` (07 R128, R133). -/
def arbiterUpdate (i : Fin 4) (s : State) : State :=
  let s1 := seeWanted i s
  if s1.running then
    match offerTest i s1 with
    | some s2 => reUpdate i s2
    | none => s1
  else s1

/-- `f` taken for each listed island in turn. -/
def eachIsland (is : List (Fin 4)) (f : Fin 4 → State → State) (s : State) : State := is.foldl (fun t i => f i t) s

/-- The recomputed accounts of the listed islands handed on (01 R23): to the Sharing Engine's aborts, the Shed
Controller and the Reservation Arbiter. `before` is the state just before the event. DESIGN CHOICE (log 44): the aborts
of 03 R59 come first, and the account as they leave it is the one the Shed Controller and the Arbiter take. -/
def handOn (scan : Bool) (before : State) (is : List (Fin 4)) (s : State) : State :=
  eachIsland is arbiterUpdate
    (eachIsland is (shedUpdate scan) (eachIsland is (blackoutIfDead before) (eachIsland is abortUnloads s)))

/-- An account update (01 R23): the listed accounts recomputed and handed on. `scan` marks a scan-round update
(06 R100). `before` is the state just before the event that caused it. -/
def accountUpdate (scan : Bool) (before : State) (is : List (Fin 4)) (s : State) : State :=
  handOn scan before is (recompute is s)

/-- The event update of one island, found from a section, after a change made to state `before`. -/
def updateAt (before : State) (x : Fin 4) (s : State) : State :=
  match islandOf s x with
  | some i => accountUpdate false before [i] s
  | none => s

/-- The event update of a set's island. -/
def updateSetIsland (before : State) (g : Fin 8) (s : State) : State := updateAt before s.conf.sets[g].sect s

/-! ### Set loss (01 R13, R14) -/

/-- The Arbiter takes a set loss (07 R132): with spare below 0, the island's offers return to WAITING. DESIGN CHOICE (log
62): the account before they return is not handed on. The wanted field is compared (07 R133), and the restore gates of its
update are tested (06 R115), on the account after the return alone. -/
def lossWithdraw (i : Fin 4) (s : State) : State :=
  match s.plant.accounts[i] with
  | some a => if a.spare < 0 then recompute [i] (returnOffers (entriesOf s i .offered) s) else s
  | none => s

/-- A set lost (01 R13, R14): it takes its new state, its notice is sent, it is parked, the account is recomputed
without it, and the loss and the account are handed on (log 18). DESIGN CHOICE (log 62): the account is handed on once, after
any return of offers, so the wanted field and the restore gates (06 R115) see only that account, but for the gate test that
a group shed by the fast shed brings. -/
def setLoss (g : Fin 8) (st : SetState) (k : NoticeKind) (value : Option Int) (s : State) : State :=
  let s1 := park g (notify k (some g.val) value (setSetState g st s))
  match setIsland s g with
  | some i => handOn false s [i] (lossWithdraw i (fastShed i (islandLoad s i) (recompute [i] s1)))
  | none => s1

/-! ### Breaker and trip events (01 R7 to R9) -/

/-- A manual closing (01 R7): ONLINE with k = N. DESIGN CHOICE (log 50): MANUAL_CLOSE comes before the notices of the
account update. -/
def manualClose (g : Fin 8) (s : State) : State :=
  updateSetIsland s g (notify .manualClose (some g.val) (some 1) (toOnline g (settings s).rampN s))

/-- GCB-STATUS of a present set taken CLOSED (01 R7). DESIGN CHOICE (log 50): the account update's notices come before
SYNC_DONE or SYNC_ABORTED. -/
def breakerClosed (g : Fin 8) (s : State) : State :=
  match s.plant.sets[g].state with
  | .offline => manualClose g s
  | .incoming =>
    match requestFor s (.set g) with
    | some r =>
      if r.stage = .close then syncDone (updateSetIsland s g (toOnline g 1 s))
      else syncAbort .externalClose (manualClose g s)
    | none => manualClose g s
  | .tripped => notify .manualClose (some g.val) (some 0) s
  | .online => s
  | .unloading => s

/-- GCB-STATUS of a present set taken OPEN (01 R8, 03 R57). DESIGN CHOICE (log 50): UNLOAD_DONE comes before the notices
of the account update. -/
def breakerOpened (g : Fin 8) (s : State) : State :=
  match s.plant.sets[g].state with
  | .unloading =>
    if s.share.sets[g].openWait.isSome then
      updateSetIsland s g (park g (notify .unloadDone (some g.val) none (setSetState g .offline s)))
    else setLoss g .offline .uncommandedOpen none s
  | .online => setLoss g .offline .uncommandedOpen none s
  | .tripped => s
  | .offline => s
  | .incoming => s

/-- The event "trip active": a present set's latch has become set (01 R9). -/
def tripActive (g : Fin 8) (s : State) : State :=
  match s.plant.sets[g].state with
  | .online => setLoss g .tripped .setTripped (some 1) s
  | .unloading => setLoss g .tripped .setTripped (some 1) s
  | .incoming =>
    let s1 := park g (notify .setTripped (some g.val) (some 0) (setSetState g .tripped s))
    match requestFor s (.set g) with
    | some _ => syncAbort .setTripped s1
    | none => s1
  | .offline => notify .setTripped (some g.val) (some 0) (setSetState g .tripped s)
  | .tripped => s

/-! ### Partition change (01 R19) -/

/-- Section `x` changes island from partition `p` to `q`. -/
def movesIsland (p q : Vector (Fin 4) 4) (x : Fin 4) : Bool := decide (sectionsOf p p[x] ≠ sectionsOf q q[x])

/-- The sections involved in a request (01 R19). -/
def SyncReq.sections (r : SyncReq) : List (Fin 4) :=
  match r.inSect with
  | some x => [r.refSect, x]
  | none => [r.refSect]

/-- The Synchroniser takes a partition change caused by `cause` (01 R19, 04 R78, R81). -/
def syncTopology (cause : Option (Fin 4)) (moved : Fin 4 → Bool) (s : State) : State :=
  match s.sync.req with
  | some r =>
    if r.sections.any moved then
      match cause with
      | some t =>
        if r.obj = .tie t ∧ r.stage = .close ∧ s.plant.tie[t].filtered = some true then syncDone s
        else syncAbort .topologyChanged s
      | none => syncAbort .topologyChanged s
    else s
  | none => s

/-- SHORTFALL carried over a partition change (01 R19): cleared for each island whose section list changed. -/
def carryShortfall (p q : Vector (Fin 4) 4) (s : State) : State :=
  { s with
    plant.accounts := tab
      (fun i a => a.map fun a => if sectionsOf p i = sectionsOf q i then a else { a with shortfall := false })
      s.plant.accounts }

/-- The last wanted of each island number that names no account any more set to 0 (07 R133). -/
def clearWanted (s : State) : State :=
  { s with resv.lastWanted := tab (fun i w => match s.plant.accounts[i] with | some _ => w | none => 0) s.resv.lastWanted }

/-- A partition change from `p` to `q` (01 R19, in its order): generation, accounts, PARTITION_CHANGED, then the
blocks that keep per-island work, and the accounts as those leave them. -/
def partitionChange (cause : Option (Fin 4)) (p q : Vector (Fin 4) 4) (s : State) : State :=
  let s1 : State := { s with plant.partition := some q, plant.generation := (s.plant.generation + 1) % 65536 }
  let s2 := notify .partitionChanged (cause.map Fin.val) none (clearWanted (carryShortfall p q (recompute four s1)))
  let s3 : State := { s2 with shed.dwell := Vector.replicate 4 Dwell.idle, shed.restore := Vector.replicate 4 none }
  let s4 := returnOffers (s3.resv.queue.filter fun e => decide (e.state = .offered)) s3
  accountUpdate false s four (syncTopology cause (movesIsland p q) s4)

/-- The Synchroniser takes a change of tie `t`'s status that leaves the partition as it was (01 R16, 04 R78, R81). -/
def syncTie (t : Fin 4) (s : State) : State :=
  match requestFor s (.tie t) with
  | some r =>
    if s.plant.tie[t].filtered = some true then
      if r.stage = .close then syncDone s else syncAbort .externalClose s
    else s
  | none => s

/-- A filtered change of TIE-STATUS `t` (01 R16, R17). -/
def tieChanged (t : Fin 4) (s : State) : State :=
  if tieUsable s t then
    match s.plant.partition with
    | some p => if computePartition s = p then syncTie t s else partitionChange (some t) p (computePartition s) s
    | none => s
  else s

/-- The first partition after a reset (01 R2, R18): computed in STARTING, from a valid configuration, once the ties
are settled; its generation is 0. -/
def firstPartition (s : State) : State :=
  if s.start.op = .starting ∧ s.plant.partition = none ∧ tiesSettled s then
    recompute four { s with plant.partition := some (computePartition s) }
  else s

end Sys2Proof.Machine
end

