-- ==== Sys2Proof/Machine/Inputs.lean ====
section
/-! DEFINITION. The filtered plant inputs (01 R1 to R3, R12, R16; 05 R89, R90): raw level changes and filter expiries. -/

namespace Sys2Proof.Machine

/-- The operating states in which breaker and trip events move sets (01 R2, R13): RUNNING and HELD. -/
def State.operating (s : State) : Bool := decide (s.start.op = .running) || decide (s.start.op = .held)

/-- A raw level taken by a filter (01 R1, R2). Before the filters start, and until the input is settled, only the raw
level changes. -/
def Filter.takeRaw (started : Bool) (time : Nat) (level : Bool) (f : Filter) : Filter :=
  match f.filtered with
  | none => { f with raw := level }
  | some v =>
    if started then
      { f with raw := level, timer := if level = v then none else some (f.timer.getD time) }
    else { f with raw := level }

/-- RAW_INPUT_CHANGE (01 R1). -/
def execRawInputChange (i : PlantInput) (level : Bool) (s : State) : Host.Outcome State Fault Refusal :=
  .next (setFilter i ((getFilter s i).takeRaw s.started (filterTime s.conf.general i) level) s)

/-- The settling of an input (01 R2, R3): no change event; an ACTIVE trip input sets its latch, and the partition is
computed once the ties are settled. -/
def inputSettled (i : PlantInput) (level : Bool) (s : State) : State :=
  match i with
  | .setTrip g => if setPresent s g ∧ level then updSet g (fun r => { r with latch := true }) s else s
  | .tieStatus _ => firstPartition s
  | .gcbStatus _ => s
  | .setReady _ => s
  | .confirm _ => s

/-- A change of GCB-STATUS (01 R7, R8). -/
def breakerChanged (g : Fin 8) (level : Bool) (s : State) : State :=
  if setPresent s g ∧ s.operating then (if level then breakerClosed g s else breakerOpened g s) else s

/-- A change of SET-READY (01 R12, 04 R81): INACTIVE aborts a request of the set before its CLOSE. -/
def readyChanged (g : Fin 8) (level : Bool) (s : State) : State :=
  match requestFor s (.set g) with
  | some r => if ¬ level ∧ r.stage ≠ .close then syncAbort .setNotReady s else s
  | none => s

/-- A change of SET-TRIP (01 R3, R9). The latch is kept in STARTING too; the event and the notice belong to RUNNING and
HELD (01 R2). -/
def tripChanged (g : Fin 8) (level : Bool) (s : State) : State :=
  if setPresent s g then
    let r := s.plant.sets[g]
    if level then
      if r.latch then s
      else
        let s1 := updSet g (fun r => { r with latch := true }) s
        if s.operating then tripActive g s1 else s1
    else if s.conf.sets[g].sense = .level ∧ r.latch then
      let s1 := updSet g (fun r => { r with latch := false }) s
      if s.operating then notify .tripInputCleared (some g.val) none s1 else s1
    else s
  else s

/-- The present groups that name confirm input `c` and are in state `st`, ascending. -/
def groupsNaming (s : State) (c : Fin 16) (st : GroupState) : List (Fin 32) :=
  thirtyTwo.filter fun g =>
    groupPresent s g && decide (s.conf.groups[g].confirm = some c) && decide (s.shed.groups[g].state = st)

/-- A change of CONFIRM (05 R89, R90, R97): in RUNNING, OPEN ends the confirm supervision of each group that names the
input, and NOT_OPEN is reported for each that is SHED, in ascending group number (DESIGN CHOICE, log 21). -/
def confirmChanged (c : Fin 16) (level : Bool) (s : State) : State :=
  if s.running then
    if level then
      let gs := groupsNaming s c .shedPending
      let s1 := gs.foldl (fun t g => updGroup g (fun r => { r with state := .shed, confirm := none }) t) s
      gs.foldl (fun t g => testGatesOf g t) s1
    else (groupsNaming s c .shed).foldl (fun t g => notify .confirmLost (some g.val) none t) s
  else s

/-- A change of a filtered state, handed to the block that owns it (01 R1). -/
def inputChanged (i : PlantInput) (level : Bool) (s : State) : State :=
  match i with
  | .gcbStatus g => breakerChanged g level s
  | .setReady g => readyChanged g level s
  | .tieStatus t => tieChanged t s
  | .setTrip g => tripChanged g level s
  | .confirm c => confirmChanged c level s

/-- The end of a filter time (01 R1, R2): the filtered state takes the raw level, settling the input the first time. -/
def filterExpires (i : PlantInput) (s : State) : State :=
  let f := getFilter s i
  let s1 := setFilter i { f with filtered := some f.raw, timer := none } s
  match f.filtered with
  | none => inputSettled i f.raw s1
  | some old => if old = f.raw then s1 else inputChanged i f.raw s1

/-- FILTER_TIMER_EXPIRY (01 R1). -/
def execFilterTimerExpiry (i : PlantInput) (s : State) : Host.Outcome State Fault Refusal :=
  .next (onExpiry (getFilter s i).timer s (filterExpires i))

end Sys2Proof.Machine
end

