-- ==== Sys2Proof/Machine/LinkOps.lean ====
section
/-! DEFINITION. The Link Interface's shared operations: valid frames and liveness, responses, and the taking of a
request (09 R153 to R157). -/

namespace Sys2Proof.Machine

/-- The refusal reasons (09 R155). -/
inductive Reason where
  | unknownKind
  | badField
  | wrongState
  | stale
  | notReady
  | tripped
  | stillActive
  | capacity
  | lastSet
  | onStack
  | depth
  | inhibited
  | conflict
  | notFound
  | notPresent
  | alreadyClosed
  deriving DecidableEq, Repr

/-- The reason codes, in the order of the refusal table, from 1 (11 section 11.2). -/
def Reason.code : Reason → Nat
  | .unknownKind => 1
  | .badField => 2
  | .wrongState => 3
  | .stale => 4
  | .notReady => 5
  | .tripped => 6
  | .stillActive => 7
  | .capacity => 8
  | .lastSet => 9
  | .onStack => 10
  | .depth => 11
  | .inhibited => 12
  | .conflict => 13
  | .notFound => 14
  | .notPresent => 15
  | .alreadyClosed => 16

/-- The outcome of a request at its owning block (09 R155). `resetDone` is the DONE of a joint RESET. -/
inductive Reply where
  | done (clamped : Bool) (data : List Byte)
  | resetDone
  | pending
  | busy
  | refused (r : Reason)
  deriving DecidableEq, Repr

/-- DONE with no data and no mark. -/
def Reply.ok : Reply := .done false []

/-- The response a reply makes (11 section 11.2). -/
def Reply.response (kind : Nat) (seq : Byte) : Reply → Response
  | .done clamped data =>
    { kind := kind, seq := seq, status := .done, mark := if clamped then 1 else 0, data := data, resets := false }
  | .resetDone => { kind := kind, seq := seq, status := .done, mark := 0, data := [], resets := true }
  | .pending => { kind := kind, seq := seq, status := .pending, mark := 0, data := [], resets := false }
  | .busy => { kind := kind, seq := seq, status := .busy, mark := 0, data := [], resets := false }
  | .refused r => { kind := kind, seq := seq, status := .refused, mark := r.code, data := [], resets := false }

/-- A response begins to be sent, or waits behind the one being sent (09 R154). -/
def LinkRt.enqueue (r : Response) (l : LinkRt) : LinkRt :=
  match l.sending with
  | none => { l with sending := some r }
  | some _ => { l with waiting := l.waiting ++ [r] }

/-- A response put on link `l`. -/
def respond (l : Link) (r : Response) (s : State) : State := updLink l (LinkRt.enqueue r) s

/-- A valid frame on link `l` (09 R156, R157): its gathering ends, the link timer starts; a SILENT link becomes
ACTIVE, and where both were SILENT the mode becomes SUPERVISED. -/
def validFrame (l : Link) (s : State) : State :=
  let s1 := updLink l (fun x => { x with frame := none, active := true, timer := some s.conf.general.linkTimeout }) s
  if (s.link.get l).active then s1
  else
    let s2 := notify .linkActive (some l.code) none s1
    if (s.link.get l.other).active then s2 else notify .supervisionMode none (some 1) s2

/-- The taking of a valid request (09 R154): nothing before the Link Interface has started; liveness first; not taken
where four responses wait on its link; otherwise its owner's outcome is answered. -/
def takeRequest (l : Link) (kind : Nat) (seq : Byte) (owner : State → State × Reply) (s : State) : State :=
  if s.started then
    let s1 := validFrame l s
    if (s1.link.get l).waiting.length < Config.responseCap then
      let r := owner s1
      respond l (r.2.response kind seq) r.1
    else s1
  else s

/-- A request refused with no change. -/
def refuse (r : Reason) (s : State) : State × Reply := (s, .refused r)

/-- A request of fixed field widths handed to its owner; BAD_FIELD where the count does not fit (09 R153). -/
def withFields (ws : List Width) (fields : List Byte) (owner : List Int → State → State × Reply) (s : State) :
    State × Reply :=
  match readFields ws fields with
  | some vs => owner vs s
  | none => refuse .badField s

/-- The value of field `n` of a request. -/
def arg (vs : List Int) (n : Nat) : Int := vs.getD n 0

end Sys2Proof.Machine
end

