-- ==== Sys2Proof/Machine/Consumer.lean ====
section
/-! DEFINITION. The Consumer Line Controller and the Reservation Arbiter (07): polling, replies, station messages, the
endings of entries and CANCEL RESERVATION. -/

namespace Sys2Proof.Machine

/-! ### Endings (07 R131) -/

/-- An entry leaves the queue with an answer, and its island's account is updated (07 R131). -/
def removeEntry (e : Entry) (a : Answer) (s : State) : State :=
  updateAt s e.sect (answer e.station e.consumer a (dropEntry e.station e.consumer s))

/-- The time left of an entry's timer where the entry is in state `st`: wait timer, accept deadline or hold deadline. -/
def entryTimer (st : EntryState) (x : Fin 12) (c : Fin 4) (s : State) : Timer :=
  match findEntry s x c with
  | some e => if e.state = st then some e.remaining else none
  | none => none

/-- An ending of the entry of a station and consumer index, where there is one. -/
def endEntry (x : Fin 12) (c : Fin 4) (a : Answer) (s : State) : State :=
  match findEntry s x c with
  | some e => removeEntry e a s
  | none => s

/-- WAIT_TIMER_EXPIRY (07 R131): TIMED_OUT. -/
def execWaitTimerExpiry (x : Fin 12) (c : Fin 4) (s : State) : Host.Outcome State Fault Refusal :=
  .next (onExpiry (entryTimer .waiting x c s) s (endEntry x c .timedOut))

/-- ACCEPT_DEADLINE_EXPIRY (07 R131): EXPIRED. -/
def execAcceptDeadlineExpiry (x : Fin 12) (c : Fin 4) (s : State) : Host.Outcome State Fault Refusal :=
  .next (onExpiry (entryTimer .offered x c s) s (endEntry x c .expired))

/-- A station's number: 1 to 12. -/
def stationNumber (x : Fin 12) : Nat := x.val + 1

/-- The subject of HOLD_ENDED (07 R131). -/
def holdSubject (x : Fin 12) (c : Fin 4) : Nat := 4 * stationNumber x + c.val

/-- The hold deadline of an entry ends (07 R131): HOLD_ENDED, as answer and as notice, which comes before the notices of
the account update (log 50). -/
def holdEnds (x : Fin 12) (c : Fin 4) (s : State) : State :=
  match findEntry s x c with
  | some e =>
    updateAt s e.sect
      (notify .holdEnded (some (holdSubject x c)) (some (e.kw : Int)) (answer x c .holdEnded (dropEntry x c s)))
  | none => s

/-- HOLD_DEADLINE_EXPIRY (07 R131). -/
def execHoldDeadlineExpiry (x : Fin 12) (c : Fin 4) (s : State) : Host.Outcome State Fault Refusal :=
  .next (onExpiry (entryTimer .active x c s) s (holdEnds x c))

/-- A station number of a request, 1 to 12. -/
def stationOf (v : Int) : Option (Fin 12) := index 12 (v - 1)

/-- CANCEL RESERVATION at the Arbiter (07 R131). -/
def cancelReservation (vs : List Int) (s : State) : State × Reply :=
  match stationOf (arg vs 0), index 4 (arg vs 1) with
  | some x, some c =>
    if ¬ s.operating then refuse .wrongState s
    else
      match findEntry s x c with
      | some e => (removeEntry e .removed s, .ok)
      | none => refuse .notFound s
  | _, _ => refuse .badField s

/-! ### Polling (07 R120, R121) -/

/-- The stations of the present list, ascending. -/
def listedStations (s : State) : List (Fin 12) := twelve.filter fun x => s.conf.stations[x]

/-- The next present station after `x`, wrapping from the highest to the lowest. -/
def stationAfter (s : State) (x : Fin 12) : Option (Fin 12) :=
  match (listedStations s).find? fun y => decide (x.val < y.val) with
  | some y => some y
  | none => (listedStations s).head?

/-- No poll slot runs, and Link C is silent (07 R120). -/
def stopPolling (s : State) : State :=
  { s with line.slot := none, line.next := none, line.current := none, line.poll := none, line.window := none }

/-- The poll slot timer started at the lowest present station as the part enters RUNNING (07 R120, R134); with no
station on the list no slot runs. DESIGN CHOICE (log 15): a poll frame being sent, or an open reply window, is abandoned
then without a miss, its station listed or not. -/
def startPolling (s : State) : State :=
  match (listedStations s).head? with
  | some x => { stopPolling s with line.slot := some Config.slotTime, line.next := some x }
  | none => stopPolling s

/-- The poll slots once the present list has been read anew at RESUME (07 R120, R134). They are not started: where they
run, they go on over the new list until the part enters RUNNING (log 15). The next slot is no unlisted station's, the slot
in progress of an unlisted station is dropped, and with no station on the list no slot runs. -/
def reaimPolling (s : State) : State :=
  let unlisted (o : Option (Fin 12)) : Bool := o.any fun x => !s.conf.stations[x]
  if listedStations s = [] then stopPolling s
  else
    let s1 : State := if unlisted s.line.next then { s with line.next := s.line.next.bind (stationAfter s) } else s
    if unlisted s.line.current then { s1 with line.current := none, line.poll := none, line.window := none } else s1

/-- The kW and the time left of the entry an answer speaks of. -/
def entryFigures (s : State) (x : Fin 12) (c : Fin 4) : Nat × Nat :=
  match findEntry s x c with
  | some e => (e.kw, e.remaining)
  | none => (0, 0)

/-- The answers pending for a station, coded in ascending consumer index (07 R124). -/
def pendingAnswers (s : State) (x : Fin 12) : List (List Byte) :=
  four.filterMap fun c =>
    (s.line.stations[x]).answers[c].map fun p =>
      answerBytes c p.answer (entryFigures s x c).1 (entryFigures s x c).2

/-- Every pending answer of a station marked as delivered (07 R124). -/
def markDelivered (x : Fin 12) (s : State) : State :=
  { s with
    line.stations := upd s.line.stations x fun r =>
      { r with answers := tab (fun _ a => a.map fun p => { p with delivered := true }) r.answers } }

/-- A poll slot begins (07 R120): the slot timer restarts, the poll frame of the slot's station is sent with its pending
answers, and the next slot goes to the next station. -/
def pollSlot (s : State) : State :=
  match s.line.next with
  | some x =>
    markDelivered x
      { s with
        line.slot := some Config.slotTime, line.next := stationAfter s x, line.current := some x,
        line.poll := some (pollChars (stationNumber x) (pendingAnswers s x)), line.window := none }
  | none => s

/-- POLL_SLOT_EXPIRY (07 R120). -/
def execPollSlotExpiry (s : State) : Host.Outcome State Fault Refusal := .next (onExpiry s.line.slot s pollSlot)

/-- POLL_FRAME_SENT (07 R121): the reply window starts. With no poll frame being sent there is no such event. -/
def execPollFrameSent (s : State) : Host.Outcome State Fault Refusal :=
  .next
    (match s.line.poll with
    | some _ => { s with line.poll := none, line.window := some Config.replyWindow }
    | none => s)

/-! ### Station states (07 R122, R123) -/

/-- A station record changed. -/
def updStation (x : Fin 12) (f : StationRt → StationRt) (s : State) : State :=
  { s with line.stations := upd s.line.stations x f }

/-- The entries the loss of a station removes: WAITING and OFFERED (07 R123). -/
def droppedEntries (s : State) (x : Fin 12) : List Entry :=
  s.resv.queue.filter fun e => decide (e.station = x) && decide (e.state ≠ .active)

/-- The Arbiter takes the loss of a station (07 R123): its WAITING and OFFERED entries are removed with DROPPED, all at
one event, and the accounts of their islands updated. -/
def dropStation (x : Fin 12) (s : State) : State :=
  let es := droppedEntries s x
  let s1 := es.foldl (fun t e => answer e.station e.consumer .dropped (dropEntry e.station e.consumer t)) s
  accountUpdate false s (four.filter fun i => es.any fun e => decide (e.island s = some i)) s1

/-- A missed or errored reply (07 R122). STATION_LOST comes before the notices of the account update (log 50). -/
def missedReply (x : Fin 12) (s : State) : State :=
  let r := s.line.stations[x]
  if r.state = .lost then s
  else if r.miss < 2 then updStation x (fun r => { r with miss := r.miss + 1 }) s
  else
    dropStation x
      (notify .stationLost (some (stationNumber x)) none (updStation x (fun r => { r with state := .lost, miss := 3 }) s))

/-- A good reply at the station record (07 R122, R124): PRESENT, miss count 0, delivered answers cleared. -/
def goodReply (x : Fin 12) (s : State) : State :=
  let s1 :=
    updStation x
      (fun r =>
        { state := .present, miss := 0,
          answers := tab (fun _ a => a.filter fun p => !p.delivered) r.answers })
      s
  if s.line.stations[x].state = .lost then notify .stationPresent (some (stationNumber x)) none s1 else s1

/-! ### Messages (07 R125, R127, R130, R131) -/

/-- The values of a START REQUEST made ready (07 R127). The hold time is taken as at most 1,023 first (11 R173). -/
def readyEntry (w : Settings) (x : Fin 12) (c : Fin 4) (sect : Fin 4) (kw level hold : Nat) : Entry where
  station := x
  consumer := c
  sect := sect
  kw := min 60000 (max 1 kw)
  level := min 7 (max 1 level)
  hold := min 600 (max 5 (min 1023 hold))
  state := .waiting
  arrival := 0
  remaining := w.waitLimit * 1000

/-- START REQUEST at the Arbiter (07 R127), its checks in their order. -/
def startRequest (x : Fin 12) (c : Fin 4) (sect kw level hold : Nat) (s : State) : State :=
  if ¬ s.running then answer x c (.refused .wrongState) s
  else if Config.queueCap ≤ s.resv.queue.length then answer x c (.refused .full) s
  else if (findEntry s x c).isSome then answer x c (.refused .duplicate) s
  else
    match four[sect]? with
    | some y =>
      if sectPresent s y then
        updateAt s y (answer x c .queued (enqueueEntry (readyEntry (settings s) x c y kw level hold) s))
      else answer x c (.refused .badField) s
    | none => answer x c (.refused .badField) s

/-- ACCEPT at the Arbiter (07 R130). -/
def acceptMessage (x : Fin 12) (c : Fin 4) (s : State) : State :=
  match findEntry s x c with
  | none => answer x c .notFound s
  | some e =>
    match e.state with
    | .offered =>
      updateAt s e.sect
        (answer x c .active (updEntry x c (fun e => { e with state := .active, remaining := e.hold * 1000 }) s))
    | .active => answer x c .active s
    | .waiting => answer x c .notOffered s

/-- DONE or WITHDRAW at the Arbiter (07 R131). -/
def endMessage (x : Fin 12) (c : Fin 4) (s : State) : State :=
  match findEntry s x c with
  | none => answer x c .notFound s
  | some e => removeEntry e .removed s

/-- A station message (07 R125). -/
inductive Message where
  | idle
  | start (c : Fin 4) (sect kw level hold : Nat)
  | accept (c : Fin 4)
  | done (c : Fin 4)
  | withdraw (c : Fin 4)
  deriving DecidableEq, Repr

/-- A message handed on by the Consumer Line Controller (07 R125). -/
def takeMessage (x : Fin 12) (m : Message) (s : State) : State :=
  match m with
  | .idle => s
  | .start c y kw level hold => startRequest x c y kw level hold s
  | .accept c => acceptMessage x c s
  | .done c => endMessage x c s
  | .withdraw c => endMessage x c s

/-- The consumer index of a message byte: bits 1 to 0 (11 section 11.3). -/
def messageIndex (b : Byte) : Fin 4 := ⟨b.toNat % 4, Nat.mod_lt _ (by decide)⟩

/-- The message of a body's characters before the CRC, or `none` where the code or the length does not fit
(11 R173). -/
def messageOf : List Byte → Option Message
  | [] => none
  | b :: fields =>
    match b.toNat / 16, fields with
    | 0, [] => some .idle
    | 1, [y, k1, k0, lv, h1, h0] =>
      some (.start (messageIndex b) y.toNat (k1 ++ k0).toNat lv.toNat (h1 ++ h0).toNat)
    | 2, [] => some (.accept (messageIndex b))
    | 3, [] => some (.done (messageIndex b))
    | 4, [] => some (.withdraw (messageIndex b))
    | _, _ => none

/-- The classification of a reply opened by address character 0 (07 R121, 11 R173): its message where it is good. -/
def classify (body : List Byte) : Option Message :=
  let head := body.take (body.length - 2)
  if body.drop (body.length - 2) = crcChars (0x00#8 :: head) then messageOf head else none

/-- The reply of the slot's station, where its reply window is open. -/
def inWindow (s : State) (act : Fin 12 → State → State) : State :=
  match s.line.window, s.line.current with
  | some _, some x => act x { s with line.window := none }
  | _, _ => s

/-- REPLY_FRAME (07 R121): a reply frame complete in the window. -/
def execReplyFrame (body : List Byte) (s : State) : Host.Outcome State Fault Refusal :=
  .next
    (inWindow s fun x t =>
      match classify body with
      | some m => takeMessage x m (goodReply x t)
      | none => missedReply x t)

/-- REPLY_BAD_ADDRESS (07 R121): the reply is errored at once. -/
def execReplyBadAddress (s : State) : Host.Outcome State Fault Refusal := .next (inWindow s missedReply)

/-- REPLY_WINDOW_EXPIRY (07 R121): the reply is missed, or errored as incomplete. -/
def execReplyWindowExpiry (s : State) : Host.Outcome State Fault Refusal :=
  .next (onExpiry s.line.window s fun t => inWindow t missedReply)

end Sys2Proof.Machine
end

