-- ==== Sys2Proof/Machine/Sets.lean ====
section
/-! DEFINITION. The Plant Image's set commands (01 R5, R11). -/

namespace Sys2Proof.Machine

/-- A profile entry is in flight (08 R141). -/
def State.entering (s : State) : Bool := s.prof.entry.isSome

/-- A set's banked fields in the ACTIVE bank changed. -/
def updSetBank (g : Fin 8) (f : SetBank → SetBank) (s : State) : State :=
  { s with prof.active.sets := upd s.prof.active.sets g f }

/-- SET MODE at the Plant Image (01 R5): the mode written, the account of the set's island recomputed (01 R23). The
response carries the mode now held. DESIGN CHOICE (log 52): a SET MODE that names the mode already held updates the account
as any other. -/
def setModeOf (vs : List Int) (s : State) : State × Reply :=
  match index 8 (arg vs 0), modeOf (arg vs 1) with
  | some g, some m =>
    if ¬ setPresent s g then refuse .notPresent s
    else if ¬ s.running then refuse .wrongState s
    else if s.entering then (s, .busy)
    else
      (updateSetIsland s g (updSetBank g (fun b => { b with mode := m }) s), .done false (writeField .w1 m.code))
  | _, _ => refuse .badField s

/-- SET BASE POINT at the Plant Image (01 R5): the value clamped to 0 to the set's rating and written. -/
def setBaseOf (vs : List Int) (s : State) : State × Reply :=
  match index 8 (arg vs 0) with
  | some g =>
    if ¬ setPresent s g then refuse .notPresent s
    else if ¬ s.running then refuse .wrongState s
    else if s.entering then (s, .busy)
    else
      let v := clamp 0 s.conf.sets[g].rating (arg vs 1)
      (updSetBank g (fun b => { b with base := v.toNat }) s, .done (decide (v ≠ arg vs 1)) (writeField .w4 v))
  | none => refuse .badField s

/-- A LEVEL-sense set whose filtered SET-TRIP is ACTIVE (01 R11). -/
def stillActive (s : State) (g : Fin 8) : Bool :=
  decide (s.conf.sets[g].sense = .level) && decide (s.plant.trip[g].filtered = some true)

/-- CLEAR TRIP at the Plant Image (01 R11), its checks in their order. DESIGN CHOICE (log 46): TRIP_CLEARED names the
set as its subject and carries no value. -/
def clearTripOf (vs : List Int) (s : State) : State × Reply :=
  match index 8 (arg vs 0) with
  | none => refuse .badField s
  | some g =>
    if ¬ setPresent s g then refuse .notPresent s
    else if ¬ s.running then refuse .wrongState s
    else if s.plant.sets[g].state ≠ .tripped then refuse .notReady s
    else if s.plant.gcb[g].filtered ≠ some false then refuse .notReady s
    else if stillActive s g then refuse .stillActive s
    else
      (notify .tripCleared (some g.val) none (updSet g (fun _ => { state := .offline, latch := false }) s), .ok)

end Sys2Proof.Machine
end

