-- ==== Sys2Proof/Machine/Groups.lean ====
section
/-! DEFINITION. The Shed Controller's group commands (05) and its timer expiries (05 R89, 06 R113, R116). -/

namespace Sys2Proof.Machine

/-! ### Group commands (05 R91 to R94) -/

/-- The common checks of the group commands (05 section 5.4), then the command's own part. -/
def groupCommand (v : Int) (own : Fin 32 → State → State × Reply) (s : State) : State × Reply :=
  match index 32 v with
  | none => refuse .badField s
  | some g => if ¬ s.running then refuse .wrongState s else if ¬ groupPresent s g then refuse .notPresent s else own g s

/-- SHED on a present group (05 R91). -/
def shedCommand (l : Link) (g : Fin 32) (s : State) : State × Reply :=
  match s.shed.groups[g].state with
  | .connected => (notify .manualShed (some g.val) (some (l.code : Int)) (shedAction .manual [g] s), .ok)
  | .inhibited => refuse .inhibited s
  | .shedPending => (s, .ok)
  | .shed => (s, .ok)
  | .shedFailed => (s, .ok)

/-- RESTORE on a present group (05 R92). -/
def restoreCommand (g : Fin 32) (s : State) : State × Reply :=
  match s.shed.groups[g].state with
  | .shed => (notify .restored (some g.val) (some 0) (connectGroup g s), .ok)
  | .shedFailed => (notify .restored (some g.val) (some 0) (connectGroup g s), .ok)
  | .shedPending => refuse .wrongState s
  | .connected => (s, .ok)
  | .inhibited => (s, .ok)

/-- A group moved between CONNECTED and INHIBITED (05 R93), and the gate test of its island (06 R115). -/
def inhibitMove (g : Fin 32) (dest : GroupState) (value : Int) (s : State) : State :=
  testGatesOf g (notify .groupInhibit (some g.val) (some value) (updGroup g (fun r => { r with state := dest }) s))

/-- INHIBIT on a present group (05 R93). -/
def inhibitCommand (g : Fin 32) (s : State) : State × Reply :=
  if s.shed.groups[g].state = .connected then (inhibitMove g .inhibited 1 s, .ok) else refuse .wrongState s

/-- RELEASE INHIBIT on a present group (05 R93). -/
def releaseCommand (g : Fin 32) (s : State) : State × Reply :=
  if s.shed.groups[g].state = .inhibited then (inhibitMove g .connected 0 s, .ok) else refuse .wrongState s

/-- SET GROUP on a present group (05 R94): level and expected load clamped and written, and the gate test of its island
where the level changed (06 R115). -/
def setGroupCommand (level load : Int) (g : Fin 32) (s : State) : State × Reply :=
  if s.entering then (s, .busy)
  else
    let lv := clamp 0 7 level
    let kw := clamp 0 20000 load
    let s1 : State := { s with prof.active.groups := put s.prof.active.groups g { level := lv.toNat, load := kw.toNat } }
    (if lv.toNat = groupLevel s g then s1 else testGatesOf g s1,
      .done (decide (lv ≠ level) || decide (kw ≠ load)) (writeItems [(.w1, lv), (.w4, kw)]))

/-! ### Timer expiries -/

/-- A cause's notice value; a group outside CONNECTED and INHIBITED has one. -/
def causeValue (c : Option ShedCause) : Option Int := c.map fun c => (c.code : Int)

/-- The make-up shed for a failed group (06 R105): for the island its section is in now, with its expected load. -/
def makeUp (g : Fin 32) (s : State) : State :=
  match groupIsland s g with
  | some i => shedSelection .makeUpShed i (groupLoad s g) s
  | none => s

/-- The confirm time ends (05 R89): SHED_FAILED, and a make-up shed where the cause is AUTO_FAST (06 R105). -/
def confirmFails (g : Fin 32) (s : State) : State :=
  let c := s.shed.groups[g].cause
  let s1 := testGatesOf g (updGroup g (fun r => { r with state := .shedFailed, confirm := none }) s)
  let s2 := notify .shedFailed (some g.val) (causeValue c) s1
  if s2.running ∧ c = some .autoFast then makeUp g s2 else s2

/-- CONFIRM_TIMER_EXPIRY (05 R89). -/
def execConfirmTimerExpiry (g : Fin 32) (s : State) : Host.Outcome State Fault Refusal :=
  .next (onExpiry s.shed.groups[g].confirm s (confirmFails g))

/-- The value of SLOW_SHED (06 R113). -/
def slowValue (isOver under : Bool) : Int := (if isOver then 1 else 0) + (if under then 2 else 0)

/-- The dwell ends (06 R113): with the condition holding, the head of the shed order is shed and the timer restarts. -/
def dwellEnds (i : Fin 4) (s : State) : State :=
  match s.plant.accounts[i] with
  | some a =>
    if a.slowShed s then
      let isOver := a.overload
      let under := a.under s
      let again := if under then startUnder (settings s) else startOver (settings s) (activePresent s i)
      match shedOrder s i with
      | g :: _ =>
        setDwell i again (notify .slowShed (some g.val) (some (slowValue isOver under)) (shedAction .autoSlow [g] s))
      | [] => setDwell i again (notify .slowShed none (some (slowValue isOver under)) s)
    else setDwell i Dwell.idle s
  | none => setDwell i Dwell.idle s

/-- A dwell timer counts while RUNNING (06 R100). -/
def Dwell.timer (d : Dwell) : Timer := if d.state = .running then some d.remaining else none

/-- DWELL_EXPIRY (06 R113). -/
def execDwellExpiry (i : Fin 4) (s : State) : Host.Outcome State Fault Refusal :=
  .next (onExpiry s.shed.dwell[i].timer s (dwellEnds i))

/-- The restore delay ends (06 R116): with every gate holding, the candidate is restored, and the delay starts again
where they still hold. -/
def restoreEnds (i : Fin 4) (s : State) : State :=
  let s1 := cancelRestore i s
  match restoreCandidate s1 i with
  | some g =>
    if gatesHold s1 i then startRestore i (notify .restored (some g.val) (some 1) (connectGroup g s1)) else s1
  | none => s1

/-- RESTORE_DELAY_EXPIRY (06 R116). -/
def execRestoreDelayExpiry (i : Fin 4) (s : State) : Host.Outcome State Fault Refusal :=
  .next (onExpiry s.shed.restore[i] s (restoreEnds i))

end Sys2Proof.Machine
end

