-- ==== Sys2Proof/Machine/Profiles.lean ====
section
/-! DEFINITION. The Profile Unit (08): entries, their build and its end, and the commands on profiles and settings. -/

namespace Sys2Proof.Machine

/-! ### The build of an entry (08 R142, R143) -/

/-- The block a target will use (08 R143): its Initial block where FRESH is set, else its Working block. -/
def targetBlock (s : State) (p : Fin 8) : Settings :=
  if s.prof.fresh[p] then s.conf.profiles[p].initial else s.prof.working[p]

/-- The bank a build makes, and the number of the first invalid patch (08 R142). -/
def buildBank (s : State) (p : Fin 8) : Bank × Option Nat :=
  if s.conf.profiles[p].patch then applyPatches s.conf.ratings 1 s.conf.profiles[p].patches s.prof.active
  else (s.prof.active, none)

/-- The failure a build finds (08 R145): an invalid patch's number, or 0 for an inconsistent block. -/
def buildFail (s : State) (p : Fin 8) : Option Nat :=
  match (buildBank s p).2 with
  | some n => some n
  | none => if (targetBlock s p).consistent then none else some 0

/-- An entry begins (08 R141): its build goes into STANDBY, whose contents are kept until the outcome (log 32). -/
def startEntry (cmd : EntryCmd) (p : Fin 8) (s : State) : State :=
  { s with
    prof.standby := (buildBank s p).1,
    prof.entry := some
      { command := cmd, target := p, block := targetBlock s p, fail := buildFail s p, saved := s.prof.standby } }

/-- The stack after the completion of an entry (08 R140). -/
def stackAfter (cmd : EntryCmd) (p : Fin 8) (stack : List (Fin 8)) : List (Fin 8) :=
  match cmd with
  | .enter => stack.dropLast ++ [p]
  | .push => stack ++ [p]
  | .pop => stack.dropLast
  | .initial => [p]

/-- Restore delays cancelled where auto restore is off (06 R117). -/
def autoOffCancels (s : State) : State := if (settings s).autoRestore then s else cancelRestores s

/-- The completion of an entry (08 R144). PROFILE_ENTERED comes before the notices of the account update (log 50). -/
def entryCompletes (e : EntryOp) (s : State) : State :=
  let p : Prof :=
    { fresh := put s.prof.fresh e.target false, working := put s.prof.working e.target e.block,
      active := s.prof.standby, standby := s.prof.active, stack := stackAfter e.command e.target s.prof.stack,
      entry := none }
  let s1 := notify .profileEntered (some e.target.val) (some (p.stack.length : Int)) { s with prof := p }
  accountUpdate false s four (autoOffCancels s1)

/-- The failure of an entry (08 R145). -/
def entryFails (e : EntryOp) (n : Nat) (s : State) : State :=
  notify .profileFailed (some e.target.val) (some (n : Int)) { s with prof.standby := e.saved, prof.entry := none }

/-- PROFILE_BUILD_END (08 R144, R145). With no entry in flight there is no such event. -/
def execProfileBuildEnd (s : State) : Host.Outcome State Fault Refusal :=
  .next
    (match s.prof.entry with
    | some e =>
      match e.fail with
      | some n => entryFails e n s
      | none => entryCompletes e s
    | none => s)

/-! ### ENTER, PUSH and POP (08 R141) -/

/-- Profile present, as ENTER, PUSH, POP and REFRESH test it. DEDUCED (log 65): in the record in force, not in that of the RAM
image, from which it differs after a LOAD RECORD between a RESUME and its adoption. -/
def profilePresent (s : State) (p : Fin 8) : Bool := s.conf.profiles[p].present

/-- ENTER at the Profile Unit, its checks in their order. -/
def enterProfile (vs : List Int) (s : State) : State × Reply :=
  match index 8 (arg vs 0) with
  | none => refuse .badField s
  | some p =>
    if ¬ s.running then refuse .wrongState s
    else if s.entering then (s, .busy)
    else if ¬ profilePresent s p then refuse .notPresent s
    else if p ∈ s.prof.stack ∧ s.prof.stack.getLast? ≠ some p then refuse .onStack s
    else (startEntry .enter p s, .ok)

/-- PUSH at the Profile Unit, its checks in their order. -/
def pushProfile (vs : List Int) (s : State) : State × Reply :=
  match index 8 (arg vs 0) with
  | none => refuse .badField s
  | some p =>
    if ¬ s.running then refuse .wrongState s
    else if s.entering then (s, .busy)
    else if ¬ profilePresent s p then refuse .notPresent s
    else if ¬ s.prof.stack.length < 4 then refuse .depth s
    else if p ∈ s.prof.stack then refuse .onStack s
    else (startEntry .push p s, .ok)

/-- POP at the Profile Unit, its checks in their order; at a depth of 1 or less it has no target (log 31). -/
def popProfile (_ : List Int) (s : State) : State × Reply :=
  if ¬ s.running then refuse .wrongState s
  else if s.entering then (s, .busy)
  else
    match s.prof.stack.dropLast.getLast? with
    | none => refuse .depth s
    | some p => if ¬ profilePresent s p then refuse .notPresent s else (startEntry .pop p s, .ok)

/-! ### Writing settings and profiles (08 R147 to R149) -/

/-- The profile is the target of an entry in flight. -/
def isTarget (s : State) (p : Fin 8) : Bool :=
  match s.prof.entry with
  | some e => decide (e.target = p)
  | none => false

/-- REFRESH at the Profile Unit (08 R149). DEDUCED (log 65): it tests presence in the record in force. -/
def refreshProfile (vs : List Int) (s : State) : State × Reply :=
  match index 8 (arg vs 0) with
  | none => refuse .badField s
  | some p =>
    if ¬ s.running then refuse .wrongState s
    else if ¬ profilePresent s p then refuse .notPresent s
    else if isTarget s p then (s, .busy)
    else ({ s with prof.fresh := put s.prof.fresh p true }, .ok)

/-- The Working block of the active profile with field `n` made ready and written (08 R147), and the value now held. -/
def writtenSetting (b : Settings) (n : Fin 16) (v : Int) : Settings × Int :=
  let held := readyField n.val b.overDwell b.underDwell v
  ((Settings.ofList (b.toList.set n.val held)).getD b, held)

/-- What a changed field brings (08 R147): the limits and the underfrequency offset recompute every account; auto
restore off cancels the restore delays. -/
def settingEffects (n : Fin 16) (before : State) (s : State) : State :=
  if n = 5 ∨ n = 6 ∨ n = 8 then accountUpdate false before four s
  else if n = 12 then autoOffCancels s
  else s

/-- WRITE SETTING at the Profile Unit (08 R147). -/
def writeSetting (vs : List Int) (s : State) : State × Reply :=
  match index 16 (arg vs 0) with
  | none => refuse .badField s
  | some n =>
    if ¬ s.running then refuse .wrongState s
    else if s.entering then (s, .busy)
    else
      let b := settings s
      let w := writtenSetting b n (arg vs 1)
      let s1 : State :=
        match s.prof.stack.getLast? with
        | some p => { s with prof.working := put s.prof.working p w.1 }
        | none => s
      (if w.1 = b then s1 else settingEffects n s s1,
        .done (decide (w.2 ≠ arg vs 1)) (writeField .w4 w.2))

/-- A profile record written, in the RAM image and in the Profile Unit's own (08 R148, log 31). -/
def updProfile (p : Fin 8) (f : Profile → Profile) (s : State) : State :=
  { s with start.ram.profiles := upd s.start.ram.profiles p f, conf.profiles := upd s.conf.profiles p f }

/-- The checks of WRITE PROFILE (08 R148) in their order, then its write. -/
def profileWrite (p : Fin 8) (own : State → State × Reply) (s : State) : State × Reply :=
  if ¬ s.operating then refuse .wrongState s
  else if ¬ (s.start.ram.profiles[p]).present then refuse .notPresent s
  else if p ∈ s.prof.stack then refuse .onStack s
  else if isTarget s p then (s, .busy)
  else own s

/-- A new Initial block (08 R148). -/
def writeInitial (p : Fin 8) (vs : List Int) (s : State) : State × Reply :=
  let held := readyBlock vs
  match Settings.ofList held with
  | some b => (updProfile p (fun r => { r with initial := b }) s, .done (decide (held ≠ vs)) (blockBytes b))
  | none => refuse .badField s

/-- A new patch list (08 R148): PATCH is set where a patch has a count of 1 or more. Its DONE carries the list as now held
(09 R155), coded as a request carries one (DEDUCED, log 57). -/
def writePatches (p : Fin 8) (ps : List RawPatch) (s : State) : State × Reply :=
  match readyPatches ps with
  | some (qs, changed) =>
    (updProfile p (fun r => { r with patches := qs, patch := qs.any fun q => decide (0 < q.count) }) s,
      .done changed (patchListBytes qs))
  | none => refuse .badField s

/-- Every table code of a patch list names a table (09 R153). -/
def tablesKnown (ps : List RawPatch) : Bool := ps.all fun p => decide (p.table = 0) || decide (p.table = 1)

/-- WRITE PROFILE (08 R148, 11 R172): profile, part code, contents. -/
def writeProfile (fields : List Byte) (s : State) : State × Reply :=
  match readPrefix [.w1, .w1] fields with
  | some ([n, part], rest) =>
    match index 8 n with
    | none => refuse .badField s
    | some p =>
      if part = 0 then
        match readFields blockWidths rest with
        | some vs => profileWrite p (writeInitial p vs) s
        | none => refuse .badField s
      else if part = 1 then
        match readPatchList rest with
        | some ps => if tablesKnown ps then profileWrite p (writePatches p ps) s else refuse .badField s
        | none => refuse .badField s
      else refuse .badField s
  | _ => refuse .badField s

end Sys2Proof.Machine
end

