-- ==== Sys2Proof/Machine/Startup.lean ====
section
/-! DEFINITION. The Start-up Controller (10): resets, the image check, adoption, HOLD, RESUME, the store, the joint
commands (09 R158 to R160) and LOAD RECORD. -/

namespace Sys2Proof.Machine

/-! ### Resets (10 R165, R166, R171) -/

/-- An input's filter after a reset: its raw level is the plant's, and it is UNSETTLED (01 R25). -/
def Filter.afterReset (f : Filter) : Filter := { raw := f.raw, filtered := none, timer := none }

/-- The Plant Image after a reset of either kind (01 R25). -/
def plantAfterReset (p : Plant) : Plant :=
  { Plant.reset with
    gcb := tab (fun _ => Filter.afterReset) p.gcb, ready := tab (fun _ => Filter.afterReset) p.ready,
    trip := tab (fun _ => Filter.afterReset) p.trip, tie := tab (fun _ => Filter.afterReset) p.tie,
    confirm := tab (fun _ => Filter.afterReset) p.confirm }

/-- The store after a reset or a loss of power: a write in flight is cut, and leaves an image whose CRC does not match
(10 R169). -/
def storeAfterCut (u : Startup) : Store := if u.storeOp.isSome then .broken else u.store

/-- A power-on reset (10 R165): every block at its power-on values, every output at its power-on level. -/
def coldReset (s : State) : State :=
  { State.reset with
    plant := plantAfterReset s.plant,
    start := { Startup.reset with resetLine := s.start.resetLine, store := storeAfterCut s.start },
    pending := s.pending }

/-- A warm reset (10 R165, R171): as a power-on reset, but the biases and the SHED outputs keep their levels
(03 R61, 05 R98). -/
def warmReset (kind : ResetKind) (s : State) : State :=
  let c := coldReset s
  { c with
    share.sets := tab (fun g r => { r with bias := s.share.sets[g].bias }) c.share.sets,
    shed.groups := tab (fun g r => { r with out := s.shed.groups[g].out }) c.shed.groups,
    start.kind := kind }

/-- POWER_ON_RESET (10 R165). -/
def execPowerOnReset (s : State) : Host.Outcome State Fault Refusal := .next (coldReset s)

/-- RESET_LINE_ASSERTED (10 R165): the part is held in reset while the line is asserted. -/
def execResetLineAsserted (s : State) : Host.Outcome State Fault Refusal :=
  .next
    (if s.start.resetLine then s
    else
      let s1 : State := { s with start.resetLine := true }
      if s.start.power then warmReset .resetLine s1 else s1)

/-- RESET_LINE_RELEASED (10 R165): the part enters STARTING, every state as the reset left it. -/
def execResetLineReleased (s : State) : Host.Outcome State Fault Refusal :=
  .next { s with start.resetLine := false }

/-- LOSS_OF_POWER (10 R169): a store write in flight is cut; everything volatile is gone (log 10). -/
def execLossOfPower (s : State) : Host.Outcome State Fault Refusal :=
  .next (let c := coldReset s; { c with start.power := false })

/-- WARM_RESET_BEGIN (09 R158): the last character of the DONE of a joint RESET has been sent. With no such response
being sent there is no such event. -/
def execWarmResetBegin (s : State) : Host.Outcome State Fault Refusal :=
  let sent (x : LinkRt) : Bool :=
    match x.sending with
    | some r => r.resets
    | none => false
  .next (if sent s.link.a ∨ sent s.link.b then warmReset .jointReset s else s)

/-! ### The image check (10 R166) -/

/-- Every filter's first timer started (01 R2). -/
def startFilters (s : State) : State :=
  let g := s.conf.general
  let go (time : Nat) (f : Filter) : Filter := { f with timer := some time }
  { s with
    plant.gcb := tab (fun _ => go g.breakerFilter) s.plant.gcb,
    plant.ready := tab (fun _ => go g.breakerFilter) s.plant.ready,
    plant.trip := tab (fun _ => go g.tripFilter) s.plant.trip,
    plant.tie := tab (fun _ => go g.breakerFilter) s.plant.tie,
    plant.confirm := tab (fun _ => go g.confirmFilter) s.plant.confirm }

/-- The reading of a set at the start of the Scanner, and of a set reconfigured at RESUME (02 R27, R40). DESIGN CHOICE
(log 47): OVERRANGE is clear with the window emptied. -/
def freshKw (present : Bool) : KwChan :=
  { window := [], validity := if present then .pending else .unused, value := 0, overrange := false }

/-- A section's channel that has just become present, or is not present (02 R27, R40). -/
def freshSect (present : Bool) (loss : Timer) : SectChan :=
  { volt := 0, live := if present then .uncertain else .dead, record := [], value := 0, valid := false,
    loss := if present then loss else none }

/-- The Scanner starts (02 R26, R35, R40): round timer and loss timers running. -/
def startScanner (s : State) : State :=
  { s with
    scan.round := some Config.roundTime,
    scan.kw := tab (fun g _ => freshKw (setPresent s g)) s.scan.kw,
    scan.sect := tab (fun x _ => freshSect (sectPresent s x) (some s.conf.general.lossTime)) s.scan.sect }

/-- The Profile Unit initialised (08 R150): FRESH on every profile, ACTIVE the base bank, the stack empty, and the
initial entry begun. DEDUCED (log 56): at a RESUME the stack is empty, and the defaults of 08 R138 are read, from then
until the initial entry completes, although the part is still in HELD. -/
def initProfiles (s : State) : State :=
  startEntry .initial s.conf.general.initialProfile
    { s with prof.fresh := Vector.replicate 8 true, prof.active := s.conf.base, prof.stack := [], prof.entry := none }

/-- The reset kind as a notice value (09 R161). -/
def ResetKind.code : ResetKind → Nat
  | .powerOn => 0
  | .resetLine => 1
  | .jointReset => 2

/-- The operating state as a code, and as the value of STATE_CHANGED (10 R165). -/
def OpState.code : OpState → Nat
  | .starting => 0
  | .unconfigured => 1
  | .held => 2
  | .running => 3

/-- STATE_CHANGED (10 R165). -/
def stateChanged (o : OpState) (s : State) : State :=
  notify .stateChanged none (some (o.code : Int)) { s with start.op := o }

/-- The image taken into the RAM copy and the blocks (10 R166). -/
def takeImage (img : Image) (s : State) : State := { s with start.ram := img, start.checked := true, conf := img }

/-- The filters, the Scanner and the Link Interface start, with STARTED as the first notice (09 R161). -/
def startBlocks (s : State) : State :=
  notify .started none (some (s.start.kind.code : Int)) (startScanner (startFilters s))

/-- The end of the CRC check (10 R166). -/
def imageChecked (s : State) : State :=
  match s.start.store with
  | .sound img =>
    let s1 := initProfiles (startBlocks (takeImage img s))
    firstPartition { s1 with start.adoptWait := some 1 }
  | .broken => stateChanged .unconfigured (startBlocks (takeImage Image.default s))

/-- IMAGE_CHECK (10 R166): made once in each start. -/
def execImageCheck (s : State) : Host.Outcome State Fault Refusal :=
  .next (if s.alive ∧ s.start.op = .starting ∧ ¬ s.start.checked then imageChecked s else s)

/-! ### Adoption (10 R171) -/

/-- The last of the events an adoption waits for has come (10 R166, R170). -/
def adoptReady (s : State) : Bool :=
  decide (s.start.adoptWait = some 0) && s.prof.entry.isNone && !s.prof.stack.isEmpty && allSettled s

/-- The partition at adoption (01 R25): the first one, or a partition change where it differs. DESIGN CHOICE (log 45):
UNCONFIGURED computes no partition, so the first adoption after it gives generation 0 and no PARTITION_CHANGED. -/
def adoptPartition (s : State) : State :=
  match s.plant.partition with
  | none => { s with plant.partition := some (computePartition s) }
  | some p => if computePartition s = p then s else partitionChange none p (computePartition s) s

/-- A set keeps its state at RESUME (01 R25): TRIPPED, INCOMING under a request in CLOSE, UNLOADING in OPENING. -/
def keepsState (s : State) (g : Fin 8) : Bool :=
  decide (s.start.op = .held) &&
  match s.plant.sets[g].state with
  | .tripped => true
  | .incoming =>
    match requestFor s (.set g) with
    | some r => decide (r.stage = .close)
    | none => false
  | .unloading => decide (s.share.sets[g].unload = .opening)
  | .offline => false
  | .online => false

/-- A set's record at adoption (01 R25). -/
def adoptSet (s : State) (g : Fin 8) (r : SetRt) : SetRt :=
  if ¬ setPresent s g then { state := .offline, latch := false }
  else if keepsState s g then r
  else if r.latch then { r with state := .tripped }
  else if s.plant.gcb[g].filtered = some true then { r with state := .online }
  else { r with state := .offline }

/-- A set's sharing record at adoption (03 R62), from the set states `sets` just adopted. A GCB-OPEN pulse runs on. -/
def adoptShare (s : State) (sets : Vector SetRt 8) (g : Fin 8) (r : ShareRt) : ShareRt :=
  if ¬ setPresent s g then { r with bias := 0, k := 0, sat := .clear, unload := .none, openWait := none }
  else
    match sets[g].state with
    | .online => { r with k := (settings s).rampN, sat := .clear, unload := .none, openWait := none }
    | .unloading => r
    | .incoming => { r with k := 0 }
    | .offline => { r with bias := s.conf.sets[g].park, k := 0, sat := .clear, unload := .none, openWait := none }
    | .tripped => { r with bias := s.conf.sets[g].park, k := 0, sat := .clear, unload := .none, openWait := none }

/-- A group's record at adoption (05 R98). -/
def adoptGroup (s : State) (g : Fin 32) (r : GroupRt) : GroupRt :=
  let present := s.conf.groups[g].present && sectPresent s s.conf.groups[g].sect
  if present ∧ r.out then { state := .shed, cause := some .adopted, confirm := none, out := true }
  else { state := .connected, cause := none, confirm := none, out := false }

/-- Every station UNKNOWN with miss count 0 (07 R134, R135). -/
def unknownStations (s : State) : State :=
  { s with line.stations := tab (fun _ r => { r with state := .unknown, miss := 0 }) s.line.stations }

/-- Adoption (10 R171): the partition, the set states, the biases and the groups as the plant has them; then RUNNING.
DESIGN CHOICE (log 51): where the partition differs PARTITION_CHANGED comes first, and STATE_CHANGED last. -/
def adopt (s : State) : State :=
  let s1 := adoptPartition s
  let sets := tab (adoptSet s1) s1.plant.sets
  let s2 : State :=
    { s1 with
      plant.sets := sets,
      share.sets := tab (adoptShare s1 sets) s1.share.sets,
      share.period := some (settings s1).sharePeriod,
      shed.groups := tab (adoptGroup s1) s1.shed.groups,
      start.adopted := true,
      start.adoptWait := none }
  stateChanged .running (recompute four (startPolling (unknownStations s2)))

/-- ADOPTION (10 R171): taken once the events it waits for have come. -/
def execAdoption (s : State) : Host.Outcome State Fault Refusal := .next (if adoptReady s then adopt s else s)

/-! ### The store (10 R169) -/

/-- The end of a store write (10 R169). -/
def storeWritten (img : Image) (good : Bool) (s : State) : State :=
  if good then
    let s1 := notify .configStored none none
      { s with start.store := .sound img, start.storeOp := none, start.lastStore := some .stored }
    if s1.start.op = .unconfigured then stateChanged .held s1 else s1
  else
    notify .configStoreFailed none (some 1)
      { s with start.store := .broken, start.storeOp := none, start.lastStore := some .failed }

/-- STORE_WRITE_END (10 R169): the read-back matches or not. With no store operation in flight there is no such
event. -/
def execStoreWriteEnd (good : Bool) (s : State) : Host.Outcome State Fault Refusal :=
  .next
    (match s.start.storeOp with
    | some img => storeWritten img good s
    | none => s)

/-- CONFIG COMMIT carried out (10 R169): the checks of R167 on a copy, then the store write. -/
def commit (s : State) : State :=
  match s.start.ram.check with
  | some n => notify .configStoreFailed (some n) (some 0) { s with start.lastStore := some .failed }
  | none => { s with start.storeOp := some s.start.ram }

/-! ### HOLD and RESUME (10 R170) -/

/-- Every running confirm timer cancelled (05 R97). -/
def stopConfirms (s : State) : State :=
  { s with shed.groups := tab (fun _ r => { r with confirm := none }) s.shed.groups }

/-- The Shed Controller and the Sharing Engine stop (03 R54, 05 R97, 06 R117). -/
def stopTimers (s : State) : State :=
  let s1 := stopConfirms s
  { s1 with share.period := none, shed.dwell := Vector.replicate 4 Dwell.idle, shed.restore := Vector.replicate 4 none }

/-- Every unload in RAMPING aborted with value 3 (03 R59), in ascending set number (DESIGN CHOICE, log 49). -/
def holdUnloads (s : State) : State :=
  (eight.filter fun g =>
    decide (s.plant.sets[g].state = .unloading) && decide (s.share.sets[g].unload = .ramping)).foldl
    (fun t g => abortUnload 3 g t) s

/-- The Synchroniser aborts with cause HELD, or finishes a CLOSE already begun (04 R82). -/
def holdSync (s : State) : State :=
  match s.sync.req with
  | some r => if r.stage = .close then s else syncAbort .held s
  | none => s

/-- The entries in the given states removed with one answer. -/
def removeAll (keep : Entry → Bool) (a : Answer) (s : State) : State :=
  let s1 := (s.resv.queue.filter fun e => !keep e).foldl (fun t e => answer e.station e.consumer a t) s
  { s1 with resv.queue := s1.resv.queue.filter keep }

/-- HOLD carried out (10 R170). DESIGN CHOICE (log 49): STATE_CHANGED comes first, then UNLOAD_ABORTED, then
SYNC_ABORTED. -/
def holdPart (s : State) : State :=
  let s1 := stateChanged .held s
  let s2 := holdSync (holdUnloads (stopTimers s1))
  accountUpdate false s four (removeAll (fun e => decide (e.state = .active)) .held s2)

/-- A set's reading at RESUME (02 R27). -/
def resumeKw (old new : State) (g : Fin 8) (c : KwChan) : KwChan :=
  if setPresent old g = setPresent new g ∧ old.conf.sets[g].fs = new.conf.sets[g].fs then c
  else freshKw (setPresent new g)

/-- A section's channel at RESUME (02 R27). -/
def resumeSect (old new : State) (x : Fin 4) (c : SectChan) : SectChan :=
  if sectPresent old x = sectPresent new x then c else freshSect (sectPresent new x) none

/-- A trip latch at RESUME (01 R3, log 26): held clear for a set that is not present; a LEVEL latch follows its input.
DESIGN CHOICE (log 60): a latch that this changes raises no trip active event and sends no TRIP_INPUT_CLEARED. -/
def resumeLatch (new : State) (g : Fin 8) (r : SetRt) : SetRt :=
  { r with
    latch :=
      if ¬ setPresent new g then false
      else if new.conf.sets[g].sense = .level then decide (new.plant.trip[g].filtered = some true)
      else r.latch }

/-- The Plant Image and the Scanner initialised from the RAM image (01 R25, 02 R27). -/
def resumePlant (s : State) : State :=
  let n : State := { s with conf := s.start.ram }
  { n with
    scan.kw := tab (resumeKw s n) s.scan.kw,
    scan.sect := tab (resumeSect s n) s.scan.sect,
    plant.freq := tab (fun x f => if sectPresent s x = sectPresent n x then f else none) s.plant.freq,
    plant.sets := tab (resumeLatch n) s.plant.sets }

/-- The Arbiter and the Consumer Line Controller at RESUME (07 R134). The poll slots start as the part enters RUNNING
(log 15). -/
def resumeLine (s : State) : State :=
  let s1 := removeAll (fun _ => false) .holdEnded s
  let s2 := unknownStations { s1 with resv.counter := 1 }
  reaimPolling
    { s2 with
      line.stations := tab
        (fun x r => if s2.conf.stations[x] then r else { r with answers := Vector.replicate 4 none }) s2.line.stations }

/-- RESUME carried out (10 R170): the blocks initialised from the RAM image, the initial entry begun, and the adoption
awaited that ends in RUNNING (log 14). -/
def resumePart (s : State) : State :=
  let s1 := resumeLine (initProfiles (resumePlant s))
  accountUpdate false s four { s1 with start.adoptWait := some 2 }

/-! ### Joint commands (09 R158 to R160) -/

/-- The command codes (09 R158). -/
def JointCmd.code : JointCmd → Nat
  | .reset => 0
  | .hold => 1
  | .resume => 2
  | .commit => 3

/-- The state check of a joint command (09 R158): the response where it fails. -/
def jointCheck (s : State) : JointCmd → Option Reply
  | .reset => none
  | .hold => if ¬ s.running then some (.refused .wrongState) else if s.entering then some .busy else none
  | .resume => if s.start.op = .held ∧ s.start.ram.check = none then none else some (.refused .wrongState)
  | .commit =>
    if s.start.op = .starting then some (.refused .wrongState) else if s.start.storeOp.isSome then some .busy else none

/-- A joint command carried out (09 R158): RESET waits for its DONE to have been sent. -/
def carryOut (c : JointCmd) (s : State) : State × Reply :=
  match c with
  | .reset => (s, .resetDone)
  | .hold => (holdPart s, .ok)
  | .resume => (resumePart s, .ok)
  | .commit => (commit s, .ok)

/-- A joint command that passed its check, with another one pending (09 R159, R160). -/
def jointMeets (l : Link) (c : JointCmd) (tag : Nat) (j : Joint) (s : State) : State × Reply :=
  if j.cmd = c ∧ j.tag = tag then
    if j.origin = l then (s, .pending) else carryOut c { s with link.joint := none }
  else
    (notify .jointConflict (some j.cmd.code) (some (c.code : Int)) { s with link.joint := none }, .refused .conflict)

/-- A joint command that passed its check, with none pending (09 R158). -/
def jointAlone (l : Link) (c : JointCmd) (tag : Nat) (s : State) : State × Reply :=
  if (s.link.get l.other).active then
    (notify .jointPending (some c.code) (some (l.code : Int))
      { s with link.joint := some { cmd := c, tag := tag, origin := l, window := s.conf.general.agreeWindow } }, .pending)
  else carryOut c s

/-- A joint command at the Link Interface (09 R158, R159). -/
def jointRequest (l : Link) (c : JointCmd) (vs : List Int) (s : State) : State × Reply :=
  match jointCheck s c with
  | some r => (s, r)
  | none =>
    match s.link.joint with
    | some j => jointMeets l c (arg vs 0).toNat j s
    | none => jointAlone l c (arg vs 0).toNat s

/-! ### LOAD RECORD (10 R168) -/

/-- The coded fields of a record lie in their coding (09 R153): flags below 2, modes below 3, notice edges below 4. Auto
restore in an Initial block above 1 is clamped to 1 (08 R147). -/
def recordCoded (kind : Int) (vs : List Int) : Bool :=
  let below (n : Int) (i : Nat) : Bool := decide (vs.getD i 0 < n)
  match kind with
  | 1 => below 2 0 && below 2 5
  | 2 => below 2 0 && below 2 1
  | 3 => below 2 0 && below 2 1
  | 4 => below 2 0
  | 5 => below 4 11 && below 4 12
  | 6 => vs.all fun v => decide (v < 2)
  | 8 => below 3 0
  | 9 => below 2 0 && below 2 1
  | _ => true

/-- A record whose field count and codings fit its kind (09 R153); an unknown record kind is left to its owner. -/
def recordFits (cs : List Byte) : Bool :=
  match readPrefix [.w1, .w1] cs with
  | some ([kind, _], rest) =>
    if kind = 11 then
      match readPatchList rest with
      | some ps => tablesKnown ps
      | none => false
    else
      match recordWidths kind with
      | some ws =>
        match readFields ws rest with
        | some vs => recordCoded kind vs
        | none => false
      | none => true
  | _ => false

/-- LOAD RECORD at the Start-up Controller (10 R168). -/
def loadRecord (fields : List Byte) (s : State) : State × Reply :=
  if ¬ recordFits fields then refuse .badField s
  else if s.start.op = .unconfigured ∨ s.start.op = .held then
    match loadRecordOf s.start.ram fields with
    | some (img, held, changed) => ({ s with start.ram := img }, .done changed held)
    | none => refuse .badField s
  else refuse .wrongState s

end Sys2Proof.Machine
end

