-- ==== Sys2Proof/Machine/Links.lean ====
section
/-! DEFINITION. The Link Interface's own events (09): start characters, responses, link timers, the agreement window and
READ NOTICES. -/

namespace Sys2Proof.Machine

/-- START_CHARACTER (09 R153): outside a frame it opens one and starts the frame timer. -/
def execStartCharacter (l : Link) (s : State) : Host.Outcome State Fault Refusal :=
  .next
    (if s.started ∧ (s.link.get l).frame = none then updLink l (fun x => { x with frame := some Config.frameTime }) s
    else s)

/-- UNKNOWN_KIND (09 R153): it counts for liveness, and is refused. -/
def execUnknownKind (l : Link) (kind seq : Byte) (s : State) : Host.Outcome State Fault Refusal :=
  .next (takeRequest l kind.toNat seq (refuse .unknownKind) s)

/-- The next response of a link begins (09 R154). -/
def LinkRt.sendNext (x : LinkRt) : LinkRt :=
  match x.waiting with
  | r :: rs => { x with sending := some r, waiting := rs }
  | [] => { x with sending := none }

/-- RESPONSE_SENT (09 R154, R158): the next response begins; after the DONE of a joint RESET the warm reset does. -/
def execResponseSent (l : Link) (s : State) : Host.Outcome State Fault Refusal :=
  .next
    (match (s.link.get l).sending with
    | some r => if r.resets then warmReset .jointReset s else updLink l LinkRt.sendNext s
    | none => s)

/-- The end of a link timer (09 R156, R157): the link is SILENT; with both SILENT the mode is AUTONOMOUS, and automatic
restore stops (06 R117). -/
def linkSilent (l : Link) (s : State) : State :=
  let s1 := notify .linkSilent (some l.code) none (updLink l (fun x => { x with active := false, timer := none }) s)
  if (s1.link.get l.other).active then s1 else cancelRestores (notify .supervisionMode none (some 0) s1)

/-- LINK_TIMER_EXPIRY (09 R156). -/
def execLinkTimerExpiry (l : Link) (s : State) : Host.Outcome State Fault Refusal :=
  .next (onExpiry (s.link.get l).timer s (linkSilent l))

/-- The end of the agreement window (09 R160). -/
def windowEnds (s : State) : State :=
  match s.link.joint with
  | some j => notify .jointExpired (some j.cmd.code) (some (j.origin.code : Int)) { s with link.joint := none }
  | none => s

/-- JOINT_WINDOW_EXPIRY (09 R160). -/
def execJointWindowExpiry (s : State) : Host.Outcome State Fault Refusal :=
  .next (onExpiry (s.link.joint.map (·.window)) s windowEnds)

/-- READ NOTICES (09 R162, 11 R172): up to eight of the oldest notices of the link, the number left, the OVERFLOW mark
as it stood; the mark is then cleared. -/
def readNotices (l : Link) (_ : List Int) (s : State) : State × Reply :=
  let x := s.link.get l
  let out := x.notices.take Config.noticeRead
  let left := x.notices.drop Config.noticeRead
  (updLink l (fun x => { x with notices := left, overflow := false }) s,
    .done false
      (writeField .w2 out.length ++ out.flatMap Notice.bytes ++
        writeItems [(.w2, left.length), (.w1, flagCode x.overflow)]))

end Sys2Proof.Machine
end

