-- ==== Sys2Proof/Machine/Scanner.lean ====
section
/-! DEFINITION. The Measurement Scanner (02): the scan round, section crossings, and the synchronising measurements. -/

namespace Sys2Proof.Machine

/-! ### kW channels (02 R28 to R32) -/

/-- The sample a code yields with full scale `fs`, or `none` where it is discarded (02 R28). -/
def kwSample (fs code : Nat) : Option Nat :=
  if code ≤ 736 then none
  else if code ≤ 818 then some 0
  else if code ≤ 4049 then some ((code - 819) * fs / 3276)
  else some fs

/-- The floor of the mean of a window (02 R29). -/
def meanOf (w : List Nat) : Nat := w.sum / w.length

/-- A window with one sample appended, holding its last four (02 R29). -/
def pushSample (w : List Nat) (v : Nat) : List Nat :=
  let w' := w ++ [v]
  w'.drop (w'.length - 4)

/-- A reading after a wire break (02 R30). -/
def KwChan.wireBreak (c : KwChan) : KwChan :=
  match c.validity with
  | .unused => c
  | .valid => { window := [], validity := .invalid, value := c.value, overrange := false }
  | .pending => { window := [], validity := .invalid, value := 0, overrange := false }
  | .invalid => { window := [], validity := .invalid, value := c.value, overrange := false }

/-- A reading after a sample (02 R29, R31, R32). -/
def KwChan.sample (v : Nat) (high : Bool) (c : KwChan) : KwChan :=
  let w := pushSample c.window v
  match c.validity with
  | .unused => c
  | .pending => { window := w, validity := .valid, value := v, overrange := high }
  | .valid => { window := w, validity := .valid, value := meanOf w, overrange := high }
  | .invalid =>
    if w.length = 4 then { window := w, validity := .valid, value := meanOf w, overrange := high }
    else { window := w, validity := .invalid, value := c.value, overrange := high }

/-- A reading after the code of a round (02 R28). -/
def KwChan.take (fs code : Nat) (c : KwChan) : KwChan :=
  match kwSample fs code with
  | none => c.wireBreak
  | some v => c.sample v (decide (4050 ≤ code))

/-- The notices of a set whose reading went from `c` to `d` in a round (02 R30 to R32). -/
def kwNotices (g : Fin 8) (fs : Nat) (c d : KwChan) (s : State) : State :=
  let s1 :=
    if c.validity ≠ .invalid ∧ d.validity = .invalid then notify .readingInvalid (some g.val) (some (d.value : Int)) s
    else if c.validity = .invalid ∧ d.validity = .valid then notify .readingValid (some g.val) (some (d.value : Int)) s
    else s
  if ¬ c.overrange ∧ d.overrange then notify .readingOverrange (some g.val) (some (fs : Int)) s1 else s1

/-- The channel of set `g` after the round: converted only while the set is present (02 R27). DESIGN CHOICE (log 53): the
round in progress at a RESUME gives a set it makes present, or whose FS it changes, its sample, with the FS in force at the
round's completion. -/
def kwAfter (s : State) (smp : Samples) (g : Fin 8) : KwChan :=
  if setPresent s g then (s.scan.kw[g]).take s.conf.sets[g].fs smp.kw[g] else s.scan.kw[g]

/-! ### Section voltage and live state (02 R33) -/

/-- A voltage in ‰ of nominal. -/
def voltOf (code : Nat) : Nat := code * 1250 / 4095

/-- The live state after a sample of voltage `v`, with the live and dead thresholds (02 R33). -/
def liveNext (live dead : Nat) (before : Live) (v : Nat) : Live :=
  let up := match before with
    | .live => decide (live ≤ v + 50)
    | .dead => decide (live ≤ v)
    | .uncertain => decide (live ≤ v)
  if v ≤ dead then .dead else if up then .live else .uncertain

/-- A section's channel after the voltage of a round (02 R33, R35 cause 3, R36). -/
def SectChan.volts (g : GeneralCfg) (code : Nat) (c : SectChan) : SectChan :=
  let v := voltOf code
  let l := liveNext g.liveThr g.deadThr c.live v
  if l = .live then
    { c with volt := v, live := l, valid := c.valid || (decide (c.live ≠ .live) && decide (c.record.length = 9)) }
  else if c.live = .live then { c with volt := v, live := l, record := [], valid := false }
  else { c with volt := v, live := l }

/-- The channel of section `x` after the round: converted only while the section is present (02 R27), at the round's
completion (log 53). -/
def sectAfter (s : State) (smp : Samples) (x : Fin 4) : SectChan :=
  if sectPresent s x then (s.scan.sect[x]).volts s.conf.general smp.secv[x] else s.scan.sect[x]

/-- FREQ_VALID or FREQ_INVALID of a section whose channel went from `c` to `d` (02 R35, R36). -/
def freqNotice (x : Fin 4) (cause : Int) (c d : SectChan) (s : State) : State :=
  if c.valid ∧ ¬ d.valid then notify .freqInvalid (some x.val) (some cause) s
  else if ¬ c.valid ∧ d.valid then notify .freqValid (some x.val) (some (d.value : Int)) s
  else s

/-- A section's frequency as the Plant Image takes it. -/
def SectChan.freq (c : SectChan) : Option Nat := if c.valid then some c.value else none

/-! ### Crossing records (02 R34, R38) -/

/-- A crossing appended to a record of nine. -/
def pushCrossing (r : List Nat) (t : Nat) : List Nat :=
  let r' := r ++ [t]
  r'.drop (r'.length - 9)

/-- T8: the µs from the oldest to the newest crossing. -/
def spanOf (r : List Nat) : Nat := r.getLastD 0 - r.headD 0

/-- floor(8 × 10^9 / T8) mHz; over no time at all it is a free value (log 28). -/
def freqOf (t8 : Nat) : Nat := if t8 = 0 then Config.freqOfZeroSpan else 8000000000 / t8

/-- The computed frequency is in range. -/
def freqOk (f : Nat) : Bool := decide (Config.freqMin ≤ f) && decide (f ≤ Config.freqMax)

/-- A section's channel after a crossing (02 R34 to R36). -/
def SectChan.crossing (lossTime time : Nat) (c : SectChan) : SectChan :=
  let r := pushCrossing c.record time
  let f := freqOf (spanOf r)
  if r.length = 9 then
    if freqOk f then { c with record := r, loss := some lossTime, value := f, valid := c.valid || decide (c.live = .live) }
    else { c with record := [], loss := some lossTime, valid := false }
  else { c with record := r, loss := some lossTime }

/-- A section's channel replaced between rounds; a change of validity is an event at the Plant Image (01 R15), whose
notices follow FREQ_VALID or FREQ_INVALID (log 50). -/
def setSect (x : Fin 4) (cause : Int) (d : SectChan) (s : State) : State :=
  let c := s.scan.sect[x]
  let s1 : State := { s with scan.sect := put s.scan.sect x d }
  if c.valid = d.valid then s1
  else
    let s2 : State := { s1 with plant.freq := put s1.plant.freq x d.freq }
    updateAt s x (freqNotice x cause c d s2)

/-- SECTION_CROSSING (02 R34). The crossings of a present section are recorded once the Scanner has started. -/
def execSectionCrossing (x : Fin 4) (time : Nat) (s : State) : Host.Outcome State Fault Refusal :=
  .next
    (if s.started ∧ sectPresent s x then
      setSect x 2 ((s.scan.sect[x]).crossing s.conf.general.lossTime time) s
    else s)

/-- A section's channel after its loss time without a crossing (02 R35). -/
def SectChan.lost (c : SectChan) : SectChan := { c with record := [], valid := false, loss := none }

/-- SECTION_LOSS_TIMER_EXPIRY (02 R35). -/
def execSectionLossTimerExpiry (x : Fin 4) (s : State) : Host.Outcome State Fault Refusal :=
  .next (onExpiry s.scan.sect[x].loss s fun t => setSect x 1 (t.scan.sect[x]).lost t)

/-! ### Synchronising measurements (02 R37 to R39) -/

/-- f_in: valid in SETTLED. -/
def fIn (s : State) : Option Nat := if s.scan.selector = .settled then s.scan.chanIn.freq else none

/-- f_ref: valid in SETTLED. -/
def fRef (s : State) : Option Nat := if s.scan.selector = .settled then s.scan.chanRef.freq else none

/-- slip = f_in − f_ref, valid while both are. -/
def slipOf (s : State) : Option Int :=
  match fIn s, fRef s with
  | some a, some b => some ((a : Int) - (b : Int))
  | _, _ => none

/-- A frequency channel after a crossing (02 R38). -/
def SyncChan.crossing (lossTime time : Nat) (c : SyncChan) : SyncChan :=
  let r := pushCrossing c.record time
  let f := freqOf (spanOf r)
  if r.length = 9 then
    if freqOk f then { record := r, freq := some f, loss := some lossTime }
    else { record := [], freq := none, loss := some lossTime }
  else { c with record := r, loss := some lossTime }

/-- A frequency channel after its loss time without a crossing (02 R38). -/
def SyncChan.lost (_ : SyncChan) : SyncChan := { record := [], freq := none, loss := none }

/-- The phase angle of a SYNC-IN crossing at `time` against a reference record (02 R39). -/
def phaseOf (time : Nat) (ref : List Nat) : Int :=
  let d := time - ref.getLastD 0
  let p := spanOf ref / 8
  let a : Nat := min 359 (if p = 0 then Config.angleOfZeroPeriod d else d * 360 / p)
  if a ≤ 180 then -(a : Int) else 360 - (a : Int)

/-- The Synchroniser takes a reference lost event (04 R81): an abort in MATCH and PHASE. -/
def referenceLost (s : State) : State :=
  match s.sync.req with
  | some r => if r.stage = .matching ∨ r.stage = .phase then syncAbort .lostReference s else s
  | none => s

/-- The reference channel replaced; an f_ref that has become invalid takes the phase with it and is a reference lost
event (02 R38, R39). -/
def setRef (d : SyncChan) (s : State) : State :=
  let s1 : State := { s with scan.chanRef := d, scan.phi := if d.freq.isSome then s.scan.phi else none }
  if (fRef s).isSome ∧ d.freq.isNone then referenceLost s1 else s1

/-- SYNC_IN_CROSSING (02 R38, R39). Not converted while the selector is RELEASED (02 R27). -/
def execSyncInCrossing (time : Nat) (s : State) : Host.Outcome State Fault Refusal :=
  .next
    (if s.started ∧ s.scan.selector ≠ .released then
      let d := s.scan.chanIn.crossing s.conf.general.lossTime time
      let ok := d.freq.isSome && (fRef s).isSome
      { s with scan.chanIn := d, scan.phi := if ok then some (phaseOf time s.scan.chanRef.record) else none }
    else s)

/-- SYNC_REF_CROSSING (02 R38). -/
def execSyncRefCrossing (time : Nat) (s : State) : Host.Outcome State Fault Refusal :=
  .next
    (if s.started ∧ s.scan.selector ≠ .released then
      setRef (s.scan.chanRef.crossing s.conf.general.lossTime time) s
    else s)

/-- SYNC_LOSS_TIMER_EXPIRY (02 R38). -/
def execSyncLossTimerExpiry (side : SyncSide) (s : State) : Host.Outcome State Fault Refusal :=
  .next
    (match side with
    | .incoming =>
      onExpiry s.scan.chanIn.loss s fun t => { t with scan.chanIn := t.scan.chanIn.lost, scan.phi := none }
    | .reference => onExpiry s.scan.chanRef.loss s fun t => setRef t.scan.chanRef.lost t)

/-! ### The scan round (02 R26) -/

/-- VIN or VREF after a round that converted it (02 R38). -/
def VoltChan.take (g : GeneralCfg) (code : Nat) (c : VoltChan) : VoltChan :=
  let v := voltOf code
  { volt := v, live := liveNext g.liveThr g.deadThr c.live v }

/-- The Scanner's channels after the round `smp`; a round converts VIN and VREF where the selector was driven as it
began (02 R37), and the next one begins now. -/
def scanAfter (s : State) (smp : Samples) : Scan :=
  let g := s.conf.general
  { s.scan with
    round := some Config.roundTime,
    kw := tab (fun i _ => kwAfter s smp i) s.scan.kw,
    sect := tab (fun x _ => sectAfter s smp x) s.scan.sect,
    vin := if s.scan.converting then s.scan.vin.take g smp.vin else s.scan.vin,
    vref := if s.scan.converting then s.scan.vref.take g smp.vref else s.scan.vref,
    converting := decide (s.scan.selector ≠ .released) }

/-- The notices of a round: the readings', then the sections', each in ascending number (02 R26). -/
def roundNotices (old : State) (smp : Samples) (s : State) : State :=
  let s1 := eight.foldl (fun t g => kwNotices g old.conf.sets[g].fs old.scan.kw[g] (kwAfter old smp g) t) s
  four.foldl (fun t x => freqNotice x 3 old.scan.sect[x] (sectAfter old smp x) t) s1

/-- VREF fell to DEAD at this completion, with the selector SETTLED (02 R38). -/
def vrefFell (old new : State) : Bool :=
  decide (old.scan.selector = .settled) && decide (old.scan.vref.live ≠ .dead) && decide (new.scan.vref.live = .dead)

/-- The completion of a round (02 R26, 01 R15, R23): the results take effect, the notices are sent, the Plant Image
takes the frequencies and recomputes all accounts, and an adoption awaiting this completion waits for one less. DESIGN
CHOICE (log 48): the reference lost event of VREF falling to DEAD comes after the whole account update, so SYNC_ABORTED
follows that update's notices. -/
def scanRound (smp : Samples) (s : State) : State :=
  let s1 : State := { s with scan := scanAfter s smp, start.adoptWait := s.start.adoptWait.map (· - 1) }
  let s2 := roundNotices s smp s1
  let s3 : State := { s2 with plant.freq := tab (fun x _ => (s2.scan.sect[x]).freq) s2.plant.freq }
  let s4 := accountUpdate true s four s3
  if vrefFell s s1 then referenceLost s4 else s4

/-- ROUND_TIMER_EXPIRY (02 R26). -/
def execRoundTimerExpiry (smp : Samples) (s : State) : Host.Outcome State Fault Refusal :=
  .next (onExpiry s.scan.round s (scanRound smp))

end Sys2Proof.Machine
end

