-- ==== Sys2Proof/Machine/Synchroniser.lean ====
section
/-! DEFINITION. The Synchroniser (04): its commands, the dead-bus test, the sync pass and its timers. -/

namespace Sys2Proof.Machine

/-- The request in flight changed. -/
def updReq (f : SyncReq → SyncReq) (s : State) : State := { s with sync.req := s.sync.req.map f }

/-- A timer of the request in flight. -/
def reqTimer (s : State) (f : SyncReq → Timer) : Timer :=
  match s.sync.req with
  | some r => f r
  | none => none

/-! ### Taking and cancelling a request (04 R65 to R67) -/

/-- A request just taken for an object (04 R65, R66): stage SELECT, settle timer and time limit running. -/
def newReq (y : SyncCfg) (o : SyncObj) (origin : Link) (ref : Fin 4) (inc : Option (Fin 4)) (isl : Option (Fin 4))
    (ring : Bool) : SyncReq where
  obj := o
  origin := origin
  refSect := ref
  inSect := inc
  inIsland := isl
  ringClose := ring
  deadBus := false
  stage := .select
  coarse := false
  qual := 0
  ringQual := 0
  fine := false
  prev := none
  par := y
  settle := some y.settle
  limit := some (y.limit * 1000)
  pass := none
  pulse := none
  confirm := none

/-- A request taken: the record filled, the selector driven and handed to the Scanner. -/
def takeSync (r : SyncReq) (s : State) : State :=
  selectPair { s with sync := { req := some r, offset := 0, lastAbort := none } }

/-- The set is OFFLINE, ready, and no GCB-OPEN pulse of it is driven (04 R65). -/
def connectReady (s : State) (g : Fin 8) : Bool :=
  decide (s.plant.sets[g].state = .offline) && decide (s.plant.ready[g].filtered = some true) && !s.gcbOpen g

/-- CONNECT SET at the Synchroniser (04 R65), its checks in their order. -/
def connectSet (l : Link) (vs : List Int) (s : State) : State × Reply :=
  match index 8 (arg vs 0) with
  | none => refuse .badField s
  | some g =>
    if ¬ s.running then refuse .wrongState s
    else if s.sync.req.isSome then (s, .busy)
    else if arg vs 1 ≠ (s.plant.generation : Int) then refuse .stale s
    else if ¬ setPresent s g then refuse .notPresent s
    else if s.plant.sets[g].state = .tripped then refuse .tripped s
    else if ¬ connectReady s g then refuse .notReady s
    else
      (takeSync (newReq s.conf.sync (.set g) l s.conf.sets[g].sect none none false) (setSetState g .incoming s), .ok)

/-- CLOSE TIE at the Synchroniser (04 R66), its checks in their order. -/
def closeTie (l : Link) (vs : List Int) (s : State) : State × Reply :=
  match index 4 (arg vs 0) with
  | none => refuse .badField s
  | some t =>
    if ¬ s.running then refuse .wrongState s
    else if s.sync.req.isSome then (s, .busy)
    else if arg vs 1 ≠ (s.plant.generation : Int) then refuse .stale s
    else if ¬ tieUsable s t then refuse .notPresent s
    else if s.plant.tie[t].filtered ≠ some false then refuse .alreadyClosed s
    else
      let ring := decide (islandOf s (tieLow t) = islandOf s (tieHigh t))
      (takeSync
        (newReq s.conf.sync (.tie t) l (tieLow t) (some (tieHigh t)) (islandOf s (tieHigh t)) ring) s, .ok)

/-- CANCEL SYNC at the Synchroniser (04 R67). -/
def cancelSync (_ : List Int) (s : State) : State × Reply :=
  if s.operating then
    match s.sync.req with
    | some _ => (syncAbort .cancelled s, .ok)
    | none => refuse .notFound s
  else refuse .wrongState s

/-! ### The dead-bus test (04 R68 to R70) -/

/-- The outcome of the dead-bus test. -/
inductive BusTest where
  | toMatch
  | toClose
  | abort (c : AbortCause)
  deriving DecidableEq, Repr

/-- The account of a section's island is flagged DEAD. -/
def islandDead (s : State) (x : Fin 4) : Bool :=
  match islandOf s x with
  | some i =>
    match s.plant.accounts[i] with
    | some a => a.dead
    | none => false
  | none => false

/-- A dead-bus close onto section `x` where it is permitted. -/
def deadClose (s : State) (permitted : Bool) (x : Fin 4) : BusTest :=
  if islandDead s x ∧ permitted then .toClose else .abort .noDeadBus

/-- The test of a CONNECT request (04 R69). -/
def setBusTest (s : State) (x : Fin 4) : BusTest :=
  match s.scan.sect[x].live, s.scan.vin.live with
  | .dead, .dead => .abort .bothDead
  | .dead, .live => deadClose s s.conf.sections[x].deadClose x
  | .dead, .uncertain => .abort .noDeadBus
  | .uncertain, _ => .abort .noDeadBus
  | .live, _ => .toMatch

/-- The test of a TIE request (04 R70). -/
def tieBusTest (s : State) (t : Fin 4) : BusTest :=
  match s.scan.sect[tieLow t].live, s.scan.sect[tieHigh t].live with
  | .dead, .dead => .abort .bothDead
  | .dead, .live => deadClose s s.conf.ties[t].deadClose (tieLow t)
  | .live, .dead => deadClose s s.conf.ties[t].deadClose (tieHigh t)
  | .live, .live => .toMatch
  | .uncertain, _ => .abort .noDeadBus
  | .dead, .uncertain => .abort .noDeadBus
  | .live, .uncertain => .abort .noDeadBus

/-- The dead-bus test of a request. -/
def busTest (s : State) (o : SyncObj) : BusTest :=
  match o with
  | .set g => setBusTest s s.conf.sets[g].sect
  | .tie t => tieBusTest s t

/-- A request on entering CLOSE (04 R77): close line asserted, pulse and confirm timers started, time limit ended. -/
def SyncReq.enterClose (r : SyncReq) : SyncReq :=
  { r with stage := .close, limit := none, pulse := some r.par.pulse, confirm := some r.par.confirm }

/-- SELECTOR_SETTLE_EXPIRY (04 R68): the selector is SETTLED and the dead-bus test is made. -/
def settleEnd (s : State) : State :=
  match s.sync.req with
  | some r =>
    let s1 := updReq (fun r => { r with settle := none }) { s with scan.selector := .settled }
    match busTest s1 r.obj with
    | .toMatch => updReq (fun r => { r with stage := .matching, pass := some Config.syncPassTime }) s1
    | .toClose => updReq (fun r => { r.enterClose with deadBus := true }) s1
    | .abort c => syncAbort c s1
  | none => s

/-- SELECTOR_SETTLE_EXPIRY. -/
def execSelectorSettleExpiry (s : State) : Host.Outcome State Fault Refusal :=
  .next (onExpiry (reqTimer s (·.settle)) s settleEnd)

/-! ### The sync pass (04 R71 to R76) -/

/-- The slip target of a request: 0 for a ring close (04 R72). -/
def SyncReq.target (r : SyncReq) : Int := if r.ringClose then 0 else r.par.slipTarget

/-- The coarse condition (04 R72). -/
def coarseHolds (s : State) (r : SyncReq) : Bool :=
  match slipOf s with
  | some v =>
    within (-r.par.slipWindow) r.par.slipWindow (v - r.target) && decide (s.scan.vin.live = .live) &&
    decide (s.scan.vref.live = .live) &&
    within (-r.par.voltWindow) r.par.voltWindow ((s.scan.vin.volt : Int) - (s.scan.vref.volt : Int))
  | none => false

/-- An angle brought into −180 to +179 by adding or subtracting 360. -/
def wrapAngle (a : Int) : Int := (a + 180) % 360 - 180

/-- φ_pred (04 R75). -/
def predicted (phi slip tClose : Int) : Int := wrapAngle ((phi * 1000000 + slip * tClose * 360).tdiv 1000000)

/-- The fine condition of a request that is not a ring close (04 R75). -/
def fineHolds (s : State) (r : SyncReq) : Bool :=
  match s.scan.phi, slipOf s, r.prev with
  | some p, some v, some q =>
    decide (p.natAbs < q.natAbs) && within (-r.par.phaseWindow) r.par.phaseWindow (predicted p v r.par.tClose)
  | _, _, _ => false

/-- The angle test of a ring close at one pass (04 R75). -/
def ringHolds (s : State) (r : SyncReq) : Bool :=
  match s.scan.phi with
  | some p => within (-r.par.phaseWindow) r.par.phaseWindow p
  | none => false

/-- The coarse lock and its count after a pass (04 R72). -/
def coarseStep (s : State) (r : SyncReq) : SyncReq :=
  if coarseHolds s r then
    let q := min (r.qual + 1) r.par.qualPasses
    { r with qual := q, coarse := r.coarse || decide (q = r.par.qualPasses) }
  else { r with qual := 0, coarse := false }

/-- The fine lock, the ring count and the previous angle after a pass in PHASE or CLOSE (04 R75). -/
def fineStep (s : State) (r : SyncReq) : SyncReq :=
  if r.ringClose then
    let n := if ringHolds s r then min (r.ringQual + 1) r.par.qualPasses else 0
    { r with ringQual := n, fine := ringHolds s r && decide (n = r.par.qualPasses), prev := s.scan.phi }
  else { r with fine := fineHolds s r, prev := s.scan.phi }

/-- The request after steps 1 to 4 of a pass (04 R71). DESIGN CHOICE (log 61): a pass in MATCH, or one that loses coarse
lock, leaves the ring qualification count as it stands; entering PHASE sets it to 0. -/
def passReq (s : State) (r : SyncReq) : SyncReq :=
  let r1 := coarseStep s { r with pass := some Config.syncPassTime }
  match r.stage with
  | .select => r1
  | .matching => if r1.coarse then { r1 with stage := .phase, prev := s.scan.phi, ringQual := 0 } else r1
  | .phase =>
    if r1.coarse then
      let r2 := fineStep s r1
      if r2.fine then r2.enterClose else r2
    else { r1 with stage := .matching, prev := none }
  | .close => fineStep s r1

/-- An edge a setting selects (04 R76). -/
def Edges.selects (e : Edges) (rise : Bool) : Bool :=
  match e with
  | .none => false
  | .rise => rise
  | .fall => !rise
  | .both => true

/-- SYNC_LOCK of lock `n` where it went from `a` to `b` (04 R76). -/
def lockNotice (n : Nat) (e : Edges) (a b : Bool) (s : State) : State :=
  if a ≠ b ∧ e.selects b then notify .syncLock (some n) (some (if b then 1 else 0)) s else s

/-- The speed-matching step (04 R73, R74); 0 where slip is invalid. -/
def speedStep (s : State) (r : SyncReq) : Int :=
  let smax : Int := (settings s).smax
  match slipOf s with
  | some v => clamp (-smax) smax ((r.par.gain * (r.target - v)).tdiv 64)
  | none => 0

/-- Speed matching (04 R73, R74): the bias of an incoming set, or the sync offset of a tie. -/
def speedMatch (r : SyncReq) (s : State) : State :=
  match r.obj with
  | .set g => updShare g (fun c => { c with bias := clamp (-1000) 1000 (c.bias + speedStep s r) }) s
  | .tie _ => { s with sync.offset := clamp (-2000) 2000 (s.sync.offset + speedStep s r) }

/-- The request is in a stage that speed-matches (04 R71). -/
def SyncReq.matches (r : SyncReq) : Bool := decide (r.stage = .matching) || decide (r.stage = .phase)

/-- A sync pass (04 R71). -/
def syncPass (s : State) : State :=
  match s.sync.req with
  | some r =>
    let r1 := passReq s r
    let s1 : State := { s with sync.req := some r1 }
    let s2 := lockNotice 1 r.par.fineEdges r.fine r1.fine (lockNotice 0 r.par.coarseEdges r.coarse r1.coarse s1)
    if r.matches ∧ r1.matches ∧ ¬ r.ringClose then speedMatch r1 s2 else s2
  | none => s

/-- SYNC_PASS (04 R71): an expiry of the sync pass timer. -/
def execSyncPass (s : State) : Host.Outcome State Fault Refusal :=
  .next (onExpiry (reqTimer s (·.pass)) s syncPass)

/-! ### The other timers (04 R77, R78, R80) -/

/-- The sync time limit where its expiry arises: in MATCH and PHASE. In SELECT it does not (04 R81), and CLOSE has
cancelled it. -/
def SyncReq.limitTimer (r : SyncReq) : Timer := if r.matches then r.limit else none

/-- SYNC_TIME_LIMIT_EXPIRY (04 R80): TIMEOUT. -/
def execSyncTimeLimitExpiry (s : State) : Host.Outcome State Fault Refusal :=
  .next (onExpiry (reqTimer s SyncReq.limitTimer) s (syncAbort .timeout))

/-- CLOSE_PULSE_EXPIRY (04 R77): the close line is released. -/
def execClosePulseExpiry (s : State) : Host.Outcome State Fault Refusal :=
  .next (onExpiry (reqTimer s (·.pulse)) s (updReq fun r => { r with pulse := none }))

/-- CLOSE_CONFIRM_EXPIRY (04 R78): CLOSE_FAILED. -/
def execCloseConfirmExpiry (s : State) : Host.Outcome State Fault Refusal :=
  .next (onExpiry (reqTimer s (·.confirm)) s (syncAbort .closeFailed))

end Sys2Proof.Machine
end

