-- ==== Sys2Proof/Machine/Reads.lean ====
section
/-! DEFINITION. The read requests (01 R24, 05 R99, 07 R136, 08 R151, 09 R164): their data, item by item in the order of
their rules (11 R172; what the rules leave open of the layout is log 25). A read changes no state of its owner. -/

namespace Sys2Proof.Machine

/-! ### Codes (11 section 11.1) -/

/-- A settled two-valued input: its first listed value 0, its second 1, UNSETTLED 2. -/
def inputCode (f : Filter) : Int :=
  match f.filtered with
  | some true => 0
  | some false => 1
  | none => 2

/-- LIVE, DEAD, UNCERTAIN. -/
def Live.code : Live → Nat
  | .live => 0
  | .dead => 1
  | .uncertain => 2

/-- OFFLINE, INCOMING, ONLINE, UNLOADING, TRIPPED. -/
def SetState.code : SetState → Nat
  | .offline => 0
  | .incoming => 1
  | .online => 2
  | .unloading => 3
  | .tripped => 4

/-- PENDING, VALID, INVALID (02 R29), then UNUSED, which 02 R27 names apart: PRESUMED (log 25). -/
def Validity.code : Validity → Nat
  | .pending => 0
  | .valid => 1
  | .invalid => 2
  | .unused => 3

/-- CONNECTED, INHIBITED, SHED_PENDING, SHED, SHED_FAILED. -/
def GroupState.code : GroupState → Nat
  | .connected => 0
  | .inhibited => 1
  | .shedPending => 2
  | .shed => 3
  | .shedFailed => 4

/-- WAITING, OFFERED, ACTIVE. -/
def EntryState.code : EntryState → Nat
  | .waiting => 0
  | .offered => 1
  | .active => 2

/-- UNKNOWN, PRESENT, LOST. -/
def StationState.code : StationState → Nat
  | .unknown => 0
  | .present => 1
  | .lost => 2

/-- ENTER, PUSH, POP (08 R141), then the initial entry, which has no command: PRESUMED (log 25). -/
def EntryCmd.code : EntryCmd → Nat
  | .enter => 0
  | .push => 1
  | .pop => 2
  | .initial => 3

/-- RELEASED, SETTLING, SETTLED. -/
def SelState.code : SelState → Nat
  | .released => 0
  | .settling => 1
  | .settled => 2

/-- IDLE is 0; then SELECT, MATCH, PHASE, CLOSE. -/
def SyncStage.code : SyncStage → Nat
  | .select => 1
  | .matching => 2
  | .phase => 3
  | .close => 4

/-- IDLE, RUNNING, FROZEN. -/
def DwellState.code : DwellState → Nat
  | .idle => 0
  | .running => 1
  | .frozen => 2

/-- OVERLOAD, UNDERFREQUENCY. -/
def DwellKind.code : DwellKind → Nat
  | .overload => 0
  | .underfrequency => 1

/-- HELD, NOT_HELD. -/
def lockCode (b : Bool) : Int := if b then 0 else 1

/-- A number as an item's value. -/
def num (n : Nat) : Int := (n : Int)

/-- A four-byte item that may be absent. -/
def opt4 (v : Option Nat) : Width × Int := (.w4, orAbsent .w4 (v.map num))

/-- A one-byte item that may be absent. -/
def opt1 (v : Option Nat) : Width × Int := (.w1, orAbsent .w1 (v.map num))

/-- The numbers of the non-vacant islands, ascending. -/
def islands (s : State) : List (Fin 4) := four.filter fun i => s.plant.accounts[i].isSome

/-! ### READ ACCOUNTS and READ SETS (01 R24) -/

/-- The READ ACCOUNTS data (11 R174). -/
def accountsData (s : State) : List Byte :=
  writeField .w2 s.plant.generation ++
  four.flatMap (fun x =>
    writeItems [(.w1, flagCode (sectPresent s x)), (.w1, (s.scan.sect[x].live).code), opt4 s.plant.freq[x]]) ++
  four.flatMap (fun t => writeItems [(.w1, flagCode s.conf.ties[t].present), (.w1, inputCode s.plant.tie[t])]) ++
  writeField .w2 (islands s).length ++
  (islands s).flatMap fun i =>
    match s.plant.accounts[i] with
    | some a => a.bytes i.val
    | none => []

/-- READ ACCOUNTS at its owner. -/
def readAccounts (_ : List Int) (s : State) : State × Reply := (s, .done false (accountsData s))

/-- One set of the READ SETS data. The present flag is the configured one (01 R4). The trip latch is coded as a flag, clear 0 and set 1 (PRESUMED, log 25). -/
def setData (s : State) (g : Fin 8) : List Byte :=
  let c := s.conf.sets[g]
  let k := s.scan.kw[g]
  let r := s.share.sets[g]
  writeItems
    [(.w1, flagCode c.present), (.w1, c.sect.val), (.w4, c.rating),
     (.w1, (s.plant.sets[g].state).code), (.w1, flagCode s.plant.sets[g].latch), (.w1, inputCode s.plant.ready[g]),
     (.w1, inputCode s.plant.gcb[g]), (.w1, inputCode s.plant.trip[g]),
     (.w1, (s.prof.active.sets[g].mode).code), (.w4, s.prof.active.sets[g].base),
     (.w4, k.value), (.w1, k.validity.code), (.w1, flagCode k.overrange),
     (.w4, r.bias), (.w4, r.k), (.w1, flagCode (decide (r.sat ≠ .clear)))]

/-- READ SETS at its owner. -/
def readSets (_ : List Int) (s : State) : State × Reply := (s, .done false (eight.flatMap (setData s)))

/-! ### READ GROUPS (05 R99) -/

/-- One group of the READ GROUPS data. The present flag is the configured one (05 R84), no before adoption (05 R99, log
36); the state before adoption is log 55, and the code of the SHED output's level log 25. -/
def groupData (s : State) (g : Fin 32) : List Byte :=
  let c := s.conf.groups[g]
  let r := s.shed.groups[g]
  writeItems
    [(.w1, flagCode (s.start.adopted && c.present)), (.w1, c.sect.val), opt1 (c.confirm.map Fin.val),
     (.w1, orAbsent .w1 (c.confirm.map fun k => inputCode s.plant.confirm[k])),
     (.w1, groupLevel s g), (.w4, groupLoad s g), (.w1, r.state.code), opt1 (r.cause.map ShedCause.code),
     (.w1, flagCode r.confirm.isSome), opt4 r.confirm, (.w1, flagCode r.out)]

/-- A list of groups, preceded by its count. -/
def orderData (gs : List (Fin 32)) : List Byte := writeField .w2 gs.length ++ gs.flatMap fun g => writeField .w1 g.val

/-- The READ GROUPS data. -/
def groupsData (s : State) : List Byte :=
  thirtyTwo.flatMap (groupData s) ++ writeField .w2 (islands s).length ++
  (islands s).flatMap fun i => orderData (shedOrder s i) ++ orderData (restoreOrder s i)

/-- READ GROUPS at its owner. -/
def readGroups (_ : List Int) (s : State) : State × Reply := (s, .done false (groupsData s))

/-! ### READ QUEUE (07 R136) -/

/-- One entry of the READ QUEUE data. -/
def entryData (s : State) (e : Entry) : List Byte :=
  writeItems
    [(.w1, stationNumber e.station), (.w1, e.consumer.val), (.w1, e.sect.val), opt1 ((e.island s).map Fin.val),
     (.w4, e.kw), (.w1, e.level), (.w4, e.hold), (.w1, e.state.code), (.w4, e.arrival), (.w4, e.remaining)]

/-- One island of the READ QUEUE data (07 R133). -/
def islandQueueData (s : State) (i : Fin 4) : List Byte :=
  writeItems
    [(.w4, reserved s i), opt1 ((candidate s i).map fun e => stationNumber e.station),
     opt1 ((candidate s i).map fun e => e.consumer.val), (.w1, flagCode (activePresent s i))]

/-- A station on the present list (07 R120, R136): in STARTING and UNCONFIGURED none is. -/
def stationListed (s : State) (x : Fin 12) : Bool := s.operating && s.conf.stations[x]

/-- One station of the READ QUEUE data. -/
def stationData (s : State) (x : Fin 12) : List Byte :=
  let r := s.line.stations[x]
  writeItems [(.w1, flagCode (stationListed s x)), (.w1, r.state.code), (.w2, r.miss)] ++
  four.flatMap fun c =>
    writeItems
      [opt1 (r.answers[c].map fun p => p.answer.code),
       (.w1, orAbsent .w1 (r.answers[c].map fun p => flagCode p.delivered))]

/-- The READ QUEUE data. -/
def queueData (s : State) : List Byte :=
  writeItems [(.w2, s.resv.queue.length), (.w4, s.resv.counter)] ++ s.resv.queue.flatMap (entryData s) ++
  writeField .w2 (islands s).length ++ (islands s).flatMap (islandQueueData s) ++ twelve.flatMap (stationData s)

/-- READ QUEUE at its owner. -/
def readQueue (_ : List Int) (s : State) : State × Reply := (s, .done false (queueData s))

/-! ### READ PROFILES (08 R151) -/

/-- One profile of the READ PROFILES data: the record as the RAM image holds it (10 R168), with FRESH and Working. -/
def profileData (s : State) (p : Fin 8) : List Byte :=
  let r := s.start.ram.profiles[p]
  writeItems [(.w1, flagCode r.present), (.w1, flagCode r.patch), (.w1, flagCode s.prof.fresh[p])] ++
  blockBytes r.initial ++ blockBytes s.prof.working[p] ++ patchListBytes r.patches

/-- A bank as data: the groups, then the sets. -/
def bankData (b : Bank) : List Byte :=
  thirtyTwo.flatMap (fun g => writeItems [(.w1, b.groups[g].level), (.w4, b.groups[g].load)]) ++
  eight.flatMap (fun g => writeItems [(.w1, (b.sets[g].mode).code), (.w4, b.sets[g].base)])

/-- The READ PROFILES data. -/
def profilesData (s : State) : List Byte :=
  writeField .w2 s.prof.stack.length ++ s.prof.stack.flatMap (fun p => writeField .w1 p.val) ++
  writeItems [opt1 (s.prof.entry.map fun e => e.command.code), opt1 (s.prof.entry.map fun e => e.target.val)] ++
  eight.flatMap (profileData s) ++ bankData s.prof.active

/-- READ PROFILES at its owner. -/
def readProfiles (_ : List Int) (s : State) : State × Reply := (s, .done false (profilesData s))

/-! ### READ STATE (09 R164) -/

/-- The store status (10 R169): WRITING 0, STORED 1, FAILED 2, and absent while there has been no store (10 R166,
11 R172). -/
def storeStatus (s : State) : Option Nat :=
  if s.start.storeOp.isSome then some 0
  else
    match s.start.lastStore with
    | none => none
    | some .stored => some 1
    | some .failed => some 2

/-- VIN or VREF as data: valid in SETTLED alone (02 R37). -/
def voltData (s : State) (c : VoltChan) : List Byte :=
  let v := decide (s.scan.selector = .settled)
  writeItems [opt4 (if v then some c.volt else none), opt1 (if v then some c.live.code else none)]

/-- The Scanner's part of READ STATE (02 R33, R38). -/
def scanData (s : State) : List Byte :=
  four.flatMap (fun x => writeField .w4 s.scan.sect[x].volt) ++
  writeItems
    [(.w1, s.scan.selector.code), opt4 (fIn s), opt4 (fRef s), (.w4, orAbsent .w4 (slipOf s)),
     (.w4, orAbsent .w4 s.scan.phi)] ++
  voltData s s.scan.vin ++ voltData s s.scan.vref

/-- The object's number, and its kind: CONNECT 0, TIE 1. -/
def SyncObj.number : SyncObj → Nat
  | .set g => g.val
  | .tie t => t.val

/-- See `SyncObj.number`. -/
def SyncObj.kind : SyncObj → Nat
  | .set _ => 0
  | .tie _ => 1

/-- The Synchroniser's part of READ STATE (04 R63): stage, request record, sync offset, last abort cause. PRESUMED (log 25):
in IDLE both locks are absent with the request record, and not NOT_HELD. -/
def syncData (s : State) : List Byte :=
  let r := s.sync.req
  let code (f : SyncReq → Int) : Width × Int := (.w1, orAbsent .w1 (r.map f))
  writeItems
    [(.w1, ((r.map fun r => r.stage.code).getD 0 : Nat)), code fun r => r.obj.kind, code fun r => r.obj.number,
     code fun r => r.obj.code, code fun r => r.origin.code, code fun r => r.refSect.val,
     opt1 ((r.bind fun r => r.inSect).map Fin.val), opt1 ((r.bind fun r => r.inIsland).map Fin.val),
     code fun r => flagCode r.ringClose, code fun r => flagCode r.deadBus, code fun r => lockCode r.coarse,
     (.w2, orAbsent .w2 (r.map fun r => (r.qual : Int))), (.w2, orAbsent .w2 (r.map fun r => (r.ringQual : Int))),
     code fun r => lockCode r.fine, (.w4, orAbsent .w4 (r.bind fun r => r.prev)), (.w4, s.sync.offset),
     opt1 (s.sync.lastAbort.map fun c => c.code)]

/-- The Shed Controller's part of READ STATE (06 R100), for one island number. -/
def dwellData (s : State) (i : Fin 4) : List Byte :=
  let d := s.shed.dwell[i]
  writeItems
    [(.w1, d.state.code), opt1 (d.kind.map DwellKind.code), (.w4, d.remaining), (.w1, flagCode s.shed.restore[i].isSome),
     (.w4, ((s.shed.restore[i].getD 0 : Nat) : Int)), opt1 ((restoreCandidate s i).map Fin.val)]

/-- The Link Interface's part of READ STATE (09 R164). PRESUMED (log 25): the supervision mode is coded as its notice's value,
SUPERVISED 1, and each queue's number of notices is followed by its own OVERFLOW mark, Link A first. -/
def linkData (s : State) : List Byte :=
  let one (x : LinkRt) : List Byte := writeItems [(.w1, flagCode x.active), opt4 x.timer]
  let queue (x : LinkRt) : List Byte := writeItems [(.w2, x.notices.length), (.w1, flagCode x.overflow)]
  let j := s.link.joint
  one s.link.a ++ one s.link.b ++
  writeItems
    [(.w1, flagCode s.supervised), opt1 (j.map fun j => j.cmd.code), (.w2, orAbsent .w2 (j.map fun j => (j.tag : Int))),
     opt1 (j.map fun j => j.origin.code), opt4 (j.map fun j => j.window)] ++
  queue s.link.a ++ queue s.link.b ++ writeField .w4 s.link.clock

/-- The READ STATE data. -/
def stateData (s : State) : List Byte :=
  writeItems [(.w1, s.start.op.code), opt1 (storeStatus s)] ++ scanData s ++ syncData s ++ four.flatMap (dwellData s) ++
  linkData s

/-- READ STATE at its owner. -/
def readState (_ : List Int) (s : State) : State × Reply := (s, .done false (stateData s))

end Sys2Proof.Machine
end

