-- ==== Sys2Proof/Machine/Sharing.lean ====
section
/-! DEFINITION. The Sharing Engine (03): the sharing pass, unloads, their timers and the UNLOAD command. -/

namespace Sys2Proof.Machine

/-- The role of an online set in a pass (03 R43). -/
inductive Role where
  | share
  | base
  | held
  deriving DecidableEq, Repr

/-- A set's role from its state, mode, reading and unload stage (03 R43). -/
def roleOf (s : State) (g : Fin 8) : Role :=
  if s.scan.kw[g].validity ≠ .valid then .held
  else if s.plant.sets[g].state = .unloading ∧ s.share.sets[g].unload = .opening then .held
  else
    match s.prof.active.sets[g].mode with
    | .share => .share
    | .base => .base
    | .hold => .held

/-- A share set's effective rating: floor(rating × k / N) (03 R44). -/
def effRating (s : State) (n : Nat) (g : Fin 8) : Nat := s.conf.sets[g].rating * s.share.sets[g].k / n

/-- A base set's base target (03 R44). -/
def baseTarget (s : State) (n : Nat) (g : Fin 8) : Nat :=
  if s.plant.sets[g].state = .unloading then s.prof.active.sets[g].base * s.share.sets[g].k / n
  else s.prof.active.sets[g].base

/-- What stages 1 to 7 find for an island: the pool Lp, the proportional rating Rp, whether it has a share set, and
the frequency error. -/
structure Figures where
  pool : Nat
  prop : Nat
  hasShare : Bool
  ferr : Int
  deriving DecidableEq, Repr

/-- f_target of island `i` (03 R47, R53): nominal, plus the sync offset for the incoming island of a tie sync. -/
def freqTarget (s : State) (i : Fin 4) : Int :=
  (s.conf.general.nominal : Int) +
  match s.sync.req with
  | some r => if r.inIsland = some i then s.sync.offset else 0
  | none => 0

/-- The frequency error of an island (03 R47): 0 where its frequency is invalid. -/
def freqError (s : State) (i : Fin 4) (freq : Option Nat) : Int :=
  match freq with
  | some f => clamp (-2000) 2000 (freqTarget s i - (f : Int))
  | none => 0

/-- Stages 2 to 4 and 7 of the pass (03 R45, R47), on the online sets `on`. -/
def figures (s : State) (i : Fin 4) (freq : Option Nat) (on : List (Fin 8)) : Figures :=
  let n := (settings s).rampN
  let shares := on.filter fun g => decide (roleOf s g = .share)
  let load := (on.map (reading s)).sum
  let lb := ((on.filter fun g => decide (roleOf s g = .base)).map (baseTarget s n)).sum
  let lh := ((on.filter fun g => decide (roleOf s g = .held)).map (reading s)).sum
  { pool := load - lb - lh, prop := (shares.map (effRating s n)).sum, hasShare := !shares.isEmpty,
    ferr := freqError s i freq }

/-- The target of a share set: floor(Lp × eff / Rp) (03 R45); where Rp is 0 it is a free value (log 37). -/
def shareTarget (s : State) (f : Figures) (g : Fin 8) : Nat :=
  if f.prop = 0 then Config.targetOfNoRating f.pool else f.pool * effRating s (settings s).rampN g / f.prop

/-- The scaled load error (03 R46): (target − P) × 1000 / rating, truncated, clamped to −1000 to +1000. -/
def scaledError (s : State) (target : Nat) (g : Fin 8) : Int :=
  clamp (-1000) 1000 ((((target : Int) - (reading s g : Int)) * 1000).tdiv (s.conf.sets[g].rating : Int))

/-- The step of a set (03 R48), `none` for a held set. -/
def stepOf (s : State) (f : Figures) (g : Fin 8) : Option Int :=
  let w := settings s
  let lim (x : Int) : Int := clamp (-(w.smax : Int)) w.smax (x.tdiv 64)
  match roleOf s g with
  | .share => some (lim (w.gl * scaledError s (shareTarget s f g) g + w.gf * f.ferr))
  | .base =>
    let e := scaledError s (baseTarget s w.rampN g) g
    some (if f.hasShare then lim (w.gl * e) else lim (w.gl * e + w.gf * f.ferr))
  | .held => none

/-- SATURATED after a step to `b` that stayed inside the bounds (03 R49): a bias equal to the bound at which the flag
was set leaves it. -/
def Sat.after (b : Int) : Sat → Sat
  | .clear => .clear
  | .atMax => if b = 1000 then .atMax else .clear
  | .atMin => if b = -1000 then .atMin else .clear

/-- Stage 9 (03 R49): the step applied, with the SATURATED flag and its notice. -/
def applyStep (g : Fin 8) (step : Int) (s : State) : State :=
  let r := s.share.sets[g]
  let b := r.bias + step
  if 1000 < b then
    let s1 := updShare g (fun r => { r with bias := 1000, sat := .atMax }) s
    if r.sat = .clear then notify .biasSaturated (some g.val) (some 1000) s1 else s1
  else if b < -1000 then
    let s1 := updShare g (fun r => { r with bias := -1000, sat := .atMin }) s
    if r.sat = .clear then notify .biasSaturated (some g.val) (some (-1000)) s1 else s1
  else updShare g (fun r => { r with bias := b, sat := r.sat.after b }) s

/-- Stage 10 (03 R50): a set's ramp counter after the pass. -/
def rampNext (s : State) (n : Nat) (g : Fin 8) : Nat :=
  let k := s.share.sets[g].k
  match s.plant.sets[g].state, s.share.sets[g].unload with
  | .unloading, .ramping => k - 1
  | .unloading, .opening => k
  | .unloading, .none => k
  | .offline, _ => k
  | .incoming, _ => k
  | .tripped, _ => k
  | .online, _ =>
    match s.prof.active.sets[g].mode with
    | .share => if s.scan.kw[g].validity = .valid then (if k < n then k + 1 else n) else k
    | .base => n
    | .hold => n

/-- The sharing pass of island `i` (03 R43 to R50). A vacant or DEAD island has none. The BIAS_SATURATED notices go in
ascending set number (DESIGN CHOICE, log 21). DESIGN CHOICE (log 54): a ramp counter above a lowered N is limited to it in
every online set, one in OPENING too. -/
def passIsland (i : Fin 4) (s : State) : State :=
  match s.plant.accounts[i] with
  | some a =>
    if a.dead then s
    else
      let n := (settings s).rampN
      let on := onlineSets s i
      let s1 := on.foldl (fun t g => updShare g (fun r => { r with k := min r.k n }) t) s
      let f := figures s1 i a.freq on
      let s2 := on.foldl (fun t g => match stepOf s1 f g with | some step => applyStep g step t | none => t) s1
      on.foldl (fun t g => updShare g (fun r => { r with k := rampNext s1 n g }) t) s2
  | none => s

/-- The test that ends a ramp-out (03 R56). -/
def opensNow (s : State) (g : Fin 8) : Bool :=
  decide (s.plant.sets[g].state = .unloading) && decide (s.share.sets[g].unload = .ramping) &&
  (decide (s.share.sets[g].k = 0) ||
    (decide (s.scan.kw[g].validity = .valid) &&
      decide (reading s g ≤ s.conf.sets[g].rating * (settings s).openThr / 1000)))

/-- The opening of an unload (03 R57): GCB-OPEN asserted, pulse and open confirm wait started. -/
def openSet (g : Fin 8) (s : State) : State :=
  updShare g
    (fun r => { r with unload := .opening, openPulse := some s.conf.sync.pulse, openWait := some s.conf.sync.confirm }) s

/-- SHARING_PERIOD_EXPIRY (03 R42): the timer restarts, the pass of every island in ascending number (the order of their
notices is a DESIGN CHOICE, log 21), then the openings. -/
def sharingPass (s : State) : State :=
  let s1 : State := { s with share.period := some (settings s).sharePeriod }
  let s2 := eachIsland four passIsland s1
  eight.foldl (fun t g => if opensNow s2 g then openSet g t else t) s2

/-- SHARING_PERIOD_EXPIRY. -/
def execSharingPeriodExpiry (s : State) : Host.Outcome State Fault Refusal :=
  .next (onExpiry s.share.period s sharingPass)

/-- GCB_OPEN_PULSE_EXPIRY (03 R57): GCB-OPEN is released. -/
def execGcbOpenPulseExpiry (g : Fin 8) (s : State) : Host.Outcome State Fault Refusal :=
  .next (onExpiry s.share.sets[g].openPulse s (updShare g fun r => { r with openPulse := none }))

/-- The failure of an unload (03 R58): ONLINE with k = N, the account recomputed, GCB-OPEN released, UNLOAD_FAILED,
which follows the notices of the account update (log 50). Where the set has left UNLOADING the end is refused and nothing
but the wait ends. DESIGN CHOICE (log 64): a set that RESUME has just made not present ends so too, ONLINE and in no account
until adoption makes it OFFLINE. -/
def unloadFails (g : Fin 8) (s : State) : State :=
  if s.plant.sets[g].state = .unloading then
    let s1 := updateSetIsland s g (toOnline g (settings s).rampN s)
    notify .unloadFailed (some g.val) none (updShare g (fun r => { r with openPulse := none }) s1)
  else updShare g (fun r => { r with openWait := none }) s

/-- OPEN_CONFIRM_WAIT_EXPIRY (03 R58). -/
def execOpenConfirmWaitExpiry (g : Fin 8) (s : State) : Host.Outcome State Fault Refusal :=
  .next (onExpiry s.share.sets[g].openWait s (unloadFails g))

/-- The CAPACITY check (03 R55): the island is not OVER, and C less the set's share covers L + R. -/
def capacityOk (s : State) (g : Fin 8) : Bool :=
  match setIsland s g with
  | some i =>
    match s.plant.accounts[i] with
    | some a => !a.isOver && decide (a.load + a.resv + limited s (settings s).loadLimit g ≤ a.cap)
    | none => false
  | none => false

/-- Another ONLINE set stands in the set's island (03 R55). -/
def otherOnline (s : State) (g : Fin 8) : Bool :=
  match setIsland s g with
  | some i => (capacitySets s i).any fun h => decide (h ≠ g)
  | none => false

/-- UNLOAD at the Sharing Engine (03 R55), its checks in their order. -/
def unloadSet (vs : List Int) (s : State) : State × Reply :=
  match index 8 (arg vs 0) with
  | none => refuse .badField s
  | some g =>
    if ¬ setPresent s g then refuse .notPresent s
    else if ¬ s.running then refuse .wrongState s
    else if s.share.sets[g].unload ≠ .none then (s, .busy)
    else if s.plant.sets[g].state ≠ .online then refuse .notReady s
    else if ¬ otherOnline s g then refuse .lastSet s
    else if ¬ capacityOk s g then refuse .capacity s
    else
      (updateSetIsland s g (updShare g (fun r => { r with unload := .ramping }) (setSetState g .unloading s)), .ok)

end Sys2Proof.Machine
end

