-- ==== Sys2Proof/Machine/Requests.lean ====
section
/-! DEFINITION. The requests of the links (09 R153, R154; 11 R172): the owner of each kind with the widths of its fields,
the search for frames among characters, and the command of each request kind. -/

namespace Sys2Proof.Machine

/-- The owner a request is handed to, by its kind code (11 section 11.2), with the widths of its fields (log 6); a kind
that is not a request kind is refused (09 R153). -/
def requestOwner (l : Link) (kind : Nat) (fields : List Byte) : State → State × Reply :=
  match kind with
  | 1 => withFields [] fields readAccounts
  | 2 => withFields [] fields readSets
  | 3 => withFields [] fields readGroups
  | 4 => withFields [] fields readQueue
  | 5 => withFields [] fields readProfiles
  | 6 => withFields [] fields (readNotices l)
  | 7 => withFields [] fields readState
  | 16 => withFields [.w1, .w1] fields setModeOf
  | 17 => withFields [.w1, .w4] fields setBaseOf
  | 18 => withFields [.w1] fields unloadSet
  | 19 => withFields [.w1] fields clearTripOf
  | 24 => withFields [.w1, .w2] fields (connectSet l)
  | 25 => withFields [.w1, .w2] fields (closeTie l)
  | 26 => withFields [] fields cancelSync
  | 32 => withFields [.w1] fields fun vs => groupCommand (arg vs 0) (shedCommand l)
  | 33 => withFields [.w1] fields fun vs => groupCommand (arg vs 0) restoreCommand
  | 34 => withFields [.w1] fields fun vs => groupCommand (arg vs 0) inhibitCommand
  | 35 => withFields [.w1] fields fun vs => groupCommand (arg vs 0) releaseCommand
  | 36 =>
    withFields [.w1, .w1, .w4] fields fun vs => groupCommand (arg vs 0) (setGroupCommand (arg vs 1) (arg vs 2))
  | 40 => withFields [.w1, .w1] fields cancelReservation
  | 48 => withFields [.w1] fields enterProfile
  | 49 => withFields [.w1] fields pushProfile
  | 50 => withFields [] fields popProfile
  | 51 => withFields [.w1] fields refreshProfile
  | 52 => withFields [.w1, .w4] fields writeSetting
  | 53 => writeProfile fields
  | 56 => loadRecord fields
  | 64 => withFields [.w2] fields (jointRequest l .reset)
  | 65 => withFields [.w2] fields (jointRequest l .hold)
  | 66 => withFields [.w2] fields (jointRequest l .resume)
  | 67 => withFields [.w2] fields (jointRequest l .commit)
  | _ => refuse .unknownKind

/-- The characters, after a start character, up to the one at which its frame is found good or bad: the two length
characters, and with a length in range the frame's own and its CRC (09 R153, 11 R172). -/
def frameEnd : List Byte → Nat
  | hi :: lo :: _ => if lengthOk (hi ++ lo).toNat then (hi ++ lo).toNat + 4 else 2
  | _ => 2

/-- A valid frame's request taken from the frame's characters: length, kind, sequence number, fields, CRC. -/
def takeFrame (l : Link) (frame : List Byte) (s : State) : State :=
  match frame.drop 2 with
  | kind :: seq :: rest =>
    takeRequest l kind.toNat seq (requestOwner l kind.toNat (rest.take (rest.length - 2))) s
  | _ => s

/-- The search for frames among characters that arrived outside one (09 R153), the first `skip` of them being a frame
already taken. A start character opens a frame: one that its characters do not complete is being gathered, with a new
frame timer (log 24); one that they make valid is taken, and the search goes on after it; one that they discard ends, and
the search goes on after its start character. -/
def searchFrames (l : Link) (skip : Nat) (cs : List Byte) (s : State) : State :=
  match cs with
  | [] => updLink l (fun x => { x with frame := none }) s
  | c :: rest =>
    match skip with
    | n + 1 => searchFrames l n rest s
    | 0 =>
      if c = 0xA5#8 then
        match gathered (rest.take (frameEnd rest)) with
        | some .incomplete => updLink l (fun x => { x with frame := some Config.frameTime }) s
        | some .valid => searchFrames l (frameEnd rest) rest (takeFrame l (rest.take (frameEnd rest)) s)
        | some .discarded => searchFrames l 0 rest s
        | none => searchFrames l 0 rest s
      else searchFrames l 0 rest s

/-- A frame discarded (09 R153): the search goes on among the characters that followed its start character. -/
def discardFrame (l : Link) (following : List Byte) (s : State) : State := searchFrames l 0 following s

/-- FRAME_TIMER_EXPIRY (09 R153): the frame is not complete. A complete frame's timer has no such event (log 5). -/
def execFrameTimerExpiry (l : Link) (following : List Byte) (s : State) : Host.Outcome State Fault Refusal :=
  .next
    (if gathered following = some .incomplete then onExpiry (s.link.get l).frame s (discardFrame l following) else s)

/-- FRAME_DISCARDED (09 R153): a length out of range or a CRC that does not match. With no frame being gathered, or
where the characters pass both tests, there is no such event (log 5). -/
def execFrameDiscarded (l : Link) (following : List Byte) (s : State) : Host.Outcome State Fault Refusal :=
  .next
    (if (s.link.get l).frame.isSome ∧ gathered following = some .discarded then discardFrame l following s else s)

/-- A request frame of a kind with these field characters (11 R172). Its CRC matches (log 5). Of a length in range it is
valid; any other is discarded at its second length character, and the search goes on in the characters it goes on to
send. -/
def requestFrame (l : Link) (kind : Nat) (seq : Byte) (fields : List Byte) (s : State) : State :=
  if lengthOk (fields.length + 2) then takeRequest l kind seq (requestOwner l kind fields) s
  else if s.started then searchFrames l 0 (0xA5#8 :: requestChars (BitVec.ofNat 8 kind) seq fields) s
  else s

/-- READ_ACCOUNTS (01 R24). -/
def execReadAccounts (l : Link) (seq : Byte) (fields : List Byte) (s : State) : Host.Outcome State Fault Refusal :=
  .next (requestFrame l 1 seq fields s)

/-- READ_SETS (01 R24). -/
def execReadSets (l : Link) (seq : Byte) (fields : List Byte) (s : State) : Host.Outcome State Fault Refusal :=
  .next (requestFrame l 2 seq fields s)

/-- READ_GROUPS (05 R99). -/
def execReadGroups (l : Link) (seq : Byte) (fields : List Byte) (s : State) : Host.Outcome State Fault Refusal :=
  .next (requestFrame l 3 seq fields s)

/-- READ_QUEUE (07 R136). -/
def execReadQueue (l : Link) (seq : Byte) (fields : List Byte) (s : State) : Host.Outcome State Fault Refusal :=
  .next (requestFrame l 4 seq fields s)

/-- READ_PROFILES (08 R151). -/
def execReadProfiles (l : Link) (seq : Byte) (fields : List Byte) (s : State) : Host.Outcome State Fault Refusal :=
  .next (requestFrame l 5 seq fields s)

/-- READ_NOTICES (09 R162). -/
def execReadNotices (l : Link) (seq : Byte) (fields : List Byte) (s : State) : Host.Outcome State Fault Refusal :=
  .next (requestFrame l 6 seq fields s)

/-- READ_STATE (09 R164). -/
def execReadState (l : Link) (seq : Byte) (fields : List Byte) (s : State) : Host.Outcome State Fault Refusal :=
  .next (requestFrame l 7 seq fields s)

/-- SET_MODE (01 R5). -/
def execSetMode (l : Link) (seq : Byte) (fields : List Byte) (s : State) : Host.Outcome State Fault Refusal :=
  .next (requestFrame l 16 seq fields s)

/-- SET_BASE_POINT (01 R5). -/
def execSetBasePoint (l : Link) (seq : Byte) (fields : List Byte) (s : State) : Host.Outcome State Fault Refusal :=
  .next (requestFrame l 17 seq fields s)

/-- UNLOAD (03 R55). -/
def execUnload (l : Link) (seq : Byte) (fields : List Byte) (s : State) : Host.Outcome State Fault Refusal :=
  .next (requestFrame l 18 seq fields s)

/-- CLEAR_TRIP (01 R11). -/
def execClearTrip (l : Link) (seq : Byte) (fields : List Byte) (s : State) : Host.Outcome State Fault Refusal :=
  .next (requestFrame l 19 seq fields s)

/-- CONNECT_SET (04 R65). -/
def execConnectSet (l : Link) (seq : Byte) (fields : List Byte) (s : State) : Host.Outcome State Fault Refusal :=
  .next (requestFrame l 24 seq fields s)

/-- CLOSE_TIE (04 R66). -/
def execCloseTie (l : Link) (seq : Byte) (fields : List Byte) (s : State) : Host.Outcome State Fault Refusal :=
  .next (requestFrame l 25 seq fields s)

/-- CANCEL_SYNC (04 R67). -/
def execCancelSync (l : Link) (seq : Byte) (fields : List Byte) (s : State) : Host.Outcome State Fault Refusal :=
  .next (requestFrame l 26 seq fields s)

/-- SHED (05 R91). -/
def execShed (l : Link) (seq : Byte) (fields : List Byte) (s : State) : Host.Outcome State Fault Refusal :=
  .next (requestFrame l 32 seq fields s)

/-- RESTORE (05 R92). -/
def execRestore (l : Link) (seq : Byte) (fields : List Byte) (s : State) : Host.Outcome State Fault Refusal :=
  .next (requestFrame l 33 seq fields s)

/-- INHIBIT (05 R93). -/
def execInhibit (l : Link) (seq : Byte) (fields : List Byte) (s : State) : Host.Outcome State Fault Refusal :=
  .next (requestFrame l 34 seq fields s)

/-- RELEASE_INHIBIT (05 R93). -/
def execReleaseInhibit (l : Link) (seq : Byte) (fields : List Byte) (s : State) : Host.Outcome State Fault Refusal :=
  .next (requestFrame l 35 seq fields s)

/-- SET_GROUP (05 R94). -/
def execSetGroup (l : Link) (seq : Byte) (fields : List Byte) (s : State) : Host.Outcome State Fault Refusal :=
  .next (requestFrame l 36 seq fields s)

/-- CANCEL_RESERVATION (07 R131). -/
def execCancelReservation (l : Link) (seq : Byte) (fields : List Byte) (s : State) : Host.Outcome State Fault Refusal :=
  .next (requestFrame l 40 seq fields s)

/-- ENTER (08 R141). -/
def execEnter (l : Link) (seq : Byte) (fields : List Byte) (s : State) : Host.Outcome State Fault Refusal :=
  .next (requestFrame l 48 seq fields s)

/-- PUSH (08 R141). -/
def execPush (l : Link) (seq : Byte) (fields : List Byte) (s : State) : Host.Outcome State Fault Refusal :=
  .next (requestFrame l 49 seq fields s)

/-- POP (08 R141). -/
def execPop (l : Link) (seq : Byte) (fields : List Byte) (s : State) : Host.Outcome State Fault Refusal :=
  .next (requestFrame l 50 seq fields s)

/-- REFRESH (08 R149). -/
def execRefresh (l : Link) (seq : Byte) (fields : List Byte) (s : State) : Host.Outcome State Fault Refusal :=
  .next (requestFrame l 51 seq fields s)

/-- WRITE_SETTING (08 R147). -/
def execWriteSetting (l : Link) (seq : Byte) (fields : List Byte) (s : State) : Host.Outcome State Fault Refusal :=
  .next (requestFrame l 52 seq fields s)

/-- WRITE_PROFILE (08 R148). -/
def execWriteProfile (l : Link) (seq : Byte) (fields : List Byte) (s : State) : Host.Outcome State Fault Refusal :=
  .next (requestFrame l 53 seq fields s)

/-- LOAD_RECORD (10 R168). -/
def execLoadRecord (l : Link) (seq : Byte) (fields : List Byte) (s : State) : Host.Outcome State Fault Refusal :=
  .next (requestFrame l 56 seq fields s)

/-- RESET (09 R158). -/
def execReset (l : Link) (seq : Byte) (fields : List Byte) (s : State) : Host.Outcome State Fault Refusal :=
  .next (requestFrame l 64 seq fields s)

/-- HOLD (10 R170). -/
def execHold (l : Link) (seq : Byte) (fields : List Byte) (s : State) : Host.Outcome State Fault Refusal :=
  .next (requestFrame l 65 seq fields s)

/-- RESUME (10 R170). -/
def execResume (l : Link) (seq : Byte) (fields : List Byte) (s : State) : Host.Outcome State Fault Refusal :=
  .next (requestFrame l 66 seq fields s)

/-- CONFIG_COMMIT (10 R169). -/
def execConfigCommit (l : Link) (seq : Byte) (fields : List Byte) (s : State) : Host.Outcome State Fault Refusal :=
  .next (requestFrame l 67 seq fields s)

end Sys2Proof.Machine
end

