-- ==== Sys2Proof/Machine/Dispatch.lean ====
section
/-! DEFINITION. The effect of each command: one arm per row of the table, each one call of its meaning. -/

namespace Sys2Proof.Machine

/-- The effect of a command on everything but the queue. -/
def exec (i : Instr) (s : State) : Host.Outcome State Fault Refusal :=
  match i with
  | .powerOnReset => Sys2Proof.Machine.execPowerOnReset s
  | .resetLineAsserted => Sys2Proof.Machine.execResetLineAsserted s
  | .resetLineReleased => Sys2Proof.Machine.execResetLineReleased s
  | .imageCheck => Sys2Proof.Machine.execImageCheck s
  | .adoption => Sys2Proof.Machine.execAdoption s
  | .rawInputChange input level => Sys2Proof.Machine.execRawInputChange input level s
  | .filterTimerExpiry input => Sys2Proof.Machine.execFilterTimerExpiry input s
  | .roundTimerExpiry smp => Sys2Proof.Machine.execRoundTimerExpiry smp s
  | .sectionCrossing x time => Sys2Proof.Machine.execSectionCrossing x time s
  | .sectionLossTimerExpiry x => Sys2Proof.Machine.execSectionLossTimerExpiry x s
  | .syncInCrossing time => Sys2Proof.Machine.execSyncInCrossing time s
  | .syncRefCrossing time => Sys2Proof.Machine.execSyncRefCrossing time s
  | .syncLossTimerExpiry side => Sys2Proof.Machine.execSyncLossTimerExpiry side s
  | .sharingPeriodExpiry => Sys2Proof.Machine.execSharingPeriodExpiry s
  | .gcbOpenPulseExpiry g => Sys2Proof.Machine.execGcbOpenPulseExpiry g s
  | .openConfirmWaitExpiry g => Sys2Proof.Machine.execOpenConfirmWaitExpiry g s
  | .selectorSettleExpiry => Sys2Proof.Machine.execSelectorSettleExpiry s
  | .syncPass => Sys2Proof.Machine.execSyncPass s
  | .syncTimeLimitExpiry => Sys2Proof.Machine.execSyncTimeLimitExpiry s
  | .closePulseExpiry => Sys2Proof.Machine.execClosePulseExpiry s
  | .closeConfirmExpiry => Sys2Proof.Machine.execCloseConfirmExpiry s
  | .confirmTimerExpiry g => Sys2Proof.Machine.execConfirmTimerExpiry g s
  | .dwellExpiry isl => Sys2Proof.Machine.execDwellExpiry isl s
  | .restoreDelayExpiry isl => Sys2Proof.Machine.execRestoreDelayExpiry isl s
  | .pollSlotExpiry => Sys2Proof.Machine.execPollSlotExpiry s
  | .pollFrameSent => Sys2Proof.Machine.execPollFrameSent s
  | .replyFrame body => Sys2Proof.Machine.execReplyFrame body s
  | .replyBadAddress => Sys2Proof.Machine.execReplyBadAddress s
  | .replyWindowExpiry => Sys2Proof.Machine.execReplyWindowExpiry s
  | .waitTimerExpiry st c => Sys2Proof.Machine.execWaitTimerExpiry st c s
  | .acceptDeadlineExpiry st c => Sys2Proof.Machine.execAcceptDeadlineExpiry st c s
  | .holdDeadlineExpiry st c => Sys2Proof.Machine.execHoldDeadlineExpiry st c s
  | .profileBuildEnd => Sys2Proof.Machine.execProfileBuildEnd s
  | .storeWriteEnd good => Sys2Proof.Machine.execStoreWriteEnd good s
  | .frameTimerExpiry l following => Sys2Proof.Machine.execFrameTimerExpiry l following s
  | .frameDiscarded l following => Sys2Proof.Machine.execFrameDiscarded l following s
  | .unknownKind l kind seq => Sys2Proof.Machine.execUnknownKind l kind seq s
  | .responseSent l => Sys2Proof.Machine.execResponseSent l s
  | .warmResetBegin => Sys2Proof.Machine.execWarmResetBegin s
  | .linkTimerExpiry l => Sys2Proof.Machine.execLinkTimerExpiry l s
  | .jointWindowExpiry => Sys2Proof.Machine.execJointWindowExpiry s
  | .readAccounts l seq fields => Sys2Proof.Machine.execReadAccounts l seq fields s
  | .readSets l seq fields => Sys2Proof.Machine.execReadSets l seq fields s
  | .readGroups l seq fields => Sys2Proof.Machine.execReadGroups l seq fields s
  | .readQueue l seq fields => Sys2Proof.Machine.execReadQueue l seq fields s
  | .readProfiles l seq fields => Sys2Proof.Machine.execReadProfiles l seq fields s
  | .readNotices l seq fields => Sys2Proof.Machine.execReadNotices l seq fields s
  | .readState l seq fields => Sys2Proof.Machine.execReadState l seq fields s
  | .setMode l seq fields => Sys2Proof.Machine.execSetMode l seq fields s
  | .setBasePoint l seq fields => Sys2Proof.Machine.execSetBasePoint l seq fields s
  | .unload l seq fields => Sys2Proof.Machine.execUnload l seq fields s
  | .clearTrip l seq fields => Sys2Proof.Machine.execClearTrip l seq fields s
  | .connectSet l seq fields => Sys2Proof.Machine.execConnectSet l seq fields s
  | .closeTie l seq fields => Sys2Proof.Machine.execCloseTie l seq fields s
  | .cancelSync l seq fields => Sys2Proof.Machine.execCancelSync l seq fields s
  | .shed l seq fields => Sys2Proof.Machine.execShed l seq fields s
  | .restore l seq fields => Sys2Proof.Machine.execRestore l seq fields s
  | .inhibit l seq fields => Sys2Proof.Machine.execInhibit l seq fields s
  | .releaseInhibit l seq fields => Sys2Proof.Machine.execReleaseInhibit l seq fields s
  | .setGroup l seq fields => Sys2Proof.Machine.execSetGroup l seq fields s
  | .cancelReservation l seq fields => Sys2Proof.Machine.execCancelReservation l seq fields s
  | .enter l seq fields => Sys2Proof.Machine.execEnter l seq fields s
  | .push l seq fields => Sys2Proof.Machine.execPush l seq fields s
  | .pop l seq fields => Sys2Proof.Machine.execPop l seq fields s
  | .refresh l seq fields => Sys2Proof.Machine.execRefresh l seq fields s
  | .writeSetting l seq fields => Sys2Proof.Machine.execWriteSetting l seq fields s
  | .writeProfile l seq fields => Sys2Proof.Machine.execWriteProfile l seq fields s
  | .loadRecord l seq fields => Sys2Proof.Machine.execLoadRecord l seq fields s
  | .reset l seq fields => Sys2Proof.Machine.execReset l seq fields s
  | .hold l seq fields => Sys2Proof.Machine.execHold l seq fields s
  | .resume l seq fields => Sys2Proof.Machine.execResume l seq fields s
  | .configCommit l seq fields => Sys2Proof.Machine.execConfigCommit l seq fields s
  | .startCharacter l => Sys2Proof.Machine.execStartCharacter l s
  | .lossOfPower => Sys2Proof.Machine.execLossOfPower s

end Sys2Proof.Machine
end

