-- ==== Sys2Proof/Safety.lean ====
section
/-! DEFINITION. What the statements speak of: the laws of the manual as predicates of a state, when a request is taken,
and how an answer and a notice reach a link. -/

namespace Sys2Proof.Machine

/-! ### Laws that every step keeps -/

/-- The law of 09 R161: each notice queue holds at most 32 notices. -/
def NoticeLaw (s : State) : Prop :=
  s.link.a.notices.length ≤ Config.noticeCap ∧ s.link.b.notices.length ≤ Config.noticeCap

/-- The law of 03 R41: every bias lies between −1000 and +1000. -/
def BiasLaw (s : State) : Prop := ∀ g : Fin 8, -1000 ≤ s.biasOut g ∧ s.biasOut g ≤ 1000

/-- Every park bias of an image lies in its range (01 R4). -/
def ParksOk (img : Image) : Prop := ∀ g : Fin 8, -1000 ≤ (img.sets[g]).park ∧ (img.sets[g]).park ≤ 1000

/-- Every image the part holds has its park biases in range: those in force, the RAM image, the one being written and
the one in the store. -/
def ImagesOk (s : State) : Prop :=
  ParksOk s.conf ∧ ParksOk s.start.ram ∧ (∀ img, s.start.storeOp = some img → ParksOk img) ∧
  ∀ img, s.start.store = .sound img → ParksOk img

/-- The bias law with what keeps it: a parked bias comes from an image. -/
def BiasInv (s : State) : Prop := BiasLaw s ∧ ImagesOk s

/-- The group states in which a SHED output is asserted (05 R86). -/
def GroupState.isShed : GroupState → Bool
  | .connected => false
  | .inhibited => false
  | .shedPending => true
  | .shed => true
  | .shedFailed => true

/-- The law of 05 R87: in RUNNING a SHED output is asserted exactly while its group is shed. -/
def ShedLaw (s : State) : Prop := s.running = true → ∀ g : Fin 32, s.shedOut g = (s.shed.groups[g].state).isShed

/-- A confirm timer runs in SHED_PENDING only (05 R88, R89). -/
def ConfirmLaw (s : State) : Prop :=
  ∀ g : Fin 32, s.shed.groups[g].confirm.isSome = true → s.shed.groups[g].state = .shedPending

/-- The SHED output law with what keeps it. -/
def ShedInv (s : State) : Prop := ShedLaw s ∧ ConfirmLaw s

/-- The laws of 01 R17 and R18: each island is numbered by its lowest section, and the generation is a number from 0 to
65,535. -/
def PartitionLaw (s : State) : Prop :=
  s.plant.generation ≤ 65535 ∧ ∀ p, s.plant.partition = some p → ∀ x : Fin 4, p[x] ≤ x ∧ p[p[x]] = p[x]

/-- Two entries name one consumer. -/
def Entry.same (e f : Entry) : Prop := e.station = f.station ∧ e.consumer = f.consumer

/-- Two entries are both OFFERED, in one island. -/
def Entry.rivals (s : State) (e f : Entry) : Prop :=
  e.state = .offered ∧ f.state = .offered ∧ e.island s = f.island s

/-- The law of 07 R126: at most 16 entries, no two with the same station and consumer index, and at most one OFFERED
entry per island. -/
def QueueLaw (s : State) : Prop :=
  s.resv.queue.length ≤ Config.queueCap ∧
  s.resv.queue.Pairwise (fun e f => ¬ e.same f) ∧ s.resv.queue.Pairwise (fun e f => ¬ e.rivals s f)

/-- The queue law with what keeps it: no entry is OFFERED while no partition is computed. -/
def QueueInv (s : State) : Prop :=
  QueueLaw s ∧ (s.plant.partition = none → ∀ e ∈ s.resv.queue, e.state ≠ .offered)

/-! ### Values after a reset -/

/-- What both kinds of reset leave (01 R25, 02 R40, 03 R61, 04 R83, 05 R98, 06 R118, 07 R135, 08 R150, 09 R164,
10 R166, R171), from the state `s` before: everything but the biases, the SHED outputs, the power, the RESET line and the
reset kind. The default image in force until the image check is log 9, FRESH clear is log 33, and the group state of
05 R98, none, held as CONNECTED is log 55. -/
def AfterReset (s t : State) : Prop :=
  (t.start.op = .starting ∧ t.start.checked = false ∧ t.start.adopted = false ∧ t.start.storeOp = none ∧
    t.start.lastStore = none ∧ t.start.adoptWait = none ∧
    t.start.store = if s.start.storeOp.isSome then .broken else s.start.store) ∧
  (t.start.ram = Image.default ∧ t.conf = Image.default ∧ (∀ g : Fin 8, t.conf.sets[g].present = false) ∧
    (∀ x : Fin 4, t.conf.sections[x].present = false ∧ t.conf.ties[x].present = false) ∧
    (∀ g : Fin 32, t.conf.groups[g].present = false) ∧ (∀ x : Fin 12, t.conf.stations[x] = false) ∧
    ∀ p : Fin 8, t.conf.profiles[p].present = false) ∧
  (∀ i, getFilter t i = { raw := (getFilter s i).raw, filtered := none, timer := none }) ∧
  (t.plant.partition = none ∧ t.plant.generation = 0 ∧ ∀ i : Fin 4, t.plant.accounts[i] = none ∧ t.plant.freq[i] = none) ∧
  (∀ g : Fin 8, t.plant.sets[g] = { state := .offline, latch := false }) ∧
  (t.scan.round = none ∧ t.scan.selector = .released ∧ t.scan.phi = none ∧ t.scan.converting = false ∧
    t.scan.chanIn = { record := [], freq := none, loss := none } ∧
    t.scan.chanRef = { record := [], freq := none, loss := none } ∧
    t.scan.vin = { volt := 0, live := .uncertain } ∧ t.scan.vref = { volt := 0, live := .uncertain }) ∧
  (∀ g : Fin 8, t.scan.kw[g] = { window := [], validity := .unused, value := 0, overrange := false }) ∧
  (∀ x : Fin 4, t.scan.sect[x] =
    { volt := 0, live := .dead, record := [], value := 0, valid := false, loss := none }) ∧
  (∀ g : Fin 8, t.share.sets[g].k = 0 ∧ t.share.sets[g].sat = .clear ∧ t.share.sets[g].unload = .none ∧
    t.share.sets[g].openWait = none ∧ t.share.sets[g].openPulse = none ∧ t.gcbOpen g = false ∧
    t.gcbClose g = false) ∧
  (t.share.period = none ∧ t.sync.req = none ∧ t.sync.offset = 0 ∧ t.sync.lastAbort = none ∧ t.selector = 15 ∧
    ∀ k : Fin 4, t.tieClose k = false) ∧
  (∀ g : Fin 32, t.shed.groups[g].state = .connected ∧ t.shed.groups[g].cause = none ∧
    t.shed.groups[g].confirm = none) ∧
  (∀ i : Fin 4, t.shed.dwell[i] = { state := .idle, kind := none, remaining := 0 } ∧ t.shed.restore[i] = none ∧
    t.resv.lastWanted[i] = 0) ∧
  (t.resv.queue = [] ∧ t.resv.counter = 1 ∧ t.line.slot = none ∧ t.line.next = none ∧ t.line.current = none ∧
    t.line.poll = none ∧ t.line.window = none) ∧
  (∀ x : Fin 12, t.line.stations[x].state = .unknown ∧ t.line.stations[x].miss = 0 ∧
    ∀ c : Fin 4, (t.line.stations[x]).answers[c] = none) ∧
  (t.prof.stack = [] ∧ t.prof.entry = none) ∧
  (∀ p : Fin 8, t.prof.fresh[p] = false ∧ t.prof.working[p] = Settings.default) ∧
  Settings.default.toList = [200, 32, 16, 40, 25, 900, 1100, 10000, 1500, 2000, 15000, 500, 1, 5000, 120, 50] ∧
  (∀ g : Fin 32, t.prof.active.groups[g] = { level := 0, load := 0 } ∧
    t.prof.standby.groups[g] = { level := 0, load := 0 }) ∧
  (∀ g : Fin 8, t.prof.active.sets[g] = { mode := .share, base := 0 } ∧
    t.prof.standby.sets[g] = { mode := .share, base := 0 }) ∧
  (t.link.clock = 0 ∧ t.link.joint = none ∧ ∀ l, t.link.get l = LinkRt.reset ∧ t.attn l = false) ∧
  t.pending = s.pending

/-- A joint RESET's DONE is being sent on link `l` (09 R158). -/
def SendsReset (l : Link) (s : State) : Prop := ∃ r, (s.link.get l).sending = some r ∧ r.resets = true

/-! ### Requests -/

/-- A request's link, kind, sequence number and field characters, with the widths of its fields where they are fixed. -/
structure RequestForm where
  link : Link
  kind : Nat
  seq : Byte
  fields : List Byte
  widths : Option (List Width)
  deriving DecidableEq, Repr

/-- The requests among the commands (09 section 9.2, 11 section 11.2). -/
def requestForm : Instr → Option RequestForm
  | .readAccounts l q f => some ⟨l, 1, q, f, some []⟩
  | .readSets l q f => some ⟨l, 2, q, f, some []⟩
  | .readGroups l q f => some ⟨l, 3, q, f, some []⟩
  | .readQueue l q f => some ⟨l, 4, q, f, some []⟩
  | .readProfiles l q f => some ⟨l, 5, q, f, some []⟩
  | .readNotices l q f => some ⟨l, 6, q, f, some []⟩
  | .readState l q f => some ⟨l, 7, q, f, some []⟩
  | .setMode l q f => some ⟨l, 16, q, f, some [.w1, .w1]⟩
  | .setBasePoint l q f => some ⟨l, 17, q, f, some [.w1, .w4]⟩
  | .unload l q f => some ⟨l, 18, q, f, some [.w1]⟩
  | .clearTrip l q f => some ⟨l, 19, q, f, some [.w1]⟩
  | .connectSet l q f => some ⟨l, 24, q, f, some [.w1, .w2]⟩
  | .closeTie l q f => some ⟨l, 25, q, f, some [.w1, .w2]⟩
  | .cancelSync l q f => some ⟨l, 26, q, f, some []⟩
  | .shed l q f => some ⟨l, 32, q, f, some [.w1]⟩
  | .restore l q f => some ⟨l, 33, q, f, some [.w1]⟩
  | .inhibit l q f => some ⟨l, 34, q, f, some [.w1]⟩
  | .releaseInhibit l q f => some ⟨l, 35, q, f, some [.w1]⟩
  | .setGroup l q f => some ⟨l, 36, q, f, some [.w1, .w1, .w4]⟩
  | .cancelReservation l q f => some ⟨l, 40, q, f, some [.w1, .w1]⟩
  | .enter l q f => some ⟨l, 48, q, f, some [.w1]⟩
  | .push l q f => some ⟨l, 49, q, f, some [.w1]⟩
  | .pop l q f => some ⟨l, 50, q, f, some []⟩
  | .refresh l q f => some ⟨l, 51, q, f, some [.w1]⟩
  | .writeSetting l q f => some ⟨l, 52, q, f, some [.w1, .w4]⟩
  | .writeProfile l q f => some ⟨l, 53, q, f, none⟩
  | .loadRecord l q f => some ⟨l, 56, q, f, none⟩
  | .reset l q f => some ⟨l, 64, q, f, some [.w2]⟩
  | .hold l q f => some ⟨l, 65, q, f, some [.w2]⟩
  | .resume l q f => some ⟨l, 66, q, f, some [.w2]⟩
  | .configCommit l q f => some ⟨l, 67, q, f, some [.w2]⟩
  | .unknownKind l k q => some ⟨l, k.toNat, q, [], none⟩
  | .powerOnReset | .resetLineAsserted | .resetLineReleased | .imageCheck | .adoption | .rawInputChange _ _
  | .filterTimerExpiry _ | .roundTimerExpiry _ | .sectionCrossing _ _ | .sectionLossTimerExpiry _ | .syncInCrossing _
  | .syncRefCrossing _ | .syncLossTimerExpiry _ | .sharingPeriodExpiry | .gcbOpenPulseExpiry _
  | .openConfirmWaitExpiry _ | .selectorSettleExpiry | .syncPass | .syncTimeLimitExpiry | .closePulseExpiry
  | .closeConfirmExpiry | .confirmTimerExpiry _ | .dwellExpiry _ | .restoreDelayExpiry _ | .pollSlotExpiry
  | .pollFrameSent | .replyFrame _ | .replyBadAddress | .replyWindowExpiry | .waitTimerExpiry _ _
  | .acceptDeadlineExpiry _ _ | .holdDeadlineExpiry _ _ | .profileBuildEnd | .storeWriteEnd _ | .frameTimerExpiry _ _
  | .frameDiscarded _ _ | .responseSent _ | .warmResetBegin | .linkTimerExpiry _ | .jointWindowExpiry
  | .startCharacter _ | .lossOfPower => none

/-- The characters a field of this width takes (11 section 11.1). -/
def Width.chars : Width → Nat
  | .w1 => 1
  | .w2 => 2
  | .w4 => 4

/-- The characters that fields of these widths take. -/
def widthSum (ws : List Width) : Nat := (ws.map Width.chars).sum

/-- The Link Interface takes requests of link `l` (09 R152, R154): it has started, and fewer than four responses
wait. -/
def Takes (l : Link) (s : State) : Prop :=
  s.started = true ∧ (s.link.get l).waiting.length < Config.responseCap

/-- The response to a request put on its link. -/
def answerTo (l : Link) (kind : Nat) (seq : Byte) (r : Reply) (s : State) : State := respond l (r.response kind seq) s

/-- A request answered with no effect but that of its frame on liveness (09 R156) and its response. -/
def turnedAway (l : Link) (kind : Nat) (seq : Byte) (r : Reply) (s : State) : State :=
  answerTo l kind seq r (validFrame l s)

/-! ### Notices -/

/-- From `s` to `t` no notice was sent and none removed. -/
def Quiet (s t : State) : Prop :=
  t.link.a.notices = s.link.a.notices ∧ t.link.b.notices = s.link.b.notices ∧
  t.link.a.overflow = s.link.a.overflow ∧ t.link.b.overflow = s.link.b.overflow

/-- From `s` to `t` the notice `n` was sent, and after it perhaps others. -/
def Sends (n : Notice) (s t : State) : Prop :=
  (∃ more, t.link.a.notices = (s.link.a.append n).notices ++ more) ∧
  ∃ more, t.link.b.notices = (s.link.b.append n).notices ++ more

/-- From `s` to `t` the notices `ns` were sent, one after another, and no others. -/
def Delivers (ns : List Notice) (s t : State) : Prop :=
  ∀ l : Link,
    let q := ns.foldl (fun x n => x.append n) (s.link.get l)
    (t.link.get l).notices = q.notices ∧ (t.link.get l).overflow = q.overflow

/-- The notices of a scan round that went from `s` to `t` (02 R30 to R32, R35, R36), created in `s`: of each set's reading,
then of each section's frequency, in ascending number (that order is log 21). -/
def roundSends (s t : State) : List Notice :=
  (eight.flatMap fun g =>
    let c : KwChan := s.scan.kw[g]
    let d : KwChan := t.scan.kw[g]
    (if c.validity ≠ .invalid ∧ d.validity = .invalid then
      [newNotice .readingInvalid (some g.val) (some (d.value : Int)) s]
    else if c.validity = .invalid ∧ d.validity = .valid then
      [newNotice .readingValid (some g.val) (some (d.value : Int)) s]
    else []) ++
    if c.overrange = false ∧ d.overrange = true then
      [newNotice .readingOverrange (some g.val) (some ((s.conf.sets[g]).fs : Int)) s]
    else []) ++
  four.flatMap fun x =>
    let c : SectChan := s.scan.sect[x]
    let d : SectChan := t.scan.sect[x]
    if c.valid = true ∧ d.valid = false then [newNotice .freqInvalid (some x.val) (some 3) s]
    else if c.valid = false ∧ d.valid = true then [newNotice .freqValid (some x.val) (some (d.value : Int)) s]
    else []

/-- The notice `n` stands in each queue that has dropped none. -/
def Sent (n : Notice) (t : State) : Prop := ∀ l : Link, (t.link.get l).overflow = false → n ∈ (t.link.get l).notices

/-! ### The partition -/

/-- Tie `k` joins the sections `x` and `y` (01 R16): the tie and both sections are present, they are its two ends in the
ring, and its filtered TIE-STATUS is CLOSED. -/
def TieJoins (s : State) (k x y : Fin 4) : Prop :=
  s.conf.ties[k].present = true ∧ s.conf.sections[x].present = true ∧ s.conf.sections[y].present = true ∧
  (x = k ∧ y = k + 1 ∨ y = k ∧ x = k + 1) ∧ s.plant.tie[k].filtered = some true

/-- `p` is the island partition (01 R17): two sections have one island number exactly where a chain of joining ties connects
them, and the number is the lowest section so connected. -/
def PartitionOf (s : State) (p : Vector (Fin 4) 4) : Prop :=
  let linked := Relation.ReflTransGen fun x y => ∃ k, TieJoins s k x y
  ∀ x : Fin 4, linked x p[x] ∧ (∀ y, linked x y → p[x] ≤ y) ∧ ∀ y : Fin 4, p[x] = p[y] ↔ linked x y

/-! ### Accounts -/

/-- The account of island `i` as 01 R20 to R22 compute it from the state, but for SHORTFALL, which is the Shed
Controller's. -/
def AccountOf (s : State) (i : Fin 4) (a : Account) : Prop :=
  let w := settings s
  let here (g : Fin 8) : Bool := setPresent s g && decide (setIsland s g = some i)
  let full := eight.filter fun g => here g && decide (s.plant.sets[g].state = .online)
  let source (x : Fin 4) : Prop := s.scan.sect[x].live = .live ∧ (s.plant.freq[x]).isSome = true
  a.sections = four.filter (fun x => decide (islandOf s x = some i)) ∧
  a.online = eight.filter (fun g =>
    here g && (decide (s.plant.sets[g].state = .online) || decide (s.plant.sets[g].state = .unloading))) ∧
  a.load = (a.online.map fun g => s.scan.kw[g].value).sum ∧
  a.cap = (full.map fun g => (s.conf.sets[g]).rating * w.loadLimit / 1000).sum ∧
  a.fast = (full.map fun g => (s.conf.sets[g]).rating * w.fastLimit / 1000).sum ∧
  a.resv = ((s.resv.queue.filter fun e =>
    decide (e.state ≠ .waiting) && decide (islandOf s e.sect = some i)).map (·.kw)).sum ∧
  a.spare = (a.cap : Int) - (a.load : Int) - (a.resv : Int) ∧
  (candidate s i = none → a.wanted = 0) ∧
  (∀ e, candidate s i = some e → (a.wanted : Int) = max 0 ((e.kw : Int) - a.spare)) ∧
  (∀ f, a.freq = some f ↔
    ∃ x ∈ a.sections, source x ∧ s.plant.freq[x] = some f ∧ ∀ y ∈ a.sections, y < x → ¬ source y) ∧
  (a.degraded = true ↔ ∃ g ∈ a.online, s.scan.kw[g].validity = .invalid) ∧
  (a.isOver = true ↔
    a.cap < a.load ∨ ∃ f, a.freq = some f ∧ (f : Int) < (s.conf.general.nominal : Int) - (w.underOffset : Int)) ∧
  (a.allBase = true ↔ a.online ≠ [] ∧
    ∀ g ∈ a.online, ¬ (s.prof.active.sets[g].mode = .share ∧ s.scan.kw[g].validity = .valid)) ∧
  (a.dead = true ↔ a.online = [])

/-! ### Account updates -/

/-- What an account update and all it hands on (01 R23) leave alone: the inputs, the partition and the generation, the
readings, the request of the Synchroniser, the biases and GCB-OPEN pulses, the stations and the polling, the profiles,
the operating state, the image, and of a link all but its notices. -/
def UpdateFrame (s t : State) : Prop :=
  (∀ i, getFilter t i = getFilter s i) ∧
  (t.plant.partition = s.plant.partition ∧ t.plant.generation = s.plant.generation ∧ t.plant.freq = s.plant.freq) ∧
  (∀ g : Fin 8, t.plant.sets[g].latch = s.plant.sets[g].latch) ∧
  (t.scan = s.scan ∧ t.sync = s.sync ∧ t.prof = s.prof ∧ t.start = s.start ∧ t.conf = s.conf) ∧
  (∀ g : Fin 8, t.biasOut g = s.biasOut g ∧ t.gcbOpen g = s.gcbOpen g ∧ t.share.sets[g].sat = s.share.sets[g].sat) ∧
  t.share.period = s.share.period ∧
  (t.line.slot = s.line.slot ∧ t.line.next = s.line.next ∧ t.line.current = s.line.current ∧
    t.line.poll = s.line.poll ∧ t.line.window = s.line.window) ∧
  (∀ x : Fin 12, t.line.stations[x].state = s.line.stations[x].state ∧ t.line.stations[x].miss = s.line.stations[x].miss) ∧
  (∀ l, (t.link.get l).active = (s.link.get l).active ∧ (t.link.get l).timer = (s.link.get l).timer ∧
    (t.link.get l).sending = (s.link.get l).sending ∧ (t.link.get l).waiting = (s.link.get l).waiting ∧
    (t.link.get l).frame = (s.link.get l).frame) ∧
  t.link.clock = s.link.clock ∧ t.link.joint = s.link.joint ∧ t.pending = s.pending

/-- In `s` the entry of station `x` and consumer `c` leaves the queue with the answer `a`, every other entry standing as it
stood (07 R131); `t` is what the account update of the island of its section `y` makes of that. -/
def Leaves (x : Fin 12) (c : Fin 4) (y : Fin 4) (a : Answer) (s t : State) : Prop :=
  ∃ u : State,
    u.resv = { s.resv with queue := s.resv.queue.filter fun e => decide (¬ (e.station = x ∧ e.consumer = c)) } ∧
    u.line.stations = upd s.line.stations x (fun r =>
      { r with answers := put r.answers c (some { answer := a, delivered := false }) }) ∧
    (u.plant = s.plant ∧ u.scan = s.scan ∧ u.share = s.share ∧ u.sync = s.sync ∧ u.shed = s.shed ∧ u.prof = s.prof ∧
      u.start = s.start ∧ u.conf = s.conf) ∧
    (islandOf s y = none → t = u) ∧ ∀ i, islandOf s y = some i → t = accountUpdate false s [i] u

/-- In `s` the reservations become `r` and the answer `a` is pending for consumer `c` of station `x`, everything else standing
(07 R127, R130); `t` is what the account update of the island of section `y` makes of that. -/
def Reserves (r : Resv) (x : Fin 12) (c : Fin 4) (y : Fin 4) (a : Answer) (s t : State) : Prop :=
  let u : State :=
    { s with
      resv := r,
      line.stations := upd s.line.stations x fun z =>
        { z with answers := put z.answers c (some { answer := a, delivered := false }) } }
  (islandOf s y = none → t = u) ∧ ∀ i, islandOf s y = some i → t = accountUpdate false s [i] u

/-- The characters `cs` of the answer `a` to consumer `c` in a poll frame (11 section 11.3), where `e` is the consumer's
entry as the frame is sent: the code in bits 7 to 4 and the consumer index in bits 1 to 0, then the fields of an OFFER (kW,
accept time in ms), an ACTIVE (hold time in whole seconds) and a REFUSED (reason), and none of the others. -/
def AnswerChars (c : Fin 4) (e : Option Entry) (a : Answer) (cs : List Byte) : Prop :=
  let head (code : Nat) : Byte := BitVec.ofNat 8 (16 * code + c.val)
  match a with
  | .queued => cs = [head 1]
  | .offer => ∀ x, e = some x → cs = head 2 :: (writeField .w2 x.kw ++ writeField .w2 x.remaining)
  | .withdrawn => cs = [head 3]
  | .active => ∀ x, e = some x → cs = head 4 :: writeField .w2 ((x.remaining / 1000 : Nat) : Int)
  | .notOffered => cs = [head 5]
  | .notFound => cs = [head 6]
  | .removed => cs = [head 7]
  | .expired => cs = [head 8]
  | .holdEnded => cs = [head 9]
  | .timedOut => cs = [head 10]
  | .held => cs = [head 11]
  | .dropped => cs = [head 12]
  | .refused .full => cs = [head 13, 1]
  | .refused .duplicate => cs = [head 13, 2]
  | .refused .badField => cs = [head 13, 3]
  | .refused .wrongState => cs = [head 13, 4]

/-! ### Settings, patches and image records -/

/-- Every field of a block lies in its range (08 R138). -/
def BlockInRange (b : Settings) : Prop :=
  (100 ≤ b.sharePeriod ∧ b.sharePeriod ≤ 1000) ∧ (b.gl ≤ 255 ∧ b.gf ≤ 255) ∧
  (1 ≤ b.smax ∧ b.smax ≤ 200) ∧ (1 ≤ b.rampN ∧ b.rampN ≤ 64) ∧ (500 ≤ b.loadLimit ∧ b.loadLimit ≤ 1000) ∧
  (1000 ≤ b.fastLimit ∧ b.fastLimit ≤ 1300) ∧ (1000 ≤ b.overDwell ∧ b.overDwell ≤ 60000) ∧
  (200 ≤ b.underOffset ∧ b.underOffset ≤ 5000) ∧ (200 ≤ b.underDwell ∧ b.underDwell ≤ 10000) ∧
  (2000 ≤ b.restoreDelay ∧ b.restoreDelay ≤ 120000) ∧ b.restoreMargin ≤ 5000 ∧
  (1000 ≤ b.acceptTime ∧ b.acceptTime ≤ 30000) ∧ (10 ≤ b.waitLimit ∧ b.waitLimit ≤ 900) ∧ b.openThr ≤ 200

/-- A block is consistent (08 R138): every field in its range, the sharing period a multiple of 50, and the underfrequency
dwell at most the overload dwell. -/
def ConsistentBlock (b : Settings) : Prop :=
  BlockInRange b ∧ b.sharePeriod % 50 = 0 ∧ b.underDwell ≤ b.overDwell

/-- Every field of an image lies in the range its own rule gives it (01 R1, R4, 02 R33, R35, 04 R64, 05 R84, 08 R137,
R138, 09 R152, 11 section 11.5). -/
def ImageInRange (img : Image) : Prop :=
  let g := img.general
  let y := img.sync
  ((g.nominal = 50000 ∨ g.nominal = 60000) ∧ (20 ≤ g.breakerFilter ∧ g.breakerFilter ≤ 500) ∧
    (5 ≤ g.tripFilter ∧ g.tripFilter ≤ 100) ∧ (20 ≤ g.confirmFilter ∧ g.confirmFilter ≤ 500) ∧
    (500 ≤ g.liveThr ∧ g.liveThr ≤ 950) ∧ (50 ≤ g.deadThr ∧ g.deadThr ≤ 400) ∧ (30 ≤ g.lossTime ∧ g.lossTime ≤ 300) ∧
    (100 ≤ g.confirmTime ∧ g.confirmTime ≤ 5000) ∧ (500 ≤ g.linkTimeout ∧ g.linkTimeout ≤ 10000) ∧
    (1000 ≤ g.agreeWindow ∧ g.agreeWindow ≤ 5000)) ∧
  (∀ j : Fin 8,
    let c := img.sets[j]
    (500 ≤ c.rating ∧ c.rating ≤ 20000) ∧ (500 ≤ c.fs ∧ c.fs ≤ 25000) ∧ -1000 ≤ c.park ∧ c.park ≤ 1000) ∧
  ((50 ≤ y.settle ∧ y.settle ≤ 1000) ∧ (10 ≤ y.limit ∧ y.limit ≤ 300) ∧ (0 ≤ y.slipTarget ∧ y.slipTarget ≤ 200) ∧
    (10 ≤ y.slipWindow ∧ y.slipWindow ≤ 500) ∧ (10 ≤ y.voltWindow ∧ y.voltWindow ≤ 100) ∧
    (0 ≤ y.gain ∧ y.gain ≤ 255) ∧ (1 ≤ y.qualPasses ∧ y.qualPasses ≤ 10) ∧
    (1 ≤ y.phaseWindow ∧ y.phaseWindow ≤ 30) ∧ (20 ≤ y.tClose ∧ y.tClose ≤ 500) ∧ (100 ≤ y.pulse ∧ y.pulse ≤ 1000) ∧
    (200 ≤ y.confirm ∧ y.confirm ≤ 3000)) ∧
  (∀ j : Fin 32, (img.base.groups[j]).level ≤ 7 ∧ (img.base.groups[j]).load ≤ 20000) ∧
  (∀ j : Fin 8, (img.base.sets[j]).base ≤ 20000) ∧
  ∀ p : Fin 8, BlockInRange (img.profiles[p]).initial ∧
    (∀ first es, Patch.groups first es ∈ (img.profiles[p]).patches →
      first ≤ 31 ∧ ∀ e ∈ es, e.level ≤ 7 ∧ e.load ≤ 20000) ∧
    ∀ first es, Patch.sets first es ∈ (img.profiles[p]).patches → first ≤ 7 ∧ ∀ e ∈ es, e.base ≤ 20000

/-- The image passes check `n` of 10 R167; there are six. -/
def PassesCheck (img : Image) : Nat → Prop
  | 1 => ImageInRange img
  | 2 => (img.general.deadThr : Int) < (img.general.liveThr : Int) - 50
  | 3 => ∀ j : Fin 8, (img.base.sets[j]).base ≤ (img.sets[j]).rating
  | 4 => (img.profiles[img.general.initialProfile]).present = true
  | 5 => ∀ p : Fin 8, (img.profiles[p]).present = true → ConsistentBlock (img.profiles[p]).initial
  | 6 => ∀ p : Fin 8, (img.profiles[p]).present = true → (img.profiles[p]).patch = true →
      (applyPatches (tab (fun _ c => c.rating) img.sets) 1 (img.profiles[p]).patches img.base).2 = none
  | _ => True

/-- How a settings field is made ready for WRITE SETTING (08 R147) beside the two dwells held, how a carried block is made
ready for WRITE PROFILE (08 R148), and how LOAD RECORD clamps one (10 R168; that it truncates the sharing period is log
59). -/
def FieldsMadeReady : Prop :=
  (∀ overload under v : Int,
    readyField 0 overload under v = clamp 100 1000 (v.tdiv 50 * 50) ∧ readyField 1 overload under v = clamp 0 255 v ∧
    readyField 2 overload under v = clamp 0 255 v ∧ readyField 3 overload under v = clamp 1 200 v ∧
    readyField 4 overload under v = clamp 1 64 v ∧ readyField 5 overload under v = clamp 500 1000 v ∧
    readyField 6 overload under v = clamp 1000 1300 v ∧ readyField 7 overload under v = clamp (max 1000 under) 60000 v ∧
    readyField 8 overload under v = clamp 200 5000 v ∧ readyField 9 overload under v = clamp 200 (min 10000 overload) v ∧
    readyField 10 overload under v = clamp 2000 120000 v ∧ readyField 11 overload under v = clamp 0 5000 v ∧
    readyField 12 overload under v = clamp 0 1 v ∧ readyField 13 overload under v = clamp 1000 30000 v ∧
    readyField 14 overload under v = clamp 10 900 v ∧ readyField 15 overload under v = clamp 0 200 v) ∧
  ∀ v0 v1 v2 v3 v4 v5 v6 v7 v8 v9 v10 v11 v12 v13 v14 v15 : Int,
    let block (overload under : Int) : List Int :=
      [clamp 100 1000 (v0.tdiv 50 * 50), clamp 0 255 v1, clamp 0 255 v2, clamp 1 200 v3, clamp 1 64 v4,
       clamp 500 1000 v5, clamp 1000 1300 v6, overload, clamp 200 5000 v8, under, clamp 2000 120000 v10,
       clamp 0 5000 v11, clamp 0 1 v12, clamp 1000 30000 v13, clamp 10 900 v14, clamp 0 200 v15]
    let carried := [v0, v1, v2, v3, v4, v5, v6, v7, v8, v9, v10, v11, v12, v13, v14, v15]
    let overload := clamp (max 1000 v9) 60000 v7
    readyBlock carried = block overload (clamp 200 (min 10000 overload) v9) ∧
    clampBlock carried = block (clamp 1000 60000 v7) (clamp 200 10000 v9)

/-- How the patches of a profile go into a bank (08 R142): in order from patch number `n`, to the first of count 0 or the
first invalid one, whose number is found; each valid one writes its entries at consecutive indices. -/
def PatchesApply : Prop :=
  (∀ (ratings : Vector Nat 8) (n : Nat) (b : Bank), applyPatches ratings n [] b = (b, none)) ∧
  (∀ (ratings : Vector Nat 8) (n : Nat) (q : Patch) (qs : List Patch) (b : Bank),
    (q.count = 0 → applyPatches ratings n (q :: qs) b = (b, none)) ∧
    (q.count ≠ 0 → applyPatch ratings b q = none → applyPatches ratings n (q :: qs) b = (b, some n)) ∧
    ∀ b', q.count ≠ 0 → applyPatch ratings b q = some b' →
      applyPatches ratings n (q :: qs) b = applyPatches ratings (n + 1) qs b') ∧
  (∀ (ratings : Vector Nat 8) (b : Bank) (first : Nat) (es : List GroupBank),
    let valid : Prop := first + es.length ≤ 32 ∧ ∀ e ∈ es, e.level ≤ 7 ∧ e.load ≤ 20000
    (¬ valid → applyPatch ratings b (.groups first es) = none) ∧
    (valid → ∃ b', applyPatch ratings b (.groups first es) = some b' ∧ b'.sets = b.sets ∧
      ∀ g : Fin 32, b'.groups[g] = if first ≤ g.val then es.getD (g.val - first) b.groups[g] else b.groups[g])) ∧
  ∀ (ratings : Vector Nat 8) (b : Bank) (first : Nat) (es : List SetBank),
    let valid : Prop := first + es.length ≤ 8 ∧
      ∀ (k : Nat) (g : Fin 8) (e : SetBank), es[k]? = some e → g.val = first + k → e.base ≤ ratings[g]
    (¬ valid → applyPatch ratings b (.sets first es) = none) ∧
    (valid → ∃ b', applyPatch ratings b (.sets first es) = some b' ∧ b'.groups = b.groups ∧
      ∀ g : Fin 8, b'.sets[g] = if first ≤ g.val then es.getD (g.val - first) b.sets[g] else b.sets[g])

/-- What LOAD RECORD writes of each record kind (11 section 11.5, 10 R168) with each field clamped to its range, and the
values it then holds; the kind of a settings block is 10 and its clamping that of `FieldsMadeReady`. An index, a section, an
initial profile or a confirm input outside its numbering is no record. The codes of the flags are log 25's, and that a patch
list is refused and made ready as WRITE PROFILE does is log 63. -/
def RecordsLoad : Prop :=
  (∀ (img : Image) (nom bf tf cf lv dd ls ct lt aw : Int) (p : Fin 8),
    let n : Int := if nom < 55000 then 50000 else 60000
    loadFixed img 0 0 [nom, bf, tf, cf, lv, dd, ls, ct, lt, aw, p.val] = some
      ({ img with
          general :=
            { nominal := n.toNat, breakerFilter := (clamp 20 500 bf).toNat, tripFilter := (clamp 5 100 tf).toNat,
              confirmFilter := (clamp 20 500 cf).toNat, liveThr := (clamp 500 950 lv).toNat,
              deadThr := (clamp 50 400 dd).toNat, lossTime := (clamp 30 300 ls).toNat,
              confirmTime := (clamp 100 5000 ct).toNat, linkTimeout := (clamp 500 10000 lt).toNat,
              agreeWindow := (clamp 1000 5000 aw).toNat, initialProfile := p } },
       [n, clamp 20 500 bf, clamp 5 100 tf, clamp 20 500 cf, clamp 500 950 lv, clamp 50 400 dd, clamp 30 300 ls,
        clamp 100 5000 ct, clamp 500 10000 lt, clamp 1000 5000 aw, p.val])) ∧
  (∀ (img : Image) (g : Fin 8) (here : Bool) (x : Fin 4) (rating fs park : Int) (sense : TripSense),
    loadFixed img 1 g.val [(if here then 1 else 0 : Int), (x.val : Int), rating, fs, park, if sense = .level then 1 else 0] = some
      ({ img with
          sets := put img.sets g
            { present := here, sect := x, rating := (clamp 500 20000 rating).toNat, fs := (clamp 500 25000 fs).toNat,
              park := clamp (-1000) 1000 park, sense := sense } },
       [(if here then 1 else 0 : Int), (x.val : Int), clamp 500 20000 rating, clamp 500 25000 fs, clamp (-1000) 1000 park,
        if sense = .level then 1 else 0])) ∧
  (∀ (img : Image) (x : Fin 4) (here dead : Bool),
    let vs : List Int := [if here then 1 else 0, if dead then 1 else 0]
    loadFixed img 2 x.val vs =
      some ({ img with sections := put img.sections x { present := here, deadClose := dead } }, vs) ∧
    loadFixed img 3 x.val vs = some ({ img with ties := put img.ties x { present := here, deadClose := dead } }, vs)) ∧
  (∀ (img : Image) (g : Fin 32) (here : Bool) (x : Fin 4),
    loadFixed img 4 g.val [(if here then 1 else 0 : Int), (x.val : Int), 255] =
      some ({ img with groups := put img.groups g { present := here, sect := x, confirm := none } },
        [(if here then 1 else 0 : Int), (x.val : Int), 255]) ∧
    ∀ c : Fin 16, loadFixed img 4 g.val [(if here then 1 else 0 : Int), (x.val : Int), (c.val : Int)] =
      some ({ img with groups := put img.groups g { present := here, sect := x, confirm := some c } },
        [(if here then 1 else 0 : Int), (x.val : Int), (c.val : Int)])) ∧
  (∀ (img : Image) (st li tg sw vw gs qp pw tc pl cf : Int) (ce fe : Edges),
    let code (e : Edges) : Int := match e with
      | .none => 0
      | .rise => 1
      | .fall => 2
      | .both => 3
    loadFixed img 5 0 [st, li, tg, sw, vw, gs, qp, pw, tc, pl, cf, code ce, code fe] = some
      ({ img with
          sync :=
            { settle := (clamp 50 1000 st).toNat, limit := (clamp 10 300 li).toNat, slipTarget := clamp 0 200 tg,
              slipWindow := clamp 10 500 sw, voltWindow := clamp 10 100 vw, gain := clamp 0 255 gs,
              qualPasses := (clamp 1 10 qp).toNat, phaseWindow := clamp 1 30 pw, tClose := clamp 20 500 tc,
              pulse := (clamp 100 1000 pl).toNat, confirm := (clamp 200 3000 cf).toNat, coarseEdges := ce,
              fineEdges := fe } },
       [clamp 50 1000 st, clamp 10 300 li, clamp 0 200 tg, clamp 10 500 sw, clamp 10 100 vw, clamp 0 255 gs,
        clamp 1 10 qp, clamp 1 30 pw, clamp 20 500 tc, clamp 100 1000 pl, clamp 200 3000 cf, code ce, code fe])) ∧
  (∀ (img : Image) (here : Vector Bool 12),
    let vs : List Int := here.toList.map fun b => if b then 1 else 0
    loadFixed img 6 0 vs = some ({ img with stations := here }, vs)) ∧
  (∀ (img : Image) (g : Fin 32) (level load : Int),
    loadFixed img 7 g.val [level, load] = some
      ({ img with
          base.groups := put img.base.groups g { level := (clamp 0 7 level).toNat, load := (clamp 0 20000 load).toNat } },
       [clamp 0 7 level, clamp 0 20000 load])) ∧
  (∀ (img : Image) (g : Fin 8) (m : Mode) (base : Int),
    let code : Int := match m with
      | .share => 0
      | .base => 1
      | .hold => 2
    loadFixed img 8 g.val [code, base] = some
      ({ img with base.sets := put img.base.sets g { mode := m, base := (clamp 0 20000 base).toNat } },
       [code, clamp 0 20000 base])) ∧
  (∀ (img : Image) (p : Fin 8) (here patch : Bool),
    let vs : List Int := [if here then 1 else 0, if patch then 1 else 0]
    loadFixed img 9 p.val vs =
      some ({ img with profiles := upd img.profiles p fun r => { r with present := here, patch := patch } }, vs)) ∧
  (∀ (img : Image) (idx : Int) (vs : List Int),
    (idx ≠ 0 → loadFixed img 0 idx vs = none ∧ loadFixed img 5 idx vs = none ∧ loadFixed img 6 idx vs = none) ∧
    (4 ≤ idx → loadFixed img 2 idx vs = none ∧ loadFixed img 3 idx vs = none) ∧
    (8 ≤ idx → loadFixed img 1 idx vs = none ∧ loadFixed img 8 idx vs = none ∧ loadFixed img 9 idx vs = none ∧
      loadFixed img 10 idx vs = none) ∧
    (32 ≤ idx → loadFixed img 4 idx vs = none ∧ loadFixed img 7 idx vs = none)) ∧
  (∀ (img : Image) (idx : Int),
    (∀ nom bf tf cf lv dd ls ct lt aw p : Int, 8 ≤ p →
      loadFixed img 0 idx [nom, bf, tf, cf, lv, dd, ls, ct, lt, aw, p] = none) ∧
    (∀ here x rating fs park sense : Int, 4 ≤ x → loadFixed img 1 idx [here, x, rating, fs, park, sense] = none) ∧
    ∀ here x c : Int, (4 ≤ x ∨ 16 ≤ c ∧ c ≠ 255) → loadFixed img 4 idx [here, x, c] = none) ∧
  (∀ (img : Image) (kind idx : Byte) (cs : List Byte), 12 ≤ kind.toNat → loadRecordOf img (kind :: idx :: cs) = none) ∧
  (∀ (img : Image) (kind idx : Byte) (cs : List Byte) (ws : List Width) (vs : List Int),
    kind.toNat ≤ 10 → recordWidths kind.toNat = some ws → readFields ws cs = some vs →
      loadRecordOf img (kind :: idx :: cs) =
        (loadFixed img kind.toNat idx.toNat vs).map fun r =>
          (r.1, writeItems (ws.zip r.2), decide (r.2 ≠ vs))) ∧
  ∀ (img : Image) (idx : Byte) (cs : List Byte) (ps : List RawPatch), readPatchList cs = some ps →
    tablesKnown ps = true →
    let refused : Prop := 8 < ps.length ∨ 48 < (ps.map fun q => q.entries.length).sum ∨ (∃ q ∈ ps, 32 < q.count) ∨
      ∃ fore q after, ps = fore ++ q :: after ∧ after ≠ [] ∧ q.count = 0
    ((8 ≤ idx.toNat ∨ refused) → loadRecordOf img (0x0B#8 :: idx :: cs) = none) ∧
    ∀ p : Fin 8, idx.toNat = p.val → ¬ refused →
      let qs := ps.map fun q => (readyPatch q).1
      loadRecordOf img (0x0B#8 :: idx :: cs) =
        some ({ img with profiles := upd img.profiles p fun r => { r with patches := qs } }, patchListBytes qs,
          ps.any fun q => (readyPatch q).2)

end Sys2Proof.Machine
end

