-- ==== Sys2Proof/Certificates/Slice0/Obligations.lean ====
section
/-! DEFINITION. The statements for the provers, from the numbered rules of the manual. -/

section

open Sys2Proof Sys2Proof.Machine

/-! ### The machine -/

/-- A step takes the command at the front of the queue and runs it on the state with the queue's rest (the block form of
the task; log 1). -/
def Obligations.StepTakesFrontCommand : Prop :=
  ∀ (c : Instr) (rest : List Instr) (s : State), s.pending = c :: rest → step s = exec c { s with pending := rest }

/-- On an empty queue a step lets one ms pass (the model's choice, log 2): with power and out of reset every running
timer loses one ms, one at 0 staying there (log 3), and the notice clock gains one; nothing else changes. The timers are
those of the filters, of the round and the loss times, of the sharing period, the openings and their pulses, of the request,
the confirm times, dwells and restore delays, of the entries, the poll slot and the reply window, of the links and their
frames, and the agreement window. A FROZEN dwell timer does not count. -/
def Obligations.IdleStepPassesOneMs : Prop :=
  ∀ s : State, s.pending = [] →
    let less (x : Timer) : Timer := x.map (· - 1)
    let filter (f : Filter) : Filter := { f with timer := less f.timer }
    let link (x : LinkRt) : LinkRt := { x with timer := less x.timer, frame := less x.frame }
    (s.alive = false → step s = .next s) ∧
    (s.alive = true → step s = .next
      { s with
        plant.gcb := tab (fun _ => filter) s.plant.gcb,
        plant.ready := tab (fun _ => filter) s.plant.ready,
        plant.trip := tab (fun _ => filter) s.plant.trip,
        plant.tie := tab (fun _ => filter) s.plant.tie,
        plant.confirm := tab (fun _ => filter) s.plant.confirm,
        scan.round := less s.scan.round,
        scan.sect := tab (fun _ x => { x with loss := less x.loss }) s.scan.sect,
        scan.chanIn.loss := less s.scan.chanIn.loss,
        scan.chanRef.loss := less s.scan.chanRef.loss,
        share.period := less s.share.period,
        share.sets := tab
          (fun _ x => { x with openWait := less x.openWait, openPulse := less x.openPulse }) s.share.sets,
        sync.req := s.sync.req.map fun r =>
          { r with settle := less r.settle, limit := less r.limit, pass := less r.pass, pulse := less r.pulse,
                   confirm := less r.confirm },
        shed.groups := tab (fun _ x => { x with confirm := less x.confirm }) s.shed.groups,
        shed.dwell := tab
          (fun _ d => if d.state = .running then { d with remaining := d.remaining - 1 } else d) s.shed.dwell,
        shed.restore := tab (fun _ => less) s.shed.restore,
        resv.queue := s.resv.queue.map fun e => { e with remaining := e.remaining - 1 },
        line.slot := less s.line.slot,
        line.window := less s.line.window,
        link.a := link s.link.a,
        link.b := link s.link.b,
        link.clock := (s.link.clock + 1) % 4294967296,
        link.joint := s.link.joint.map fun j => { j with window := j.window - 1 } })

/-! ### Resets and start-up (10) -/

/-- A power-on reset: every value after reset, every SHED output released, every bias 0. That the raw input levels and the
RESET line stand is the model's choice (log 7), and so is the command queue it keeps (log 1); the default image in force
until the image check is log 9, FRESH clear log 33, and the group state CONNECTED before adoption log 55. -/
def Obligations.PowerOnResetValues : Prop :=
  ∀ s : State, ∃ t, exec .powerOnReset s = .next t ∧ AfterReset s t ∧ t.start.power = true ∧ t.start.kind = .powerOn ∧
    t.start.resetLine = s.start.resetLine ∧ (∀ g : Fin 32, t.shedOut g = false) ∧ ∀ g : Fin 8, t.biasOut g = 0

/-- A warm reset, by the RESET line or at the end of the DONE of a joint RESET: every value after reset, and every SHED
output and every bias keeps its level. The release of the RESET line changes the line alone; the line held asserted, or
without power, resets nothing again (the model's reading of the line, logs 11 and 12). That the raw input levels stand is
log 7, that both WARM_RESET_BEGIN and the end of the DONE begin the reset is log 23, and the values of logs 1, 9, 33 and 55
are the model's after either kind of reset. -/
def Obligations.WarmResetKeepsSheddingAndBiases : Prop :=
  (∀ (c : Instr) (k : ResetKind) (s : State),
     (c = .resetLineAsserted ∧ k = .resetLine ∧ s.start.power = true ∧ s.start.resetLine = false ∨
       c = .warmResetBegin ∧ k = .jointReset ∧ (∃ l, SendsReset l s) ∨
       (∃ l, c = .responseSent l ∧ k = .jointReset ∧ SendsReset l s)) →
     ∃ t, exec c s = .next t ∧ AfterReset s t ∧ t.start.kind = k ∧ t.start.power = true ∧
       t.start.resetLine = (if c = .resetLineAsserted then true else s.start.resetLine) ∧
       (∀ g : Fin 32, t.shedOut g = s.shedOut g) ∧ ∀ g : Fin 8, t.biasOut g = s.biasOut g) ∧
  (∀ s : State, exec .resetLineReleased s = .next { s with start.resetLine := false }) ∧
  (∀ s : State, s.start.resetLine = true → exec .resetLineAsserted s = .next s) ∧
  ∀ s : State, s.start.resetLine = false → s.start.power = false →
    exec .resetLineAsserted s = .next { s with start.resetLine := true }

/-- A loss of power cuts a store write in flight, which leaves an image whose CRC does not match; without one the store
stays as it was. The entry in flight is abandoned, and nothing runs (what else holds without power is log 10). -/
def Obligations.LossOfPowerCutsStoreWrite : Prop :=
  ∀ s : State, ∃ t, exec .lossOfPower s = .next t ∧ t.start.power = false ∧ t.alive = false ∧
    t.start.storeOp = none ∧ t.prof.entry = none ∧
    (s.start.storeOp.isSome = true → t.start.store = .broken) ∧
    (s.start.storeOp = none → t.start.store = s.start.store)

/-- The image check. A store whose CRC matches: the blocks are initialised from it, the filters, the round timer and the
loss timers start, the initial entry is in flight, STARTED is sent, and the outputs keep their levels. One whose CRC does
not match: the default image, the default filter times, UNCONFIGURED at once with STATE_CHANGED 1 after STARTED, and no
adoption awaited where none was. The fields of the default image without a default are log 9. -/
def Obligations.ImageCheckOutcomes : Prop :=
  (∀ (img : Image) (s : State), s.alive = true → s.start.op = .starting → s.start.checked = false →
     s.start.store = .sound img →
     ∃ t, exec .imageCheck s = .next t ∧
       t.conf = img ∧ t.start.ram = img ∧ t.start.checked = true ∧ t.start.op = .starting ∧
       t.start.adoptWait = some 1 ∧
       (∀ i, getFilter t i = { getFilter s i with timer := some (filterTime img.general i) }) ∧
       t.scan.round = some 20 ∧
       (∀ g : Fin 8, t.scan.kw[g] = freshKw (setPresent t g)) ∧
       (∀ x : Fin 4, t.scan.sect[x] = freshSect (sectPresent t x) (some img.general.lossTime)) ∧
       (∀ p : Fin 8, t.prof.fresh[p] = true) ∧ t.prof.active = img.base ∧ t.prof.stack = [] ∧
       (∃ e, t.prof.entry = some e ∧ e.command = .initial ∧ e.target = img.general.initialProfile) ∧
       Sends (newNotice .started none (some (s.start.kind.code : Int)) s) s t ∧
       t.share = s.share ∧ t.shed = s.shed ∧ t.sync = s.sync ∧ t.resv = s.resv ∧ t.line = s.line) ∧
  ∀ s : State, s.alive = true → s.start.op = .starting → s.start.checked = false → s.start.store = .broken →
    s.start.adoptWait = none →
    ∃ t, exec .imageCheck s = .next t ∧
      t.conf = Image.default ∧ t.start.ram = Image.default ∧ t.start.checked = true ∧ t.start.op = .unconfigured ∧
      t.start.adoptWait = none ∧
      (∀ i, getFilter t i = { getFilter s i with timer := some (filterTime Image.default.general i) }) ∧
      t.scan.round = some 20 ∧
      Sends (newNotice .started none (some (s.start.kind.code : Int)) s) s t ∧
      Delivers
        [newNotice .started none (some (s.start.kind.code : Int)) s, newNotice .stateChanged none (some 1) s] s t ∧
      t.share = s.share ∧ t.shed = s.shed ∧ t.prof = s.prof

/-- Adoption, with `p` the state once the partition is adopted: RUNNING; each present set's state from its latch and
breaker, but for the three kinds that RESUME keeps; ONLINE sets keep their bias level with k = N, OFFLINE and TRIPPED ones
are parked, sets not present are at 0, an INCOMING one that is kept has k = 0 and the rest of its sharing record, and an
UNLOADING one all of it; each group is taken from its SHED output; every station is UNKNOWN, and the poll slots start at the
lowest station of the present list with 25 ms, or do not run without one; STATE_CHANGED is sent. An adoption is due once it
is awaited with no scan round still to come, no entry is in flight and one has completed, and every filtered input is
settled; one that is not due does nothing. RESUME keeps a TRIPPED set, an INCOMING one whose request is in CLOSE, and an
UNLOADING one in OPENING. The model's own: the round completions an adoption waits for and the command that comes too early
(log 13), the polling and the slot it abandons (logs 15 and 16), the group's presence (log 36), the first partition after
UNCONFIGURED (log 45), and STATE_CHANGED after the notices of `p` (log 51). -/
def Obligations.AdoptionTakesThePlant : Prop :=
  (∀ s : State,
    (adoptReady s = true ↔
      s.start.adoptWait = some 0 ∧ s.prof.entry = none ∧ s.prof.stack ≠ [] ∧
        ∀ i : PlantInput, (getFilter s i).filtered ≠ none) ∧
    (adoptReady s = false → exec .adoption s = .next s)) ∧
  (∀ (s : State) (g : Fin 8), keepsState s g = true ↔
    s.start.op = .held ∧
      (s.plant.sets[g].state = .tripped ∨
        (s.plant.sets[g].state = .incoming ∧ ∃ r, s.sync.req = some r ∧ r.obj = .set g ∧ r.stage = .close) ∨
        (s.plant.sets[g].state = .unloading ∧ s.share.sets[g].unload = .opening))) ∧
  ∀ s : State, adoptReady s = true →
    let p := adoptPartition s
    ∃ t, exec .adoption s = .next t ∧
      t.start.op = .running ∧ t.start.adopted = true ∧ t.start.adoptWait = none ∧
      t.plant.partition = some (computePartition s) ∧
      (∀ g : Fin 8, setPresent p g = false →
        t.plant.sets[g] = { state := .offline, latch := false } ∧ t.biasOut g = 0 ∧ t.share.sets[g].k = 0) ∧
      (∀ g : Fin 8, setPresent p g = true → keepsState p g = true → t.plant.sets[g] = p.plant.sets[g]) ∧
      (∀ g : Fin 8, setPresent p g = true → keepsState p g = false →
        t.plant.sets[g].latch = p.plant.sets[g].latch ∧
        t.plant.sets[g].state =
          if p.plant.sets[g].latch then .tripped
          else if p.plant.gcb[g].filtered = some true then .online else .offline) ∧
      (∀ g : Fin 8, setPresent p g = true → t.plant.sets[g].state = .online →
        t.biasOut g = p.biasOut g ∧ t.share.sets[g].k = (settings p).rampN ∧ t.share.sets[g].sat = .clear ∧
          t.share.sets[g].unload = .none) ∧
      (∀ g : Fin 8, setPresent p g = true →
        (t.plant.sets[g].state = .offline ∨ t.plant.sets[g].state = .tripped) →
        t.biasOut g = (p.conf.sets[g]).park ∧ t.share.sets[g].k = 0 ∧ t.share.sets[g].sat = .clear) ∧
      (∀ g : Fin 8, setPresent p g = true → t.plant.sets[g].state = .incoming →
        t.share.sets[g] = { p.share.sets[g] with k := 0 }) ∧
      (∀ g : Fin 8, setPresent p g = true → t.plant.sets[g].state = .unloading →
        t.share.sets[g] = p.share.sets[g]) ∧
      (∀ g : Fin 32, groupPresent t g = true → p.shedOut g = true →
        t.shed.groups[g] = { state := .shed, cause := some .adopted, confirm := none, out := true }) ∧
      (∀ g : Fin 32, (groupPresent t g = false ∨ p.shedOut g = false) →
        t.shed.groups[g] = { state := .connected, cause := none, confirm := none, out := false }) ∧
      t.share.period = some (settings p).sharePeriod ∧
      (∀ x : Fin 12, t.line.stations[x].state = .unknown ∧ t.line.stations[x].miss = 0) ∧
      t.line.next = (listedStations s).head? ∧
      t.line.slot = (if listedStations s = [] then none else some 25) ∧
      t.line.current = none ∧ t.line.poll = none ∧ t.line.window = none ∧
      Sends (newNotice .stateChanged none (some 3) p) p t ∧ t.conf = s.conf

/-! ### Frames, liveness and responses (09) -/

/-- A request reaches no owner before the Link Interface has started, and none while four responses wait on its link: then
it counts for liveness alone. One longer than 300 is discarded at its second length character, with no liveness and no
response: its characters are searched for further frames (the search is that of FramesOpenAndAreDiscarded; log 24), and
those after its start character alone up to a length of 65,535. One of a length in range is handed to the owner of its kind.
One whose field characters do not fit its kind is refused BAD_FIELD (the widths are log 6), and one of an unknown kind
UNKNOWN_KIND, with no other effect than its liveness. -/
def Obligations.RequestsTurnedAwayAtTheLink : Prop :=
  (∀ (c : Instr) (r : RequestForm) (s : State), requestForm c = some r →
     (s.started = false → exec c s = .next s) ∧
     (s.started = true → 300 < r.fields.length + 2 →
       exec c s = .next
         (searchFrames r.link 0 (0xA5#8 :: requestChars (BitVec.ofNat 8 r.kind) r.seq r.fields) s)) ∧
     (s.started = true → 300 < r.fields.length + 2 → r.fields.length + 2 ≤ 65535 →
       exec c s = .next (searchFrames r.link 0 (requestChars (BitVec.ofNat 8 r.kind) r.seq r.fields) s)) ∧
     (r.fields.length + 2 ≤ 300 → (∀ l k q, c ≠ .unknownKind l k q) →
       exec c s = .next (takeRequest r.link r.kind r.seq (requestOwner r.link r.kind r.fields) s)) ∧
     (s.started = true → r.fields.length + 2 ≤ 300 → 4 ≤ (s.link.get r.link).waiting.length →
       exec c s = .next (validFrame r.link s))) ∧
  (∀ (c : Instr) (r : RequestForm) (ws : List Width) (s : State), requestForm c = some r → r.widths = some ws →
     r.fields.length ≠ widthSum ws → r.fields.length + 2 ≤ 300 → Takes r.link s →
     exec c s = .next (turnedAway r.link r.kind r.seq (.refused .badField) s)) ∧
  ∀ (l : Link) (kind seq : Byte) (s : State), Takes l s →
    exec (.unknownKind l kind seq) s = .next (turnedAway l kind.toNat seq (.refused .unknownKind) s)

/-- A valid frame: its link is ACTIVE with its timer started, and its gathering has ended; a link that was SILENT sends
LINK_ACTIVE, followed by SUPERVISION_MODE 1 where both were SILENT. The responses of both links and the other link's
liveness and frame stand, and no block but the Link Interface changes. -/
def Obligations.ValidFrameLiveness : Prop :=
  ∀ (l : Link) (s : State),
    let t := validFrame l s
    (t.link.get l).active = true ∧ (t.link.get l).timer = some s.conf.general.linkTimeout ∧
    (t.link.get l.other).active = (s.link.get l.other).active ∧
    (t.link.get l.other).timer = (s.link.get l.other).timer ∧
    (t.link.get l).frame = none ∧ (t.link.get l.other).frame = (s.link.get l.other).frame ∧
    (∀ m : Link, (t.link.get m).sending = (s.link.get m).sending ∧ (t.link.get m).waiting = (s.link.get m).waiting) ∧
    ((s.link.get l).active = true → Quiet s t) ∧
    ((s.link.get l).active = false → (s.link.get l.other).active = true →
      Delivers [newNotice .linkActive (some l.code) none s] s t) ∧
    ((s.link.get l).active = false → (s.link.get l.other).active = false →
      Delivers [newNotice .linkActive (some l.code) none s, newNotice .supervisionMode none (some 1) s] s t) ∧
    t.plant = s.plant ∧ t.scan = s.scan ∧ t.share = s.share ∧ t.sync = s.sync ∧ t.shed = s.shed ∧ t.resv = s.resv ∧
    t.line = s.line ∧ t.prof = s.prof ∧ t.start = s.start ∧ t.conf = s.conf ∧ t.pending = s.pending ∧
    t.link.clock = s.link.clock ∧ t.link.joint = s.link.joint

/-- Responses of a link are sent in the order they were made: one is sent at once on an idle link and waits behind the
others on a busy one, and at the end of a response the oldest that waits begins. With none being sent there is no such end
(the model's choice, log 4). -/
def Obligations.ResponsesInOrder : Prop :=
  (∀ (l : Link) (r : Response) (s : State), (s.link.get l).sending = none →
    ((respond l r s).link.get l).sending = some r ∧ ((respond l r s).link.get l).waiting = (s.link.get l).waiting) ∧
  (∀ (l : Link) (r q : Response) (s : State), (s.link.get l).sending = some q →
    ((respond l r s).link.get l).sending = some q ∧
    ((respond l r s).link.get l).waiting = (s.link.get l).waiting ++ [r]) ∧
  (∀ (l : Link) (q r : Response) (rs : List Response) (s : State), (s.link.get l).sending = some q →
    q.resets = false → (s.link.get l).waiting = r :: rs →
    exec (.responseSent l) s = .next (updLink l (fun x => { x with sending := some r, waiting := rs }) s)) ∧
  (∀ (l : Link) (q : Response) (s : State), (s.link.get l).sending = some q → q.resets = false →
    (s.link.get l).waiting = [] →
    exec (.responseSent l) s = .next (updLink l (fun x => { x with sending := none }) s)) ∧
  ∀ (l : Link) (s : State), (s.link.get l).sending = none → exec (.responseSent l) s = .next s

/-- A start character outside a frame opens one with 20 ms. A whole frame is valid exactly where its CRC-16 matches, a
request's with a length up to 300 among them; a length out of 2 to 300 discards it at its second length character, and
before its last CRC character it is incomplete. A discard, of a frame discarded so or by the frame timer of an incomplete
one, ends it with no liveness and no response, and searches the characters that followed its start character: those before
the next start character are ignored, and the frame that opens is gathered on with 20 ms where the characters do not complete
it, is taken where they make it valid, the search going on after it, and is discarded where its length or CRC-16 fails, the
search going on after its start character (log 24). Without such characters, or with no frame open, there is no such event
(logs 4 and 5). The frame timer's end is taken after the ms that remained (log 3). -/
def Obligations.FramesOpenAndAreDiscarded : Prop :=
  (∀ (l : Link) (s : State), s.started = true → (s.link.get l).frame = none →
    exec (.startCharacter l) s = .next (updLink l (fun x => { x with frame := some 20 }) s)) ∧
  (∀ (l : Link) (s : State), (s.started = false ∨ (s.link.get l).frame.isSome = true) →
    exec (.startCharacter l) s = .next s) ∧
  (∀ (l : Link) (cs : List Byte) (s : State), (s.link.get l).frame.isSome = true → gathered cs = some .discarded →
    exec (.frameDiscarded l cs) s = .next (searchFrames l 0 cs s)) ∧
  (∀ (l : Link) (cs : List Byte) (r : Nat) (s : State), (s.link.get l).frame = some r →
    gathered cs = some .incomplete →
    exec (.frameTimerExpiry l cs) s = .next (searchFrames l 0 cs (elapse r s))) ∧
  (∀ (l : Link) (pre cs : List Byte) (s : State), 0xA5#8 ∉ pre →
    let found := searchFrames l 0 (pre ++ 0xA5#8 :: cs) s
    searchFrames l 0 pre s = updLink l (fun x => { x with frame := none }) s ∧
    (gathered cs = some .incomplete → found = updLink l (fun x => { x with frame := some 20 }) s) ∧
    (∀ (hi lo : Byte) (rest : List Byte), cs = hi :: lo :: rest →
      ((hi ++ lo).toNat < 2 ∨ 300 < (hi ++ lo).toNat) → found = searchFrames l 0 cs s) ∧
    ∀ (hi lo kind seq : Byte) (fields crc rest : List Byte), cs = hi :: lo :: kind :: seq :: (fields ++ crc ++ rest) →
      (hi ++ lo).toNat = fields.length + 2 → fields.length + 2 ≤ 300 → crc.length = 2 →
      found =
        if crc = crcChars (hi :: lo :: kind :: seq :: fields) then
          searchFrames l 0 rest (takeRequest l kind.toNat seq (requestOwner l kind.toNat fields) s)
        else searchFrames l 0 cs s) ∧
  (∀ (l : Link) (cs : List Byte) (s : State),
    (((s.link.get l).frame = none ∨ gathered cs ≠ some .discarded) → exec (.frameDiscarded l cs) s = .next s) ∧
    (((s.link.get l).frame = none ∨ gathered cs ≠ some .incomplete) → exec (.frameTimerExpiry l cs) s = .next s)) ∧
  (∀ (kind seq : Byte) (fields : List Byte), fields.length + 2 ≤ 300 →
    gathered (requestChars kind seq fields) = some .valid) ∧
  (∀ (hi lo : Byte) (body crc : List Byte), (hi ++ lo).toNat = body.length → 2 ≤ body.length → body.length ≤ 300 →
    crc.length = 2 →
    gathered (hi :: lo :: (body ++ crc)) = some (if crc = crcChars (hi :: lo :: body) then .valid else .discarded)) ∧
  (∀ hi lo : Byte, ((hi ++ lo).toNat < 2 ∨ 300 < (hi ++ lo).toNat) → gathered [hi, lo] = some .discarded) ∧
  ∀ (hi lo : Byte) (rest : List Byte), 2 ≤ (hi ++ lo).toNat → (hi ++ lo).toNat ≤ 300 →
    rest.length < (hi ++ lo).toNat + 2 →
    gathered (hi :: lo :: rest) = some .incomplete ∧ gathered [hi] = some .incomplete ∧ gathered [] = some .incomplete

/-- The expiry of a link timer makes the link SILENT with LINK_SILENT; where the other link is SILENT too the mode becomes
AUTONOMOUS with SUPERVISION_MODE 0, and every restore delay is cancelled. The expiry is taken after the ms that remained
(the model's choice, log 3). -/
def Obligations.LinkTimerExpirySilences : Prop :=
  ∀ (l : Link) (r : Nat) (s : State), (s.link.get l).timer = some r →
    ∃ t, exec (.linkTimerExpiry l) s = .next t ∧
      (t.link.get l).active = false ∧ (t.link.get l).timer = none ∧
      (t.link.get l.other).active = (s.link.get l.other).active ∧
      ((s.link.get l.other).active = true →
        t.shed = (elapse r s).shed ∧
        ∀ m : Link, (t.link.get m).notices =
          ((s.link.get m).append (newNotice .linkSilent (some l.code) none (elapse r s))).notices) ∧
      ((s.link.get l.other).active = false →
        t.supervised = false ∧ (∀ i : Fin 4, t.shed.restore[i] = none) ∧
        t.shed.groups = (elapse r s).shed.groups ∧ t.shed.dwell = (elapse r s).shed.dwell ∧
        ∀ m : Link, (t.link.get m).notices =
          (((s.link.get m).append (newNotice .linkSilent (some l.code) none (elapse r s))).append
            (newNotice .supervisionMode none (some 0) (elapse r s))).notices) ∧
      t.plant = (elapse r s).plant ∧ t.share = (elapse r s).share ∧ t.sync = (elapse r s).sync ∧
      t.resv = (elapse r s).resv ∧ t.prof = s.prof ∧ t.conf = s.conf ∧ t.start = s.start

/-- R163: ATTN-A and ATTN-B are asserted exactly while the notice queue of their link holds a notice; a reset of either
kind releases both, the release of the RESET line leaves them, and STARTED at the start of the Link Interface asserts both.
That WARM_RESET_BEGIN is taken while the DONE of a joint RESET is being sent is log 23. -/
def Obligations.AttnFollowsQueues : Prop :=
  (∀ (l : Link) (s : State), s.attn l = true ↔ (s.link.get l).notices ≠ []) ∧
  (∀ s : State, ∃ t, exec .powerOnReset s = .next t ∧ ∀ l, t.attn l = false) ∧
  (∀ s : State, s.start.power = true → s.start.resetLine = false →
    ∃ t, exec .resetLineAsserted s = .next t ∧ ∀ l, t.attn l = false) ∧
  (∀ (l : Link) (s : State), SendsReset l s → ∃ t, exec .warmResetBegin s = .next t ∧ ∀ m, t.attn m = false) ∧
  (∀ s : State, ∃ t, exec .resetLineReleased s = .next t ∧ t.start.resetLine = false ∧ ∀ l, t.attn l = s.attn l) ∧
  ∀ s : State, s.alive = true → s.start.op = .starting → s.start.checked = false →
    (∀ l, (s.link.get l).notices = []) → ∃ t, exec .imageCheck s = .next t ∧ ∀ l, t.attn l = true

/-- READ NOTICES (R162) removes up to eight of the oldest notices of its own link, returns their number, the notices with
every field, the number left and the OVERFLOW mark as it stood, and clears the mark; the other link's queue is not
changed. The counts of two bytes and the notice records are those of 11 R172 and R174; that the mark is coded 1 or 0 is
log 25 (PRESUMED). -/
def Obligations.ReadNoticesRemovesEight : Prop :=
  ∀ (l : Link) (seq : Byte) (s : State), Takes l s →
    let v := validFrame l s
    let q := (v.link.get l).notices
    let u := updLink l (fun x => { x with notices := q.drop 8, overflow := false }) v
    exec (.readNotices l seq []) s = .next
      (answerTo l 6 seq
        (.done false
          (writeField .w2 (min 8 q.length) ++ (q.take 8).flatMap Notice.bytes ++
            writeField .w2 ((q.length - 8 : Nat) : Int) ++ writeField .w1 (if (v.link.get l).overflow then 1 else 0)))
        u) ∧
    ((answerTo l 6 seq (.done false []) u).link.get l.other).notices = (v.link.get l.other).notices

/-- The other reads are answered DONE in every operating state and change nothing but the liveness of their link and its
responses; their data is that of their rule, from the state as it stands when the command is taken. The items of the data
follow chapter 11, with the codes and groupings it leaves open as log 25 has them (PRESUMED). -/
def Obligations.ReadsChangeNothing : Prop :=
  ∀ (l : Link) (seq : Byte) (s : State), Takes l s →
    let v := validFrame l s
    exec (.readAccounts l seq []) s = .next (answerTo l 1 seq (.done false (accountsData v)) v) ∧
    exec (.readSets l seq []) s = .next (answerTo l 2 seq (.done false (eight.flatMap (setData v))) v) ∧
    exec (.readGroups l seq []) s = .next (answerTo l 3 seq (.done false (groupsData v)) v) ∧
    exec (.readQueue l seq []) s = .next (answerTo l 4 seq (.done false (queueData v)) v) ∧
    exec (.readProfiles l seq []) s = .next (answerTo l 5 seq (.done false (profilesData v)) v) ∧
    exec (.readState l seq []) s = .next (answerTo l 7 seq (.done false (stateData v)) v) ∧
    v.plant = s.plant ∧ v.scan = s.scan ∧ v.share = s.share ∧ v.sync = s.sync ∧ v.shed = s.shed ∧ v.resv = s.resv ∧
    v.line = s.line ∧ v.prof = s.prof ∧ v.start = s.start ∧ v.conf = s.conf

/-! ### Joint commands (09 R158 to R160, 10 R169, R170) -/

/-- A joint request that fails its state check leaves everything as it stands, a pending joint command too: HOLD is
refused WRONG_STATE outside RUNNING and BUSY during an entry, RESUME WRONG_STATE outside HELD or with an invalid RAM image,
CONFIG COMMIT WRONG_STATE in STARTING and BUSY during a store write. One that passes, with none pending and the other link
SILENT, is carried out at once and answered DONE; RESET's DONE is marked, and the warm reset waits for its last
character. -/
def Obligations.JointStateChecks : Prop :=
  (∀ (l : Link) (seq a b : Byte) (s : State), Takes l s →
     (s.running = false → exec (.hold l seq [a, b]) s = .next (turnedAway l 65 seq (.refused .wrongState) s)) ∧
     (s.running = true → s.entering = true → exec (.hold l seq [a, b]) s = .next (turnedAway l 65 seq .busy s)) ∧
     ((s.start.op ≠ .held ∨ s.start.ram.check ≠ none) →
       exec (.resume l seq [a, b]) s = .next (turnedAway l 66 seq (.refused .wrongState) s)) ∧
     (s.start.op = .starting →
       exec (.configCommit l seq [a, b]) s = .next (turnedAway l 67 seq (.refused .wrongState) s)) ∧
     (s.start.op ≠ .starting → s.start.storeOp.isSome = true →
       exec (.configCommit l seq [a, b]) s = .next (turnedAway l 67 seq .busy s))) ∧
  ∀ (l : Link) (seq a b : Byte) (s : State), Takes l s → s.link.joint = none → (s.link.get l.other).active = false →
    let v := validFrame l s
    exec (.reset l seq [a, b]) s = .next (answerTo l 64 seq .resetDone v) ∧
    (s.running = true → s.entering = false → exec (.hold l seq [a, b]) s = .next (answerTo l 65 seq .ok (holdPart v))) ∧
    (s.start.op = .held → s.start.ram.check = none →
      exec (.resume l seq [a, b]) s = .next (answerTo l 66 seq .ok (resumePart v))) ∧
    (s.start.op ≠ .starting → s.start.storeOp = none →
      exec (.configCommit l seq [a, b]) s = .next (answerTo l 67 seq .ok (commit v)))

/-- With the other link ACTIVE and none pending, a joint request that passes its check becomes the pending joint command
and sends JOINT_PENDING. It is carried out by the same command with the same tag from the other link, runs on at a
repetition from its own link, and is cancelled with JOINT_CONFLICT by any other joint request that passes its check, which
is refused CONFLICT. The expiry of the agreement window, taken after the ms that remained (log 3), cancels it with
JOINT_EXPIRED and changes nothing else, of the links their liveness, responses, frames and notice clock included. -/
def Obligations.JointAgreement : Prop :=
  (∀ (l : Link) (c : JointCmd) (tag : Nat) (s : State), jointCheck s c = none → s.link.joint = none →
     (s.link.get l.other).active = true →
     jointRequest l c [(tag : Int)] s =
       (notify .jointPending (some c.code) (some (l.code : Int))
         { s with link.joint := some { cmd := c, tag := tag, origin := l, window := s.conf.general.agreeWindow } },
        .pending)) ∧
  (∀ (l : Link) (c : JointCmd) (tag : Nat) (j : Joint) (s : State), jointCheck s c = none → s.link.joint = some j →
     (j.cmd = c → j.tag = tag → j.origin = l → jointRequest l c [(tag : Int)] s = (s, .pending)) ∧
     (j.cmd = c → j.tag = tag → j.origin ≠ l →
       jointRequest l c [(tag : Int)] s = carryOut c { s with link.joint := none }) ∧
     ((j.cmd ≠ c ∨ j.tag ≠ tag) →
       jointRequest l c [(tag : Int)] s =
         (notify .jointConflict (some j.cmd.code) (some (c.code : Int)) { s with link.joint := none },
          .refused .conflict))) ∧
  ∀ (j : Joint) (s : State), s.link.joint = some j →
    ∃ t, exec .jointWindowExpiry s = .next t ∧ t.link.joint = none ∧
      Delivers [newNotice .jointExpired (some j.cmd.code) (some (j.origin.code : Int)) (elapse j.window s)]
        (elapse j.window s) t ∧
      (∀ m : Link,
        let x := (elapse j.window s).link.get m
        (t.link.get m).active = x.active ∧ (t.link.get m).timer = x.timer ∧ (t.link.get m).sending = x.sending ∧
          (t.link.get m).waiting = x.waiting ∧ (t.link.get m).frame = x.frame) ∧
      t.link.clock = (elapse j.window s).link.clock ∧ t.pending = s.pending ∧
      t.plant = (elapse j.window s).plant ∧ t.scan = (elapse j.window s).scan ∧ t.share = (elapse j.window s).share ∧
      t.sync = (elapse j.window s).sync ∧ t.shed = (elapse j.window s).shed ∧ t.resv = (elapse j.window s).resv ∧
      t.line = (elapse j.window s).line ∧ t.prof = s.prof ∧ t.start = s.start ∧ t.conf = s.conf

/-- HOLD carried out: HELD with STATE_CHANGED 2 ahead of the other blocks' notices (the model's order, log 49); the sharing
period, confirm, dwell and restore timers are cancelled with the group states and SHED outputs as they stand; a RAMPING
unload is aborted with UNLOAD_ABORTED 3; a request before CLOSE is aborted with SYNC_ABORTED 6 and one in CLOSE runs on; only
ACTIVE reservations stay, and each other one has the answer HELD; the biases stand (log 27); polling goes on. RESUME carried out: the blocks hold the RAM image's values;
FRESH is set on every profile, ACTIVE is the base bank and the stack is empty with the initial entry in flight; the
reservation queue is empty and the counter 1, each removed entry of a station still listed having the answer HOLD_ENDED;
every station is UNKNOWN; the poll slots are not started, and those that run
go on over the listed stations (log 15); the operating state waits for adoption (the model's reading, log 14), with two
round completions still to come (log 13). -/
def Obligations.HoldAndResume : Prop :=
  (∀ s : State,
     let t := holdPart s
     t.start.op = .held ∧ Sends (newNotice .stateChanged none (some 2) s) s t ∧ t.share.period = none ∧
     (∀ g : Fin 32, t.shed.groups[g] = { s.shed.groups[g] with confirm := none }) ∧
     (∀ i : Fin 4, t.shed.dwell[i] = Dwell.idle ∧ t.shed.restore[i] = none) ∧
     (∀ g : Fin 8, t.biasOut g = s.biasOut g) ∧
     (∀ g : Fin 8, s.plant.sets[g].state = .unloading → s.share.sets[g].unload = .ramping →
       t.plant.sets[g].state = .online ∧ t.share.sets[g].k = (settings s).rampN ∧ t.share.sets[g].unload = .none ∧
       Sent (newNotice .unloadAborted (some g.val) (some 3) s) t) ∧
     (t.line.slot = s.line.slot ∧ t.line.next = s.line.next ∧ t.line.current = s.line.current ∧
       t.line.poll = s.line.poll ∧ t.line.window = s.line.window) ∧
     (∀ r, s.sync.req = some r → r.stage ≠ .close →
       t.sync.req = none ∧ t.sync.lastAbort = some .held ∧ Sent (newNotice .syncAborted (some r.obj.code) (some 6) s) t) ∧
     (∀ r, s.sync.req = some r → r.stage = .close → t.sync.req = some r) ∧
     t.resv.queue = s.resv.queue.filter (fun e => decide (e.state = .active)) ∧
     (∀ e ∈ s.resv.queue, e.state ≠ .active →
       (t.line.stations[e.station]).answers[e.consumer] = some { answer := .held, delivered := false }) ∧
     (∀ (x : Fin 12) (c : Fin 4), (∀ e ∈ s.resv.queue, e.station = x → e.consumer = c → e.state = .active) →
       (t.line.stations[x]).answers[c] = (s.line.stations[x]).answers[c]) ∧
     t.conf = s.conf ∧ t.prof = s.prof ∧ t.plant.partition = s.plant.partition ∧ t.plant.generation = s.plant.generation) ∧
  ∀ s : State,
    let t := resumePart s
    t.conf = s.start.ram ∧ t.start.ram = s.start.ram ∧ t.start.op = s.start.op ∧ t.start.adoptWait = some 2 ∧
    (∀ p : Fin 8, t.prof.fresh[p] = true ∧ t.prof.working[p] = s.prof.working[p]) ∧
    t.prof.active = s.start.ram.base ∧ t.prof.stack = [] ∧
    (∃ e, t.prof.entry = some e ∧ e.command = .initial ∧ e.target = s.start.ram.general.initialProfile) ∧
    t.resv.queue = [] ∧ t.resv.counter = 1 ∧
    (∀ x : Fin 12, t.line.stations[x].state = .unknown ∧ t.line.stations[x].miss = 0) ∧
    (∀ (x : Fin 12) (c : Fin 4),
      (s.start.ram.stations[x] = false → (t.line.stations[x]).answers[c] = none) ∧
      (s.start.ram.stations[x] = true → (∃ e ∈ s.resv.queue, e.station = x ∧ e.consumer = c) →
        (t.line.stations[x]).answers[c] = some { answer := .holdEnded, delivered := false }) ∧
      (s.start.ram.stations[x] = true → (∀ e ∈ s.resv.queue, ¬ (e.station = x ∧ e.consumer = c)) →
        (t.line.stations[x]).answers[c] = (s.line.stations[x]).answers[c])) ∧
    ((∃ x : Fin 12, s.start.ram.stations[x] = true) → t.line.slot = s.line.slot) ∧
    ((∀ x : Fin 12, s.start.ram.stations[x] = false) → t.line.slot = none ∧ t.line.poll = none ∧ t.line.window = none) ∧
    (∀ x : Fin 12, (t.line.next = some x ∨ t.line.current = some x) → s.start.ram.stations[x] = true) ∧
    (∀ g : Fin 8, t.biasOut g = s.biasOut g) ∧ t.plant.generation = s.plant.generation ∧
    t.plant.partition = s.plant.partition ∧ t.sync = s.sync

/-- The six checks of R167: an image is valid where it passes them all, and otherwise fails first at one of them. CONFIG
COMMIT carried out: a RAM image that fails a check is not written, and CONFIG_STORE_FAILED carries the number of the first
failing check with value 0; one that passes them all is the copy the store write begins with. The end
of a store write: a read-back that matches stores the image, sends CONFIG_STORED and moves UNCONFIGURED to HELD; one that
does not sends CONFIG_STORE_FAILED with no subject and value 1. With no write in flight nothing happens (the model's
choice, log 4). -/
def Obligations.StoreWrites : Prop :=
  (∀ img : Image,
    (img.check = none ↔ ∀ n, 1 ≤ n → n ≤ 6 → PassesCheck img n) ∧
    ∀ n, img.check = some n ↔
      1 ≤ n ∧ n ≤ 6 ∧ ¬ PassesCheck img n ∧ ∀ m, 1 ≤ m → m < n → PassesCheck img m) ∧
  (∀ s : State,
     (∀ n, s.start.ram.check = some n →
       commit s = notify .configStoreFailed (some n) (some 0) { s with start.lastStore := some .failed }) ∧
     (s.start.ram.check = none → commit s = { s with start.storeOp := some s.start.ram })) ∧
  (∀ (img : Image) (s : State), s.start.storeOp = some img →
    (∃ t, exec (.storeWriteEnd true) s = .next t ∧ t.start.store = .sound img ∧ t.start.storeOp = none ∧
      t.start.lastStore = some .stored ∧
      t.start.op = (if s.start.op = .unconfigured then .held else s.start.op) ∧
      Sends (newNotice .configStored none none s) s t ∧
      t.plant = s.plant ∧ t.scan = s.scan ∧ t.share = s.share ∧ t.sync = s.sync ∧ t.shed = s.shed ∧ t.resv = s.resv ∧
      t.line = s.line ∧ t.prof = s.prof ∧ t.conf = s.conf) ∧
    (∃ t, exec (.storeWriteEnd false) s = .next t ∧ t.start.store = .broken ∧ t.start.storeOp = none ∧
      t.start.lastStore = some .failed ∧ t.start.op = s.start.op ∧ t.start.ram = s.start.ram ∧
      Sends (newNotice .configStoreFailed none (some 1) s) s t ∧
      t.plant = s.plant ∧ t.scan = s.scan ∧ t.share = s.share ∧ t.sync = s.sync ∧ t.shed = s.shed ∧ t.resv = s.resv ∧
      t.line = s.line ∧ t.prof = s.prof ∧ t.conf = s.conf)) ∧
  ∀ (b : Bool) (s : State), s.start.storeOp = none → exec (.storeWriteEnd b) s = .next s

/-! ### Plant inputs and set states (01 R1 to R14) -/

/-- A raw level: the filtered state stays; on a settled input of the running part the filter timer is cancelled where the
level is the filtered state, keeps running where it runs, and starts otherwise. Nothing else changes. -/
def Obligations.RawInputRunsItsFilter : Prop :=
  ∀ (i : PlantInput) (level : Bool) (s : State), ∃ t, exec (.rawInputChange i level) s = .next t ∧
    (getFilter t i).raw = level ∧ (getFilter t i).filtered = (getFilter s i).filtered ∧
    ((getFilter s i).filtered = none → (getFilter t i).timer = (getFilter s i).timer) ∧
    (s.started = true → ∀ v, (getFilter s i).filtered = some v →
      (getFilter t i).timer =
        if level = v then none else some ((getFilter s i).timer.getD (filterTime s.conf.general i))) ∧
    (∀ j, j ≠ i → getFilter t j = getFilter s j) ∧
    t.plant.sets = s.plant.sets ∧ t.plant.partition = s.plant.partition ∧ t.plant.generation = s.plant.generation ∧
    t.plant.accounts = s.plant.accounts ∧ t.plant.freq = s.plant.freq ∧
    t.scan = s.scan ∧ t.share = s.share ∧ t.sync = s.sync ∧ t.shed = s.shed ∧ t.resv = s.resv ∧ t.line = s.line ∧
    t.prof = s.prof ∧ t.link = s.link ∧ t.start = s.start ∧ t.conf = s.conf ∧ t.pending = s.pending

/-- The end of a filter time, taken after the ms that remained (log 3): the filtered state takes the raw level, and no
other filter changes. The first one settles the input with no change event: it sets the latch of an ACTIVE trip input, may
compute the first partition, and changes nothing else. A later one that changes the state is handed to the block that owns
the input; one that does not changes nothing more. SET-READY gone aborts the set's request before its CLOSE with
SET_NOT_READY. CONFIRM, in RUNNING: OPEN makes each SHED_PENDING group that names it SHED, NOT_OPEN sends CONFIRM_LOST for
each SHED one (in ascending number, log 21). TIE-STATUS of a usable tie: with the partition as it was, a closing ends the
tie's own request in CLOSE with SYNC_DONE and aborts it earlier with EXTERNAL_CLOSE; with another partition, the partition
change in its order (log 19): the new generation with PARTITION_CHANGED, the accounts with SHORTFALL kept where an island's
sections are the same, dwells and restore delays idle, offers returned with WITHDRAWN, a request of a section that moved
ended, and every account updated, its wanted field compared as the returned offers leave it (log 62). A tie is usable where
it and both its sections are present, and a partition puts two sections in one island exactly where a chain of usable ties
whose filtered TIE-STATUS is CLOSED connects them, numbered by its lowest section (R16, R17). -/
def Obligations.FilterExpiryTakesRawLevel : Prop :=
  (∀ s : State, PartitionOf s (computePartition s)) ∧
  (∀ (s : State) (k : Fin 4), tieUsable s k = true ↔
    s.conf.ties[k].present = true ∧ s.conf.sections[k].present = true ∧ s.conf.sections[k + 1].present = true) ∧
  (∀ (i : PlantInput) (r : Nat) (s : State), (getFilter s i).timer = some r →
    let p := elapse r s
    let raw := (getFilter s i).raw
    let q := setFilter i { raw := raw, filtered := some raw, timer := none } p
    ∃ t, exec (.filterTimerExpiry i) s = .next t ∧
      getFilter t i = { raw := raw, filtered := some raw, timer := none } ∧
      (∀ j, j ≠ i → getFilter t j = getFilter p j) ∧
      ((getFilter s i).filtered = none →
        Quiet s t ∧ t.scan = p.scan ∧ t.share = p.share ∧ t.sync = p.sync ∧ t.shed = p.shed ∧ t.resv = p.resv ∧
        t.line = p.line ∧ t.prof = s.prof ∧ t.start = s.start ∧ t.conf = s.conf ∧
        t.plant.generation = s.plant.generation ∧
        (∀ g : Fin 8, t.plant.sets[g].state = s.plant.sets[g].state ∧
          t.plant.sets[g].latch =
            (s.plant.sets[g].latch || (decide (i = .setTrip g) && setPresent s g && raw))) ∧
        (t.plant.partition = s.plant.partition ∨
          s.plant.partition = none ∧ s.start.op = .starting ∧ t.plant.partition = some (computePartition q))) ∧
      ((getFilter s i).filtered = some raw → t = q) ∧
      (∀ old, (getFilter s i).filtered = some old → old ≠ raw → t = inputChanged i raw q)) ∧
  (∀ (g : Fin 8) (level : Bool) (s : State),
    (∀ r, s.sync.req = some r → r.obj = .set g → r.stage ≠ .close →
      inputChanged (.setReady g) false s = syncAbort .setNotReady s) ∧
    ((level = true ∨ ∀ r, s.sync.req = some r → r.obj = .set g → r.stage = .close) →
      inputChanged (.setReady g) level s = s)) ∧
  (∀ (c : Fin 16) (s : State),
    let names (st : GroupState) (g : Fin 32) : Bool :=
      groupPresent s g && decide ((s.conf.groups[g]).confirm = some c) && decide (s.shed.groups[g].state = st)
    let on := inputChanged (.confirm c) true s
    let off := inputChanged (.confirm c) false s
    (s.running = false → on = s ∧ off = s) ∧
    (s.running = true →
      (∀ g : Fin 32, on.shed.groups[g] =
        if names .shedPending g then { s.shed.groups[g] with state := .shed, confirm := none }
        else s.shed.groups[g]) ∧
      on.shed.dwell = s.shed.dwell ∧ on.plant = s.plant ∧ on.share = s.share ∧ on.resv = s.resv ∧ on.prof = s.prof ∧
      on.link = s.link ∧
      off = (thirtyTwo.filter (names .shed)).foldl (fun t g => notify .confirmLost (some g.val) none t) s)) ∧
  ∀ (k : Fin 4) (level : Bool) (s : State),
    let t := inputChanged (.tieStatus k) level s
    ((tieUsable s k = false ∨ s.plant.partition = none) → t = s) ∧
    ∀ p, tieUsable s k = true → s.plant.partition = some p →
      let q := computePartition s
      let gen := (s.plant.generation + 1) % 65536
      let w : State := { s with plant.partition := some q, plant.generation := gen }
      let closes (r : SyncReq) : Prop := r.obj = .tie k ∧ r.stage = .close ∧ s.plant.tie[k].filtered = some true
      (q = p →
        (((∀ r, s.sync.req = some r → r.obj ≠ .tie k) ∨ s.plant.tie[k].filtered ≠ some true) → t = s) ∧
        ∀ r, s.sync.req = some r → r.obj = .tie k → s.plant.tie[k].filtered = some true →
          (r.stage ≠ .close → t = syncAbort .externalClose s) ∧
          (r.stage = .close → t.sync.req = none ∧ t.sync.lastAbort = s.sync.lastAbort ∧ t.tieClose k = false ∧
            t.selector = 15 ∧ t.plant = s.plant ∧
            Sends (newNotice .syncDone (some (8 + k.val)) (some (if r.deadBus then 0 else 1)) s) s t)) ∧
      (q ≠ p →
        t.plant.partition = some q ∧ t.plant.generation = gen ∧
        Sends (newNotice .partitionChanged (some k.val) none w) s t ∧
        (∀ i : Fin 4, t.shed.dwell[i] = Dwell.idle ∧ t.shed.restore[i] = none) ∧
        (∀ i, getFilter t i = getFilter s i) ∧ t.prof = s.prof ∧ t.start = s.start ∧ t.conf = s.conf ∧
        (∀ r, s.sync.req = some r → r.sections.any (movesIsland p q) = true →
          t.sync.req = none ∧
          (closes r → t.sync.lastAbort = s.sync.lastAbort ∧
            Sent (newNotice .syncDone (some (8 + k.val)) (some (if r.deadBus then 0 else 1)) w) t) ∧
          (¬ closes r → t.sync.lastAbort = some .topologyChanged ∧
            Sent (newNotice .syncAborted (some r.obj.code) (some 5) w) t)) ∧
        ((∀ r, s.sync.req = some r → r.sections.any (movesIsland p q) = false) → t.sync = s.sync) ∧
        ∃ u : State, t = accountUpdate false s four (syncTopology (some k) (movesIsland p q) u) ∧
          (∀ i : Fin 4, u.plant.accounts[i] =
            ((recompute four w).plant.accounts[i]).map fun a =>
              if sectionsOf p i = sectionsOf q i then a else { a with shortfall := false }) ∧
          (∀ i : Fin 4, u.resv.lastWanted[i] =
            if (u.plant.accounts[i]).isSome then s.resv.lastWanted[i] else 0) ∧
          (QueueLaw s →
            u.resv.queue = s.resv.queue.map (fun e =>
              if e.state = .offered then
                { e with state := .waiting, remaining := (settings s).waitLimit * 1000 }
              else e) ∧
            ∀ e ∈ s.resv.queue, e.state = .offered →
              (u.line.stations[e.station]).answers[e.consumer] = some { answer := .withdrawn, delivered := false }))

/-- A set's breaker, taken in RUNNING or HELD (R7, R8): OFFLINE closes to ONLINE with k = N and MANUAL_CLOSE 1; INCOMING in
CLOSE to ONLINE with k = 1 and the request ends; INCOMING earlier to ONLINE with k = N, MANUAL_CLOSE 1 and the request
aborted; TRIPPED closes with MANUAL_CLOSE 0 alone. UNLOADING opens in its open confirm wait to OFFLINE, parked, with
UNLOAD_DONE; ONLINE, and UNLOADING without that wait, open as a set loss. Every other pair changes nothing. That MANUAL_CLOSE
and UNLOAD_DONE come before the notices of the account update is log 50. -/
def Obligations.BreakerMovesSet : Prop :=
  ∀ (g : Fin 8) (s : State), setPresent s g = true → s.operating = true →
    let shut := inputChanged (.gcbStatus g) true s
    let open' := inputChanged (.gcbStatus g) false s
    (s.plant.sets[g].state = .offline →
      shut.plant.sets[g].state = .online ∧ shut.share.sets[g].k = (settings s).rampN ∧
      Sends (newNotice .manualClose (some g.val) (some 1) s) s shut ∧ UpdateFrame s shut) ∧
    (∀ r, s.plant.sets[g].state = .incoming → s.sync.req = some r → r.obj = .set g → r.stage = .close →
      shut.plant.sets[g].state = .online ∧ shut.share.sets[g].k = 1 ∧ shut.biasOut g = s.biasOut g ∧
      shut.sync.req = none ∧ shut.sync.lastAbort = s.sync.lastAbort ∧ shut.gcbClose g = false ∧ shut.selector = 15 ∧
      Sent (newNotice .syncDone (some g.val) (some (if r.deadBus then 0 else 1)) s) shut) ∧
    (∀ r, s.plant.sets[g].state = .incoming → s.sync.req = some r → r.obj = .set g → r.stage ≠ .close →
      shut.plant.sets[g].state = .online ∧ shut.share.sets[g].k = (settings s).rampN ∧ shut.biasOut g = s.biasOut g ∧
      shut.sync.req = none ∧ shut.sync.lastAbort = some .externalClose ∧
      Sends (newNotice .manualClose (some g.val) (some 1) s) s shut) ∧
    (s.plant.sets[g].state = .tripped → shut = notify .manualClose (some g.val) (some 0) s) ∧
    ((s.plant.sets[g].state = .online ∨ s.plant.sets[g].state = .unloading) → shut = s) ∧
    (s.plant.sets[g].state = .unloading → s.share.sets[g].openWait.isSome = true →
      open'.plant.sets[g].state = .offline ∧ open'.share.sets[g].k = 0 ∧ open'.share.sets[g].sat = .clear ∧
      open'.share.sets[g].unload = .none ∧ open'.share.sets[g].openWait = none ∧
      open'.share.sets[g].openPulse = s.share.sets[g].openPulse ∧
      open'.biasOut g = (if s.running then (s.conf.sets[g]).park else s.biasOut g) ∧
      Sends (newNotice .unloadDone (some g.val) none s) s open') ∧
    ((s.plant.sets[g].state = .online ∨
        s.plant.sets[g].state = .unloading ∧ s.share.sets[g].openWait = none) →
      open' = setLoss g .offline .uncommandedOpen none s) ∧
    ((s.plant.sets[g].state = .tripped ∨ s.plant.sets[g].state = .offline ∨ s.plant.sets[g].state = .incoming) →
      open' = s)

/-- A set's trip latch (R3, R9) in RUNNING or HELD: an ACTIVE input sets a clear latch and the set becomes TRIPPED from any
other state, as a set loss where it was online and with SET_TRIPPED 0 where it was not; a request of an INCOMING set is
aborted. A set latch changes nothing. An INACTIVE input clears a LEVEL latch with TRIP_INPUT_CLEARED and leaves an EDGE
one. -/
def Obligations.TripMovesSet : Prop :=
  ∀ (g : Fin 8) (s : State), setPresent s g = true → s.operating = true →
    let on := inputChanged (.setTrip g) true s
    let off := inputChanged (.setTrip g) false s
    let q := updSet g (fun r => { r with latch := true }) s
    (s.plant.sets[g].latch = true → on = s) ∧
    (s.plant.sets[g].latch = false →
      (s.plant.sets[g].state.isOnline = true → on = setLoss g .tripped .setTripped (some 1) q) ∧
      (s.plant.sets[g].state = .offline →
        on = notify .setTripped (some g.val) (some 0) (setSetState g .tripped q)) ∧
      (s.plant.sets[g].state = .incoming →
        on.plant.sets[g] = { state := .tripped, latch := true } ∧ on.share.sets[g].k = 0 ∧
        on.biasOut g = (if s.running then (s.conf.sets[g]).park else s.biasOut g) ∧
        Sends (newNotice .setTripped (some g.val) (some 0) s) s on ∧
        ∀ r, s.sync.req = some r → r.obj = .set g →
          on.sync.req = none ∧ on.sync.lastAbort = some .setTripped ∧ on.gcbClose g = false) ∧
      (s.plant.sets[g].state = .tripped → on = q)) ∧
    ((s.conf.sets[g]).sense = .level → s.plant.sets[g].latch = true →
      off = notify .tripInputCleared (some g.val) none (updSet g (fun r => { r with latch := false }) s)) ∧
    (((s.conf.sets[g]).sense = .edge ∨ s.plant.sets[g].latch = false) → off = s)

/-- A lost set (R13, R14) leaves online for its new state: k = 0, SATURATED clear, no unload, its bias parked in RUNNING,
its notice first (the model's order, log 18); its GCB-OPEN pulse runs on. Then its island's account is recomputed without it,
as O32 (RoundCompletes) pins the recomputation, the fast shed takes that account with Lpre, the sum of the readings the
island had online just before the loss (O26, FastShedTakesTheDeficit), the offers are withdrawn (O50, OfferTestDecides), and
the account is handed on as O32 pins it (log 44), its wanted field compared as the withdrawal leaves it (log 62). A set whose section has no island brings none of these. -/
def Obligations.SetLossParksTheSet : Prop :=
  ∀ (g : Fin 8) (st : SetState) (k : NoticeKind) (v : Option Int) (s : State),
    (st = .offline ∨ st = .tripped) →
    let t := setLoss g st k v s
    t.plant.sets[g].state = st ∧ t.plant.sets[g].latch = s.plant.sets[g].latch ∧ t.share.sets[g].k = 0 ∧
    t.share.sets[g].sat = .clear ∧ t.share.sets[g].unload = .none ∧ t.share.sets[g].openWait = none ∧
    t.share.sets[g].openPulse = s.share.sets[g].openPulse ∧
    t.biasOut g = (if s.running then (s.conf.sets[g]).park else s.biasOut g) ∧
    (∀ h : Fin 8, h ≠ g → t.biasOut h = s.biasOut h ∧ (t.plant.sets[h].state = s.plant.sets[h].state ∨
      s.plant.sets[h].state = .unloading ∧ t.plant.sets[h].state = .online)) ∧
    (∀ i, getFilter t i = getFilter s i) ∧ Sends (newNotice k (some g.val) v s) s t ∧
    (setIsland s g = none → t.plant.accounts = s.plant.accounts ∧ t.shed = s.shed ∧ t.resv = s.resv) ∧
    (∀ i, setIsland s g = some i →
      let online := eight.filter fun h => setPresent s h && decide (setIsland s h = some i) &&
        (decide (s.plant.sets[h].state = .online) || decide (s.plant.sets[h].state = .unloading))
      let lpre := (online.map fun h => s.scan.kw[h].value).sum
      ∃ u : State, u.plant.sets = put s.plant.sets g { s.plant.sets[g] with state := st } ∧
        u.plant.accounts = s.plant.accounts ∧ u.plant.partition = s.plant.partition ∧ u.plant.freq = s.plant.freq ∧
        u.scan = s.scan ∧ u.shed = s.shed ∧ u.resv = s.resv ∧ u.prof = s.prof ∧ u.conf = s.conf ∧ u.start = s.start ∧
        let w := lossWithdraw i (fastShed i lpre (recompute [i] u))
        t = arbiterUpdate i (shedUpdate false i (blackoutIfDead s i (abortUnloads i w)))) ∧
    t.plant.partition = s.plant.partition ∧ t.plant.generation = s.plant.generation ∧ t.scan = s.scan ∧
    t.sync = s.sync ∧ t.prof = s.prof ∧ t.start = s.start ∧ t.conf = s.conf ∧ t.share.period = s.share.period

/-! ### Shedding (05, 06) -/

/-- R95 and R96: the shed order of an island holds its present CONNECTED groups of level 1 to 7 by ascending level, then
descending number; the restore order its present SHED groups of level 1 to 7 by descending level, then ascending
number. -/
def Obligations.ShedAndRestoreOrders : Prop :=
  ∀ (s : State) (i : Fin 4),
    (∀ g : Fin 32, g ∈ shedOrder s i ↔
      groupPresent s g = true ∧ groupIsland s g = some i ∧ s.shed.groups[g].state = .connected ∧
        1 ≤ groupLevel s g ∧ groupLevel s g ≤ 7) ∧
    (shedOrder s i).Pairwise (fun g h =>
      groupLevel s g < groupLevel s h ∨ groupLevel s g = groupLevel s h ∧ h < g) ∧
    (∀ g : Fin 32, g ∈ restoreOrder s i ↔
      groupPresent s g = true ∧ groupIsland s g = some i ∧ s.shed.groups[g].state = .shed ∧
        1 ≤ groupLevel s g ∧ groupLevel s g ≤ 7) ∧
    (restoreOrder s i).Pairwise (fun g h =>
      groupLevel s h < groupLevel s g ∨ groupLevel s g = groupLevel s h ∧ g < h)

/-- The selection walk (R101): the groups from the head of the order whose loads first cover the amount; it has run out
exactly where the whole order falls short of it. A fast shed (R102, R103): with D = Lpre − Cfast' − P at most 0, in a DEAD
island and outside RUNNING nothing happens; otherwise the selection for D is shed with cause AUTO_FAST, SHORTFALL tells
whether it ran out, and FAST_SHED carries D with island + 4 n + 256 where it ran out. Groups not selected stay. A blackout
shed (R107, R108): an island found DEAD in RUNNING, one of whose sections was just before in an island not DEAD, sheds its
whole order with cause BLACKOUT and sends BLACKOUT_SHED with its number; any other recomputation sheds nothing so. A group
opens at once where it names no confirm input, or one whose filtered state is OPEN (R88), and the pending credit P is the sum
of the expected loads of the island's present SHED_PENDING groups (R102; that a group is present once adopted is log 36). -/
def Obligations.FastShedTakesTheDeficit : Prop :=
  (∀ (load : Fin 32 → Nat) (amount : Nat) (order : List (Fin 32)),
     let w := walk load amount order
     w.1 <+: order ∧
     (w.2 = true → w.1 = order ∧ (order.map load).sum < amount) ∧
     (w.2 = false → amount ≤ (w.1.map load).sum) ∧
     (w.1 ≠ [] → (w.1.dropLast.map load).sum < amount)) ∧
  (∀ (s : State) (g : Fin 32),
    (opensAtOnce s g = true ↔
      ∀ c, (s.conf.groups[g]).confirm = some c → s.plant.confirm[c].filtered = some true) ∧
    groupLoad s g = (s.prof.active.groups[g]).load) ∧
  (∀ (s : State) (i : Fin 4), pendingCredit s i =
    ∑ g : Fin 32,
      if groupPresent s g = true ∧ islandOf s (s.conf.groups[g]).sect = some i ∧ s.shed.groups[g].state = .shedPending then
        (s.prof.active.groups[g]).load
      else 0) ∧
  (∀ (before : State) (i : Fin 4) (s : State),
    let t := blackoutIfDead before i s
    (s.plant.accounts[i] = none → t = s) ∧
    ∀ a, s.plant.accounts[i] = some a →
      let dies : Prop := s.running = true ∧ a.dead = true ∧ ∃ x ∈ a.sections, ∃ j b,
        islandOf before x = some j ∧ before.plant.accounts[j] = some b ∧ b.dead = false
      (¬ dies → t = s) ∧
      (dies →
        (∀ g ∈ shedOrder s i, t.shed.groups[g] =
          { state := if opensAtOnce s g then .shed else .shedPending, cause := some .blackout,
            confirm := if opensAtOnce s g then none else some s.conf.general.confirmTime, out := true }) ∧
        (∀ g, g ∉ shedOrder s i → t.shed.groups[g] = s.shed.groups[g]) ∧
        (∀ l : Link, (t.link.get l).notices =
          ((s.link.get l).append
            (newNotice .blackoutShed (some i.val) (some ((shedOrder s i).length : Int)) s)).notices) ∧
        t.plant = s.plant ∧ t.shed.dwell = s.shed.dwell ∧ t.share = s.share ∧ t.prof = s.prof)) ∧
  ∀ (i : Fin 4) (lpre : Nat) (a : Account) (s : State), s.plant.accounts[i] = some a →
    let d : Int := (lpre : Int) - (a.fast : Int) - (pendingCredit s i : Int)
    let t := fastShed i lpre s
    ((s.running = false ∨ a.dead = true ∨ d ≤ 0) → t = s) ∧
    (s.running = true → a.dead = false → 0 < d →
      let w := walk (groupLoad s) d.toNat (shedOrder s i)
      (∀ g ∈ w.1, t.shed.groups[g] =
        { state := if opensAtOnce s g then .shed else .shedPending, cause := some .autoFast,
          confirm := if opensAtOnce s g then none else some s.conf.general.confirmTime, out := true }) ∧
      (∀ g, g ∉ w.1 → t.shed.groups[g] = s.shed.groups[g]) ∧
      t.plant.accounts[i] = some { a with shortfall := w.2 } ∧
      (∀ l : Link, (t.link.get l).notices =
        ((s.link.get l).append
          (newNotice .fastShed (some (i.val + 4 * w.1.length + if w.2 then 256 else 0)) (some d) s)).notices) ∧
      t.shed.dwell = s.shed.dwell ∧ t.share = s.share ∧ t.plant.sets = s.plant.sets ∧ t.prof = s.prof)

/-- SHED and RESTORE (R91, R92, with the shed action of R88), the common checks first: a CONNECTED group is shed with cause
MANUAL, straight to SHED where it names no confirm input or one filtered OPEN, and MANUAL_SHED carries the link, an
INHIBITED one is refused, one already shed is answered DONE unchanged; a SHED or
SHED_FAILED group is connected with RESTORED 0, a SHED_PENDING one is refused, a CONNECTED or INHIBITED one is answered DONE
unchanged. -/
def Obligations.ShedAndRestoreCommands : Prop :=
  (∀ (s : State) (g : Fin 32), opensAtOnce s g = true ↔
    ∀ c, (s.conf.groups[g]).confirm = some c → s.plant.confirm[c].filtered = some true) ∧
  ∀ (l : Link) (seq : Byte) (s : State), Takes l s →
    let v := validFrame l s
    (∀ n : Byte, 32 ≤ n.toNat →
      exec (.shed l seq [n]) s = .next (turnedAway l 32 seq (.refused .badField) s) ∧
      exec (.restore l seq [n]) s = .next (turnedAway l 33 seq (.refused .badField) s)) ∧
    ∀ g : Fin 32,
      let n : Byte := BitVec.ofNat 8 g.val
      (s.running = false →
        exec (.shed l seq [n]) s = .next (turnedAway l 32 seq (.refused .wrongState) s) ∧
        exec (.restore l seq [n]) s = .next (turnedAway l 33 seq (.refused .wrongState) s)) ∧
      (s.running = true → groupPresent s g = false →
        exec (.shed l seq [n]) s = .next (turnedAway l 32 seq (.refused .notPresent) s) ∧
        exec (.restore l seq [n]) s = .next (turnedAway l 33 seq (.refused .notPresent) s)) ∧
      (s.running = true → groupPresent s g = true →
        (s.shed.groups[g].state = .connected →
          exec (.shed l seq [n]) s = .next
            (answerTo l 32 seq .ok
              (notify .manualShed (some g.val) (some (l.code : Int)) (shedAction .manual [g] v))) ∧
          (shedAction .manual [g] v).shed.groups[g] =
            { state := if opensAtOnce s g then .shed else .shedPending, cause := some .manual,
              confirm := if opensAtOnce s g then none else some s.conf.general.confirmTime, out := true } ∧
          (∀ h : Fin 32, h ≠ g → (shedAction .manual [g] v).shed.groups[h] = s.shed.groups[h]) ∧
          exec (.restore l seq [n]) s = .next (turnedAway l 33 seq .ok s)) ∧
        (s.shed.groups[g].state = .inhibited →
          exec (.shed l seq [n]) s = .next (turnedAway l 32 seq (.refused .inhibited) s) ∧
          exec (.restore l seq [n]) s = .next (turnedAway l 33 seq .ok s)) ∧
        (s.shed.groups[g].state = .shedPending →
          exec (.shed l seq [n]) s = .next (turnedAway l 32 seq .ok s) ∧
          exec (.restore l seq [n]) s = .next (turnedAway l 33 seq (.refused .wrongState) s)) ∧
        ((s.shed.groups[g].state = .shed ∨ s.shed.groups[g].state = .shedFailed) →
          exec (.shed l seq [n]) s = .next (turnedAway l 32 seq .ok s) ∧
          exec (.restore l seq [n]) s = .next
            (answerTo l 33 seq .ok (notify .restored (some g.val) (some 0) (connectGroup g v))) ∧
          (connectGroup g v).shed.groups[g] = { state := .connected, cause := none, confirm := none, out := false } ∧
          (∀ h : Fin 32, h ≠ g → (connectGroup g v).shed.groups[h] = s.shed.groups[h])))

/-- R93, the common checks first: INHIBIT moves a CONNECTED group to INHIBITED with GROUP_INHIBIT 1, RELEASE INHIBIT an
INHIBITED one to CONNECTED with GROUP_INHIBIT 0; every other state is refused WRONG_STATE. An INHIBITED group stands in no
shed order; its output, level and expected load stay. -/
def Obligations.InhibitAndRelease : Prop :=
  ∀ (l : Link) (seq : Byte) (s : State), Takes l s →
    let v := validFrame l s
    (∀ n : Byte, 32 ≤ n.toNat →
      exec (.inhibit l seq [n]) s = .next (turnedAway l 34 seq (.refused .badField) s) ∧
      exec (.releaseInhibit l seq [n]) s = .next (turnedAway l 35 seq (.refused .badField) s)) ∧
    ∀ g : Fin 32,
      let n : Byte := BitVec.ofNat 8 g.val
      (s.running = false →
        exec (.inhibit l seq [n]) s = .next (turnedAway l 34 seq (.refused .wrongState) s) ∧
        exec (.releaseInhibit l seq [n]) s = .next (turnedAway l 35 seq (.refused .wrongState) s)) ∧
      (s.running = true → groupPresent s g = false →
        exec (.inhibit l seq [n]) s = .next (turnedAway l 34 seq (.refused .notPresent) s) ∧
        exec (.releaseInhibit l seq [n]) s = .next (turnedAway l 35 seq (.refused .notPresent) s)) ∧
      (s.running = true → groupPresent s g = true →
        (s.shed.groups[g].state ≠ .connected →
          exec (.inhibit l seq [n]) s = .next (turnedAway l 34 seq (.refused .wrongState) s)) ∧
        (s.shed.groups[g].state ≠ .inhibited →
          exec (.releaseInhibit l seq [n]) s = .next (turnedAway l 35 seq (.refused .wrongState) s)) ∧
        (s.shed.groups[g].state = .connected → ∃ t,
          exec (.inhibit l seq [n]) s = .next (answerTo l 34 seq .ok t) ∧
          t.shed.groups[g] = { s.shed.groups[g] with state := .inhibited } ∧
          (∀ h : Fin 32, h ≠ g → t.shed.groups[h] = s.shed.groups[h]) ∧ (∀ i, g ∉ shedOrder t i) ∧
          Sends (newNotice .groupInhibit (some g.val) (some 1) v) v t ∧ t.prof = s.prof ∧ t.plant = s.plant ∧
          t.share = s.share) ∧
        (s.shed.groups[g].state = .inhibited → ∃ t,
          exec (.releaseInhibit l seq [n]) s = .next (answerTo l 35 seq .ok t) ∧
          t.shed.groups[g] = { s.shed.groups[g] with state := .connected } ∧
          (∀ h : Fin 32, h ≠ g → t.shed.groups[h] = s.shed.groups[h]) ∧
          Sends (newNotice .groupInhibit (some g.val) (some 0) v) v t ∧ t.prof = s.prof ∧ t.plant = s.plant ∧
          t.share = s.share))

/-- The end of a confirm time (R89, R105): the group is SHED_FAILED with its cause and output kept and SHED_FAILED sent
first; in RUNNING a cause AUTO_FAST brings the make-up shed of its expected load, any other cause no shed. The end of a
restore delay (R116): with every gate holding the candidate is connected and RESTORED 1 sent, and the delay runs again
exactly where the gates hold for the next one; otherwise the delay is not running and nothing is restored. Both ends are
taken after the ms that remained (log 3). Between them (R114, R115) the delay of an island starts, with the restore delay,
at a scan-round update at which every gate holds, and a running one is cancelled at every update, and every shed or
restored group of the island, at which a gate fails. The candidate is the first group of the island's restore order whose
cause is AUTO_FAST, AUTO_SLOW or BLACKOUT. -/
def Obligations.ConfirmAndRestoreTimers : Prop :=
  (∀ (g : Fin 32) (r : Nat) (s : State), s.shed.groups[g].confirm = some r →
    let p := elapse r s
    ∃ t, exec (.confirmTimerExpiry g) s = .next t ∧
      t.shed.groups[g] = { s.shed.groups[g] with state := .shedFailed, confirm := none } ∧
      Sends (newNotice .shedFailed (some g.val) (s.shed.groups[g].cause.map fun c => (c.code : Int)) p) p t ∧
      ((s.running = false ∨ s.shed.groups[g].cause ≠ some .autoFast) →
        (∀ h : Fin 32, h ≠ g → t.shed.groups[h] = p.shed.groups[h]) ∧ t.plant = p.plant) ∧
      (∀ i, s.running = true → s.shed.groups[g].cause = some .autoFast → groupIsland s g = some i → ∃ q,
        t = shedSelection .makeUpShed i (groupLoad s g) q ∧
        q.shed.groups = upd p.shed.groups g (fun x => { x with state := .shedFailed, confirm := none }) ∧
        q.plant = p.plant ∧ q.prof = s.prof)) ∧
  (∀ (i : Fin 4) (s : State),
    let automatic (g : Fin 32) : Prop := s.shed.groups[g].cause = some .autoFast ∨ s.shed.groups[g].cause = some .autoSlow ∨
      s.shed.groups[g].cause = some .blackout
    (restoreCandidate s i = none ↔ ∀ g ∈ restoreOrder s i, ¬ automatic g) ∧
    ∀ g, restoreCandidate s i = some g ↔
      ∃ before after, restoreOrder s i = before ++ g :: after ∧ automatic g ∧ ∀ h ∈ before, ¬ automatic h) ∧
  (∀ (i : Fin 4) (s : State), gatesHold s i = true ↔
    s.running = true ∧ s.supervised = true ∧ (settings s).autoRestore = true ∧ ∃ a g,
      s.plant.accounts[i] = some a ∧ restoreCandidate s i = some g ∧ a.isOver = false ∧ a.dead = false ∧
      s.shed.dwell[i].state = .idle ∧
      (groupLoad s g : Int) + ((settings s).restoreMargin : Int) ≤ a.spare) ∧
  (∀ (scan : Bool) (i : Fin 4) (s : State), s.running = true → (s.plant.accounts[i]).isSome = true →
    let t := shedUpdate scan i s
    t.shed.restore[i] =
      (if gatesHold t i then
        match s.shed.restore[i] with
        | some r => some r
        | none => if scan then some (settings s).restoreDelay else none
      else none) ∧
    ∀ j : Fin 4, j ≠ i → t.shed.restore[j] = s.shed.restore[j]) ∧
  (∀ (cause : ShedCause) (gs : List (Fin 32)) (g : Fin 32) (i : Fin 4) (s : State),
    let t := shedAction cause gs s
    let u := connectGroup g s
    t.shed.restore[i] =
      (if (∃ h ∈ gs, groupIsland s h = some i) ∧ gatesHold t i = false then none else s.shed.restore[i]) ∧
    u.shed.restore[i] =
      (if groupIsland s g = some i ∧ gatesHold u i = false then none else s.shed.restore[i])) ∧
  ∀ (i : Fin 4) (r : Nat) (s : State), s.shed.restore[i] = some r →
    let p := elapse r s
    (∀ g, gatesHold p i = true → restoreCandidate p i = some g →
      ∃ t, exec (.restoreDelayExpiry i) s = .next t ∧
        t.shed.groups[g] = { state := .connected, cause := none, confirm := none, out := false } ∧
        (∀ h : Fin 32, h ≠ g → t.shed.groups[h] = p.shed.groups[h]) ∧
        Sends (newNotice .restored (some g.val) (some 1) p) p t ∧
        t.shed.restore[i] = (if gatesHold t i then some (settings s).restoreDelay else none) ∧
        t.plant = p.plant ∧ t.shed.dwell = p.shed.dwell ∧ t.prof = s.prof) ∧
    (gatesHold p i = false → exec (.restoreDelayExpiry i) s = .next (cancelRestore i p))

/-- The dwell of an island at an account update in RUNNING (R110 to R112): at a scan round idle where the condition does
not hold, started or cut to underfrequency, or carried on as overload, FROZEN while the island holds an ACTIVE entry; at an
event update only frozen or released. Outside RUNNING nothing moves. The end of a dwell (R113), taken after the ms that
remained (log 3): with the slow-shed condition holding, the head of the shed order is shed with cause AUTO_SLOW, or none
from an empty order, SLOW_SHED carries 1 for overload plus 2 for underfrequency, and the timer restarts; otherwise the
dwell is IDLE with no notice. -/
def Obligations.DwellExpirySheds : Prop :=
  (∀ (scan : Bool) (i : Fin 4) (a : Account) (s : State), s.plant.accounts[i] = some a →
    let t := shedUpdate scan i s
    let w := settings s
    let d := s.shed.dwell[i]
    let loaded : Prop := a.cap < a.load
    let low : Prop := ∃ f, a.freq = some f ∧ (f : Int) < (s.conf.general.nominal : Int) - (w.underOffset : Int)
    let active : Prop := ∃ e ∈ s.resv.queue, e.state = .active ∧ e.island s = some i
    let dwells (st : DwellState) (k : DwellKind) (n : Nat) : Prop :=
      t.shed.dwell[i] = { state := st, kind := some k, remaining := n }
    (s.running = false → t = s) ∧
    (s.running = true →
      (scan = true →
        (¬ loaded → ¬ low → t.shed.dwell[i] = Dwell.idle) ∧
        (low → d.state = .idle → dwells .running .underfrequency w.underDwell) ∧
        (low → d.state ≠ .idle → d.kind = some .underfrequency → t.shed.dwell[i] = d) ∧
        (low → d.state ≠ .idle → d.kind ≠ some .underfrequency →
          dwells .running .underfrequency (min d.remaining w.underDwell)) ∧
        (loaded → ¬ low → d.state = .idle →
          (active → dwells .frozen .overload w.overDwell) ∧ (¬ active → dwells .running .overload w.overDwell)) ∧
        (loaded → ¬ low → d.state ≠ .idle →
          (active → dwells .frozen .overload d.remaining) ∧ (¬ active → dwells .running .overload d.remaining))) ∧
      (scan = false →
        (d.state = .running → d.kind = some .overload → active → t.shed.dwell[i] = { d with state := .frozen }) ∧
        (d.state = .frozen → ¬ active → t.shed.dwell[i] = { d with state := .running }) ∧
        ((d.state = .idle ∨ d.state = .running ∧ (d.kind ≠ some .overload ∨ ¬ active) ∨ d.state = .frozen ∧ active) →
          t.shed.dwell[i] = d)) ∧
      (∀ j : Fin 4, j ≠ i → t.shed.dwell[j] = s.shed.dwell[j]) ∧ t.shed.groups = s.shed.groups ∧ t.plant = s.plant ∧
      t.resv = s.resv ∧ t.link = s.link)) ∧
  ∀ (i : Fin 4) (a : Account) (s : State), s.shed.dwell[i].state = .running → s.plant.accounts[i] = some a →
    let p := elapse (s.shed.dwell[i].remaining) s
    let w := settings s
    let value : Int := (if a.cap < a.load then 1 else 0) + (if a.under s then 2 else 0)
    let again : Dwell :=
      if a.under s then { state := .running, kind := some .underfrequency, remaining := w.underDwell }
      else { state := if activePresent s i then .frozen else .running, kind := some .overload,
             remaining := w.overDwell }
    (¬ a.cap < a.load → a.under s = false → exec (.dwellExpiry i) s = .next (setDwell i Dwell.idle p)) ∧
    ((a.cap < a.load ∨ a.under s = true) →
      (shedOrder s i = [] →
        exec (.dwellExpiry i) s = .next (setDwell i again (notify .slowShed none (some value) p))) ∧
      ∀ g rest, shedOrder s i = g :: rest →
        exec (.dwellExpiry i) s = .next
          (setDwell i again (notify .slowShed (some g.val) (some value) (shedAction .autoSlow [g] p))))

/-! ### Measurements (02) -/

/-- The readings (R28 to R32): a code up to 736 empties the window and leaves the reading INVALID with its held value; any
other enters the window of four as its sample, clamped to 0 and to FS at the ends. -/
def Obligations.KwCodeMovesReading : Prop :=
  ∀ (fs code : Nat) (c : KwChan), c.validity ≠ .unused →
    let d := c.take fs code
    let v := if code ≤ 818 then 0 else if code ≤ 4049 then (code - 819) * fs / 3276 else fs
    (code ≤ 736 →
      d = { window := [], validity := .invalid, value := if c.validity = .pending then 0 else c.value,
            overrange := false }) ∧
    (737 ≤ code →
      d.window = (c.window ++ [v]).drop (c.window.length + 1 - 4) ∧ v ≤ fs ∧ d.overrange = decide (4050 ≤ code) ∧
      (c.validity = .pending → d.validity = .valid ∧ d.value = v) ∧
      (c.validity = .valid → d.validity = .valid ∧ d.value = d.window.sum / d.window.length) ∧
      (c.validity = .invalid → d.window.length = 4 → d.validity = .valid ∧ d.value = d.window.sum / 4) ∧
      (c.validity = .invalid → d.window.length ≠ 4 → d.validity = .invalid ∧ d.value = c.value))

/-- The completion of a scan round, taken after the ms that remained, and nothing where no round runs (log 3): the next one
begins with 20 ms; each present set's reading and each present section's voltage and live state are those of the round's
codes, the others stand; the Plant Image takes the frequencies; an adoption awaited waits for one completion less. Inputs
and latches stand; with no request in flight, VIN and VREF are those of the codes where the round converted them, and the
biases stand. The accounts it recomputes (R20 to R23): each listed island that is none or vacant has none, each other the
account of R20 to R22 with its SHORTFALL as it stood; an account update hands them on in its order (log 44). Before that
update the round's notices are sent (R30 to R32 of the readings, R35 with cause 3 and R36 of the frequencies, in the order
of log 21); a set or section that is present at the completion is sampled (log 53); and after the update, where VREF has
fallen to DEAD with the selector SETTLED, a request in MATCH or PHASE is aborted with LOST_REFERENCE (R38, 04 R80; that it
follows the update is log 48). -/
def Obligations.RoundCompletes : Prop :=
  (∀ (is : List (Fin 4)) (i : Fin 4) (s : State),
    let t := recompute is s
    (i ∉ is → t.plant.accounts[i] = s.plant.accounts[i]) ∧
    (i ∈ is → s.plant.partition = none → t.plant.accounts[i] = none) ∧
    ∀ p, i ∈ is → s.plant.partition = some p →
      ((p[i] ≠ i ∨ ∀ x : Fin 4, p[x] = i → sectPresent s x = false) → t.plant.accounts[i] = none) ∧
      (p[i] = i → (∃ x : Fin 4, p[x] = i ∧ sectPresent s x = true) →
        ∃ a, t.plant.accounts[i] = some a ∧ AccountOf s i a ∧
          a.shortfall = ((s.plant.accounts[i]).map (·.shortfall)).getD false)) ∧
  (∀ (scan : Bool) (before : State) (is : List (Fin 4)) (s : State),
    accountUpdate scan before is s =
      is.foldl (fun t i => arbiterUpdate i t) (is.foldl (fun t i => shedUpdate scan i t)
        (is.foldl (fun t i => blackoutIfDead before i t) (is.foldl (fun t i => abortUnloads i t) (recompute is s)))) ∧
    UpdateFrame s (accountUpdate scan before is s)) ∧
  (∀ (smp : Samples) (r : Nat) (s : State), s.scan.round = some r →
    let p := elapse r s
    ∃ t, exec (.roundTimerExpiry smp) s = .next t ∧ t.scan.round = some 20 ∧
      (∀ g : Fin 8, t.scan.kw[g] =
        if setPresent s g then (s.scan.kw[g]).take (s.conf.sets[g]).fs smp.kw[g] else s.scan.kw[g]) ∧
      (∀ x : Fin 4, t.scan.sect[x] =
        if sectPresent s x then (p.scan.sect[x]).volts s.conf.general smp.secv[x] else p.scan.sect[x]) ∧
      (∀ x : Fin 4, t.plant.freq[x] = if t.scan.sect[x].valid then some t.scan.sect[x].value else none) ∧
      (s.sync.req = none → s.scan.converting = true →
        t.scan.vin.volt = smp.vin * 1250 / 4095 ∧ t.scan.vref.volt = smp.vref * 1250 / 4095) ∧
      t.start.adoptWait = s.start.adoptWait.map (· - 1) ∧
      (∀ i, getFilter t i = getFilter p i) ∧ (∀ g : Fin 8, t.plant.sets[g].latch = s.plant.sets[g].latch) ∧
      t.plant.partition = s.plant.partition ∧ t.plant.generation = s.plant.generation ∧ t.prof = s.prof ∧
      t.conf = s.conf ∧ t.start.op = s.start.op ∧
      (s.sync.req = none → ∀ g : Fin 8, t.biasOut g = s.biasOut g) ∧
      ∃ q : State,
        (q.scan.kw = t.scan.kw ∧ q.scan.sect = t.scan.sect ∧ q.plant.freq = t.plant.freq ∧ q.scan.round = some 20 ∧
          q.scan.converting = decide (s.scan.selector ≠ .released) ∧ q.scan.selector = s.scan.selector ∧
          q.scan.vin = (if s.scan.converting then (s.scan.vin).take s.conf.general smp.vin else s.scan.vin) ∧
          q.scan.vref = (if s.scan.converting then (s.scan.vref).take s.conf.general smp.vref else s.scan.vref) ∧
          q.scan.chanIn = p.scan.chanIn ∧ q.scan.chanRef = p.scan.chanRef ∧ q.scan.phi = s.scan.phi) ∧
        (q.plant.sets = p.plant.sets ∧ q.plant.accounts = p.plant.accounts ∧ q.plant.partition = p.plant.partition ∧
          q.share = p.share ∧ q.sync = p.sync ∧ q.shed = p.shed ∧ q.resv = p.resv ∧ q.prof = s.prof ∧
          q.conf = s.conf ∧ q.start.adoptWait = t.start.adoptWait) ∧
        Delivers (roundSends p q) p q ∧
        let u := accountUpdate true p four q
        let fell : Prop := s.scan.selector = .settled ∧ s.scan.vref.live ≠ .dead ∧ q.scan.vref.live = .dead
        (¬ fell → t = u) ∧ (p.sync.req = none → t = u) ∧
        ∀ r, p.sync.req = some r →
          ((r.stage = .select ∨ r.stage = .close) → t = u) ∧
          (fell → (r.stage = .matching ∨ r.stage = .phase) → t = syncAbort .lostReference u)) ∧
  (∀ (smp : Samples) (s : State), s.scan.round = none → exec (.roundTimerExpiry smp) s = .next s) ∧
  ∀ (g : GeneralCfg) (code : Nat) (c : SectChan),
    let v := code * 1250 / 4095
    let d := c.volts g code
    d.volt = v ∧ (v ≤ g.deadThr → d.live = .dead) ∧
    (g.deadThr < v → (g.liveThr ≤ v ∨ c.live = .live ∧ g.liveThr ≤ v + 50) → d.live = .live) ∧
    (g.deadThr < v → v < g.liveThr → (c.live = .live → v + 50 < g.liveThr) → d.live = .uncertain) ∧
    (c.live = .live → d.live ≠ .live → d.record = [] ∧ d.valid = false) ∧ d.loss = c.loss ∧
    (c.live ≠ .live → d.live = .live → d.valid = (c.valid || decide (c.record.length = 9))) ∧
    ((c.live = .live ↔ d.live = .live) → d.valid = c.valid) ∧ (d.live = .live → d.record = c.record) ∧
    d.value = c.value ∧
    ∀ x : VoltChan, x.live = c.live → x.take g code = { volt := d.volt, live := d.live }

/-- Section crossings (R34 to R36): a crossing enters the record of nine and restarts the loss timer; a full record gives
the frequency 8 × 10^9 / T8, in range the value of a LIVE section and otherwise the end of validity with cause 2; the end of
the loss time, taken after the ms that remained (log 3), empties the record with cause 1. A change of validity sends its
notice, before those of the account update it brings (log 50), and the Plant Image takes it. -/
def Obligations.SectionFrequencies : Prop :=
  (∀ (x : Fin 4) (time : Nat) (s : State), s.started = true → sectPresent s x = true →
    let c := s.scan.sect[x]
    let full := (c.record ++ [time]).drop (c.record.length + 1 - 9)
    let f := freqOf (full.getLastD 0 - full.headD 0)
    ∃ t, exec (.sectionCrossing x time) s = .next t ∧
      t.scan.sect[x].loss = some s.conf.general.lossTime ∧ t.scan.sect[x].live = c.live ∧
      (full.length ≠ 9 → t.scan.sect[x].record = full ∧ t.scan.sect[x].valid = c.valid) ∧
      (full.length = 9 → 40000 ≤ f → f ≤ 70000 →
        t.scan.sect[x].record = full ∧ t.scan.sect[x].value = f ∧
        t.scan.sect[x].valid = (c.valid || decide (c.live = .live))) ∧
      (full.length = 9 → (f < 40000 ∨ 70000 < f) → t.scan.sect[x].record = [] ∧ t.scan.sect[x].valid = false) ∧
      (∀ y : Fin 4, y ≠ x → t.scan.sect[y] = s.scan.sect[y]) ∧
      (t.scan.sect[x].valid = c.valid → t.plant = s.plant ∧ t.link = s.link) ∧
      (c.valid = false → t.scan.sect[x].valid = true →
        t.plant.freq[x] = some f ∧ Sends (newNotice .freqValid (some x.val) (some (f : Int)) s) s t) ∧
      (c.valid = true → t.scan.sect[x].valid = false →
        t.plant.freq[x] = none ∧ Sends (newNotice .freqInvalid (some x.val) (some 2) s) s t)) ∧
  (∀ span : Nat, 0 < span → freqOf span = 8000000000 / span) ∧
  (∀ (x : Fin 4) (time : Nat) (s : State), (s.started = false ∨ sectPresent s x = false) →
    exec (.sectionCrossing x time) s = .next s) ∧
  ∀ (x : Fin 4) (r : Nat) (s : State), s.scan.sect[x].loss = some r →
    let p := elapse r s
    ∃ t, exec (.sectionLossTimerExpiry x) s = .next t ∧
      t.scan.sect[x] = { s.scan.sect[x] with record := [], valid := false, loss := none } ∧
      (∀ y : Fin 4, y ≠ x → t.scan.sect[y] = p.scan.sect[y]) ∧
      (s.scan.sect[x].valid = true →
        t.plant.freq[x] = none ∧ Sends (newNotice .freqInvalid (some x.val) (some 1) p) p t) ∧
      (s.scan.sect[x].valid = false → t.plant = p.plant ∧ t.link = p.link)

/-- The synchronising measurements (R37 to R39, and 04 R80, R81): while RELEASED no crossing counts; a SYNC-IN crossing
brings f_in up to date and computes φ where f_in and f_ref are valid, and φ lies from −180 to +179; a SYNC-REF crossing, or
the end of a loss time, taken after the ms that remained and nothing where none runs (log 3), brings its channel up to date,
and in MATCH or PHASE a valid f_ref that is lost by either aborts the request with LOST_REFERENCE; in any other stage, or
with none in flight, nothing more is done. -/
def Obligations.SyncMeasurements : Prop :=
  (∀ (time : Nat) (s : State), (s.started = false ∨ s.scan.selector = .released) →
    exec (.syncInCrossing time) s = .next s ∧ exec (.syncRefCrossing time) s = .next s) ∧
  (∀ (time : Nat) (s : State), s.started = true → s.scan.selector ≠ .released →
    let d := s.scan.chanIn.crossing s.conf.general.lossTime time
    let e := s.scan.chanRef.crossing s.conf.general.lossTime time
    exec (.syncInCrossing time) s = .next
      { s with
        scan.chanIn := d,
        scan.phi :=
          if d.freq.isSome && (fRef s).isSome then some (phaseOf time s.scan.chanRef.record) else none } ∧
    (((fRef s).isNone = true ∨ e.freq.isSome = true ∨
        ∀ r, s.sync.req = some r → r.stage = .select ∨ r.stage = .close) →
      exec (.syncRefCrossing time) s = .next
        { s with scan.chanRef := e, scan.phi := if e.freq.isSome then s.scan.phi else none }) ∧
    ((fRef s).isSome = true → e.freq = none → ∀ r, s.sync.req = some r → (r.stage = .matching ∨ r.stage = .phase) →
      ∃ t, exec (.syncRefCrossing time) s = .next t ∧ t.sync.req = none ∧ t.sync.lastAbort = some .lostReference ∧
        Sends (newNotice .syncAborted (some r.obj.code) (some 3) s) s t ∧ t.scan.selector = .released ∧
        t.plant.accounts = s.plant.accounts ∧ t.shed = s.shed ∧ t.resv = s.resv ∧ t.prof = s.prof)) ∧
  (∀ (time : Nat) (ref : List Nat), -180 ≤ phaseOf time ref ∧ phaseOf time ref ≤ 179) ∧
  (∀ (time : Nat) (ref : List Nat),
    let d := time - ref.getLastD 0
    let period := (ref.getLastD 0 - ref.headD 0) / 8
    0 < period → phaseOf time ref =
      if min 359 (d * 360 / period) ≤ 180 then -((min 359 (d * 360 / period) : Nat) : Int)
      else 360 - ((min 359 (d * 360 / period) : Nat) : Int)) ∧
  (∀ (r : Nat) (s : State), s.scan.chanIn.loss = some r →
    exec (.syncLossTimerExpiry .incoming) s = .next
      { elapse r s with scan.chanIn := { record := [], freq := none, loss := none }, scan.phi := none }) ∧
  (∀ s : State, (s.scan.chanIn.loss = none → exec (.syncLossTimerExpiry .incoming) s = .next s) ∧
    (s.scan.chanRef.loss = none → exec (.syncLossTimerExpiry .reference) s = .next s)) ∧
  ∀ (r : Nat) (s : State), s.scan.chanRef.loss = some r →
    let p := elapse r s
    (((fRef s).isNone = true ∨ ∀ q, s.sync.req = some q → q.stage = .select ∨ q.stage = .close) →
      exec (.syncLossTimerExpiry .reference) s = .next
        { p with scan.chanRef := { record := [], freq := none, loss := none }, scan.phi := none }) ∧
    ∀ q, (fRef s).isSome = true → s.sync.req = some q → (q.stage = .matching ∨ q.stage = .phase) →
      ∃ t, exec (.syncLossTimerExpiry .reference) s = .next t ∧ t.sync.req = none ∧ t.sync.offset = 0 ∧
        t.sync.lastAbort = some .lostReference ∧ Sends (newNotice .syncAborted (some q.obj.code) (some 3) p) p t ∧
        t.scan.selector = .released ∧ t.plant.accounts = p.plant.accounts ∧ t.shed = p.shed ∧ t.resv = p.resv ∧
        t.prof = s.prof

/-! ### Load sharing (03) -/

/-- The law of R45: with an effective rating to share by, the targets of the share sets sum to at most the pool, and fall
short of it by fewer kW than there are share sets. -/
def Obligations.ShareTargetsFillThePool : Prop :=
  ∀ (s : State) (i : Fin 4) (freq : Option Nat) (on : List (Fin 8)),
    let f := figures s i freq on
    let shares := on.filter fun g => decide (roleOf s g = .share)
    0 < f.prop →
      (shares.map (shareTarget s f)).sum ≤ f.pool ∧ f.pool < (shares.map (shareTarget s f)).sum + shares.length

/-- The sharing pass, taken after the ms that remained (log 3): the period timer restarts with the period held; with the
ramp counters limited to N, each online set
of an island that is not DEAD moves its bias by its step within −1000 to +1000 and its ramp counter by R50, and a RAMPING
one whose counter is then 0, or whose valid reading is at most rating × threshold / 1000, opens with its pulse and its open
confirm wait; a set that is not online stands. Nothing but the sets' sharing records changes, and no notice but
BIAS_SATURATED is sent. The roles are those
of R43; the pool, the proportional rating and the frequency error those of R44, R45 and R47, with the sync offset in f_target
of the incoming island of a tie sync alone (R53); the steps those of R46 and R48; the ramp counters those of R50. Two choices
are the model's: every online set above a lowered N is limited to it, one in OPENING too (log 54), and with share sets but no
proportional rating some target is taken, which is free (log 37). -/
def Obligations.SharingPassSteps : Prop :=
  (∀ (r : Nat) (s : State), s.share.period = some r →
    let p := elapse r s
    let w := settings s
    let q : State := { p with share.sets := tab (fun _ x => { x with k := min x.k w.rampN }) p.share.sets }
    ∃ t, exec .sharingPeriodExpiry s = .next t ∧ t.share.period = some w.sharePeriod ∧
      (∀ (i : Fin 4) (a : Account) (g : Fin 8), s.plant.accounts[i] = some a → a.dead = false → g ∈ onlineSets s i →
        t.biasOut g =
          (match stepOf q (figures q i a.freq (onlineSets s i)) g with
            | some st => clamp (-1000) 1000 (s.biasOut g + st)
            | none => s.biasOut g) ∧
        t.share.sets[g].k = rampNext q w.rampN g ∧
        (s.plant.sets[g].state = .unloading → s.share.sets[g].unload = .ramping →
          if rampNext q w.rampN g = 0 ∨
              (s.scan.kw[g].validity = .valid ∧
                s.scan.kw[g].value ≤ (s.conf.sets[g]).rating * w.openThr / 1000) then
            t.share.sets[g].unload = .opening ∧ t.share.sets[g].openPulse = some s.conf.sync.pulse ∧
              t.share.sets[g].openWait = some s.conf.sync.confirm
          else t.share.sets[g].unload = .ramping ∧ t.share.sets[g].openPulse = p.share.sets[g].openPulse)) ∧
      (∀ g : Fin 8, s.plant.sets[g].state.isOnline = false →
        t.share.sets[g].bias = s.share.sets[g].bias ∧ t.share.sets[g].k = s.share.sets[g].k ∧
        t.share.sets[g].unload = s.share.sets[g].unload ∧ t.gcbOpen g = p.gcbOpen g) ∧
      (∃ ns, Delivers ns p t ∧ ∀ n ∈ ns, n.kind = .biasSaturated) ∧
      (∀ l : Link,
        (t.link.get l).active = (p.link.get l).active ∧ (t.link.get l).timer = (p.link.get l).timer ∧
          (t.link.get l).sending = (p.link.get l).sending ∧ (t.link.get l).waiting = (p.link.get l).waiting ∧
          (t.link.get l).frame = (p.link.get l).frame) ∧
      t.link.clock = p.link.clock ∧ t.link.joint = p.link.joint ∧
      t.plant = p.plant ∧ t.scan = p.scan ∧ t.sync = p.sync ∧ t.shed = p.shed ∧ t.resv = p.resv ∧ t.line = p.line ∧
      t.prof = s.prof ∧ t.start = s.start ∧ t.conf = s.conf ∧ t.pending = s.pending) ∧
  (∀ (s : State) (g : Fin 8),
    let held : Prop := s.scan.kw[g].validity ≠ .valid ∨ s.prof.active.sets[g].mode = .hold ∨
      s.plant.sets[g].state = .unloading ∧ s.share.sets[g].unload = .opening
    (held → roleOf s g = .held) ∧
    (¬ held → s.prof.active.sets[g].mode = .share → roleOf s g = .share) ∧
    (¬ held → s.prof.active.sets[g].mode = .base → roleOf s g = .base)) ∧
  (∀ (s : State) (i : Fin 4) (freq : Option Nat) (on : List (Fin 8)),
    let n := (settings s).rampN
    let f := figures s i freq on
    let eff (g : Fin 8) := s.conf.sets[g].rating * s.share.sets[g].k / n
    let base (g : Fin 8) := if s.plant.sets[g].state = .unloading
      then s.prof.active.sets[g].base * s.share.sets[g].k / n else s.prof.active.sets[g].base
    let ofRole (r : Role) := on.filter fun g => decide (roleOf s g = r)
    let sumKw (l : List (Fin 8)) : Nat := (l.map fun g => s.scan.kw[g].value).sum
    let err (target : Nat) (g : Fin 8) : Int :=
      clamp (-1000) 1000 ((((target : Int) - (s.scan.kw[g].value : Int)) * 1000).tdiv (s.conf.sets[g].rating : Int))
    let lim (x : Int) : Int := clamp (-((settings s).smax : Int)) (settings s).smax (x.tdiv 64)
    let gl : Int := (settings s).gl
    let gf : Int := (settings s).gf
    (f.pool : Int) = max 0 ((sumKw on : Int) - ((ofRole .base).map base).sum - sumKw (ofRole .held)) ∧
    f.prop = ((ofRole .share).map eff).sum ∧ (f.hasShare = true ↔ ∃ g ∈ on, roleOf s g = .share) ∧
    (freq = none → f.ferr = 0) ∧
    (∀ m : Nat, freq = some m →
      ((∀ r, s.sync.req = some r → r.inIsland ≠ some i) →
        f.ferr = clamp (-2000) 2000 ((s.conf.general.nominal : Int) - m)) ∧
      ∀ r, s.sync.req = some r → r.inIsland = some i →
        f.ferr = clamp (-2000) 2000 ((s.conf.general.nominal : Int) + s.sync.offset - m)) ∧
    ∀ g : Fin 8,
      (roleOf s g = .held → stepOf s f g = none) ∧
      (roleOf s g = .share → 0 < f.prop →
        stepOf s f g = some (lim (gl * err (f.pool * eff g / f.prop) g + gf * f.ferr))) ∧
      (roleOf s g = .share → f.prop = 0 → ∃ target, stepOf s f g = some (lim (gl * err target g + gf * f.ferr))) ∧
      (roleOf s g = .base → f.hasShare = true → stepOf s f g = some (lim (gl * err (base g) g))) ∧
      (roleOf s g = .base → f.hasShare = false → stepOf s f g = some (lim (gl * err (base g) g + gf * f.ferr)))) ∧
  ∀ (s : State) (n : Nat) (g : Fin 8),
    let k := s.share.sets[g].k
    let m := s.prof.active.sets[g].mode
    (s.plant.sets[g].state = .online → m = .share → s.scan.kw[g].validity = .valid → k ≤ n →
      rampNext s n g = min (k + 1) n) ∧
    (s.plant.sets[g].state = .online → m = .share → s.scan.kw[g].validity ≠ .valid → rampNext s n g = k) ∧
    (s.plant.sets[g].state = .online → (m = .base ∨ m = .hold) → rampNext s n g = n) ∧
    (s.plant.sets[g].state = .unloading → s.share.sets[g].unload = .ramping → rampNext s n g = k - 1) ∧
    (s.plant.sets[g].state = .unloading → s.share.sets[g].unload = .opening → rampNext s n g = k)

/-- The law of R41 at a step, with SATURATED (R49): a bias that would pass a bound takes the bound, sets SATURATED and,
where it was clear, sends BIAS_SATURATED; a bias within the bounds is taken, and SATURATED stays set only at the bound where
it was set. -/
def Obligations.StepSaturates : Prop :=
  ∀ (g : Fin 8) (step : Int) (s : State),
    let b := s.biasOut g + step
    let t := applyStep g step s
    t.biasOut g = clamp (-1000) 1000 b ∧
    (1000 < b → t.share.sets[g].sat = .atMax ∧
      (s.share.sets[g].sat = .clear → Sends (newNotice .biasSaturated (some g.val) (some 1000) s) s t)) ∧
    (b < -1000 → t.share.sets[g].sat = .atMin ∧
      (s.share.sets[g].sat = .clear → Sends (newNotice .biasSaturated (some g.val) (some (-1000)) s) s t)) ∧
    (-1000 ≤ b → b ≤ 1000 →
      t.share.sets[g].sat = (if s.share.sets[g].sat = .atMax ∧ b = 1000 then .atMax
        else if s.share.sets[g].sat = .atMin ∧ b = -1000 then .atMin else .clear) ∧ t.link = s.link) ∧
    (s.share.sets[g].sat ≠ .clear → t.link = s.link) ∧
    (∀ h : Fin 8, h ≠ g → t.share.sets[h] = s.share.sets[h])

/-- UNLOAD (R55), its checks in their order; one that passes makes the set UNLOADING and RAMPING, and its island's account
is updated. The end of a GCB-OPEN pulse releases the output and nothing else. The end of an open confirm wait fails the
unload of a set still UNLOADING (R58): ONLINE with k = N, its bias as it stands, no unload, GCB-OPEN released, UNLOAD_FAILED
sent; of any other set it ends the wait alone. Both ends are taken after the ms that remained (log 3). An account update
aborts the RAMPING unloads of its island (R59), with cause 2 where no set of it is ONLINE, otherwise with cause 1 where it is
OVER (log 17): ONLINE with k = N, the bias as it stands, UNLOAD_ABORTED sent, and the account recomputed. -/
def Obligations.UnloadRuns : Prop :=
  (∀ (l : Link) (seq : Byte) (s : State), Takes l s →
     let v := validFrame l s
     (∀ n : Byte, 8 ≤ n.toNat → exec (.unload l seq [n]) s = .next (turnedAway l 18 seq (.refused .badField) s)) ∧
     ∀ g : Fin 8,
       let c := Instr.unload l seq [BitVec.ofNat 8 g.val]
       (setPresent s g = false → exec c s = .next (turnedAway l 18 seq (.refused .notPresent) s)) ∧
       (setPresent s g = true → s.running = false →
         exec c s = .next (turnedAway l 18 seq (.refused .wrongState) s)) ∧
       (setPresent s g = true → s.running = true → s.share.sets[g].unload ≠ .none →
         exec c s = .next (turnedAway l 18 seq .busy s)) ∧
       (setPresent s g = true → s.running = true → s.share.sets[g].unload = .none →
         (s.plant.sets[g].state ≠ .online → exec c s = .next (turnedAway l 18 seq (.refused .notReady) s)) ∧
         ∀ (i : Fin 4) (a : Account), s.plant.sets[g].state = .online → setIsland s g = some i →
           s.plant.accounts[i] = some a →
           ((∀ h ∈ capacitySets s i, h = g) → exec c s = .next (turnedAway l 18 seq (.refused .lastSet) s)) ∧
           ((∃ h ∈ capacitySets s i, h ≠ g) →
             let part := (s.conf.sets[g]).rating * (settings s).loadLimit / 1000
             ((a.isOver = true ∨ a.cap < a.load + a.resv + part) →
               exec c s = .next (turnedAway l 18 seq (.refused .capacity) s)) ∧
             (a.isOver = false → a.load + a.resv + part ≤ a.cap →
               let q := updShare g (fun r => { r with unload := .ramping }) (setSetState g .unloading v)
               exec c s = .next (answerTo l 18 seq .ok (updateSetIsland v g q)) ∧
               UpdateFrame q (updateSetIsland v g q))))) ∧
  (∀ (i : Fin 4) (a : Account) (s : State), s.plant.accounts[i] = some a →
    let t := abortUnloads i s
    let ramping (g : Fin 8) : Prop :=
      g ∈ onlineSets s i ∧ s.plant.sets[g].state = .unloading ∧ s.share.sets[g].unload = .ramping
    let cause : Option Int := if capacitySets s i = [] then some 2 else if a.isOver then some 1 else none
    ((cause = none ∨ ∀ g, ¬ ramping g) → t = s) ∧
    ∀ c, cause = some c → (∃ g, ramping g) →
      (∀ g, ramping g → t.plant.sets[g].state = .online ∧ t.share.sets[g].k = (settings s).rampN ∧
        t.share.sets[g].unload = .none ∧ t.biasOut g = s.biasOut g ∧
        Sent (newNotice .unloadAborted (some g.val) (some c) s) t) ∧
      (∀ g, ¬ ramping g → t.plant.sets[g] = s.plant.sets[g] ∧ t.share.sets[g] = s.share.sets[g]) ∧
      (∀ b, t.plant.accounts[i] = some b → AccountOf t i b) ∧
      (∀ j : Fin 4, j ≠ i → t.plant.accounts[j] = s.plant.accounts[j]) ∧ UpdateFrame s t) ∧
  (∀ (g : Fin 8) (r : Nat) (s : State), s.share.sets[g].openPulse = some r →
    exec (.gcbOpenPulseExpiry g) s = .next (updShare g (fun x => { x with openPulse := none }) (elapse r s))) ∧
  ∀ (g : Fin 8) (r : Nat) (s : State), s.share.sets[g].openWait = some r →
    let p := elapse r s
    (s.plant.sets[g].state ≠ .unloading →
      exec (.openConfirmWaitExpiry g) s = .next (updShare g (fun x => { x with openWait := none }) p)) ∧
    (s.plant.sets[g].state = .unloading →
      ∃ t, exec (.openConfirmWaitExpiry g) s = .next t ∧ t.plant.sets[g].state = .online ∧
        t.share.sets[g].k = (settings s).rampN ∧ t.biasOut g = s.biasOut g ∧ t.share.sets[g].unload = .none ∧
        t.share.sets[g].openWait = none ∧ t.gcbOpen g = false ∧
        Sent (newNotice .unloadFailed (some g.val) none p) t ∧
        (∀ h : Fin 8, h ≠ g → t.biasOut h = s.biasOut h ∧ t.gcbOpen h = p.gcbOpen h) ∧
        (∀ i, getFilter t i = getFilter p i) ∧ t.scan = p.scan ∧ t.sync = p.sync ∧ t.prof = s.prof ∧
        t.start = s.start ∧ t.conf = s.conf)

/-! ### Synchroniser (04) -/

/-- CONNECT SET (R65), its checks in their order; one that passes makes the set INCOMING, drives its code, and is in SELECT
with the settle timer and the time limit running. -/
def Obligations.ConnectSetChecks : Prop :=
  ∀ (l : Link) (seq hi lo : Byte) (s : State), Takes l s →
    let v := validFrame l s
    (∀ n : Byte, 8 ≤ n.toNat →
      exec (.connectSet l seq [n, hi, lo]) s = .next (turnedAway l 24 seq (.refused .badField) s)) ∧
    ∀ g : Fin 8,
      let c := Instr.connectSet l seq [BitVec.ofNat 8 g.val, hi, lo]
      (s.running = false → exec c s = .next (turnedAway l 24 seq (.refused .wrongState) s)) ∧
      (s.running = true → s.sync.req.isSome = true → exec c s = .next (turnedAway l 24 seq .busy s)) ∧
      (s.running = true → s.sync.req = none →
        ((hi ++ lo).toNat ≠ s.plant.generation → exec c s = .next (turnedAway l 24 seq (.refused .stale) s)) ∧
        ((hi ++ lo).toNat = s.plant.generation →
          (setPresent s g = false → exec c s = .next (turnedAway l 24 seq (.refused .notPresent) s)) ∧
          (setPresent s g = true →
            (s.plant.sets[g].state = .tripped → exec c s = .next (turnedAway l 24 seq (.refused .tripped) s)) ∧
            (s.plant.sets[g].state ≠ .tripped →
              (s.plant.sets[g].state ≠ .offline ∨ s.plant.ready[g].filtered ≠ some true ∨ s.gcbOpen g = true) →
              exec c s = .next (turnedAway l 24 seq (.refused .notReady) s)) ∧
            (s.plant.sets[g].state = .offline → s.plant.ready[g].filtered = some true → s.gcbOpen g = false →
              ∃ t r, exec c s = .next (answerTo l 24 seq .ok t) ∧ t.sync.req = some r ∧
                r.obj = .set g ∧ r.origin = l ∧ r.stage = .select ∧ r.refSect = (s.conf.sets[g]).sect ∧
                r.inSect = none ∧ r.ringClose = false ∧ r.coarse = false ∧ r.fine = false ∧ r.prev = none ∧
                r.settle = some s.conf.sync.settle ∧ r.limit = some (s.conf.sync.limit * 1000) ∧
                r.pulse = none ∧ t.sync.lastAbort = none ∧ t.selector = g.val ∧ t.scan.selector = .settling ∧
                t.plant.sets[g] = { s.plant.sets[g] with state := .incoming } ∧
                (∀ h : Fin 8, h ≠ g → t.plant.sets[h] = s.plant.sets[h]) ∧ t.share = s.share ∧ t.shed = s.shed ∧
                t.resv = s.resv ∧ t.line = s.line ∧ t.prof = s.prof ∧ t.link = v.link ∧ t.start = s.start))))

/-- CLOSE TIE (R66), its checks in their order; one that passes drives 8 + t and is in SELECT, a ring close where both
sections are in one island. -/
def Obligations.CloseTieChecks : Prop :=
  ∀ (l : Link) (seq hi lo : Byte) (s : State), Takes l s →
    let v := validFrame l s
    (∀ n : Byte, 4 ≤ n.toNat →
      exec (.closeTie l seq [n, hi, lo]) s = .next (turnedAway l 25 seq (.refused .badField) s)) ∧
    ∀ k : Fin 4,
      let c := Instr.closeTie l seq [BitVec.ofNat 8 k.val, hi, lo]
      (s.running = false → exec c s = .next (turnedAway l 25 seq (.refused .wrongState) s)) ∧
      (s.running = true → s.sync.req.isSome = true → exec c s = .next (turnedAway l 25 seq .busy s)) ∧
      (s.running = true → s.sync.req = none →
        ((hi ++ lo).toNat ≠ s.plant.generation → exec c s = .next (turnedAway l 25 seq (.refused .stale) s)) ∧
        ((hi ++ lo).toNat = s.plant.generation →
          (tieUsable s k = false → exec c s = .next (turnedAway l 25 seq (.refused .notPresent) s)) ∧
          (tieUsable s k = true → s.plant.tie[k].filtered ≠ some false →
            exec c s = .next (turnedAway l 25 seq (.refused .alreadyClosed) s)) ∧
          (tieUsable s k = true → s.plant.tie[k].filtered = some false →
            ∃ t r, exec c s = .next (answerTo l 25 seq .ok t) ∧ t.sync.req = some r ∧
              r.obj = .tie k ∧ r.origin = l ∧ r.stage = .select ∧ r.refSect = tieLow k ∧
              r.inSect = some (tieHigh k) ∧ r.inIsland = islandOf s (tieHigh k) ∧
              r.ringClose = decide (islandOf s (tieLow k) = islandOf s (tieHigh k)) ∧ r.coarse = false ∧
              r.fine = false ∧ r.prev = none ∧ r.settle = some s.conf.sync.settle ∧
              r.limit = some (s.conf.sync.limit * 1000) ∧ t.sync.offset = 0 ∧ t.sync.lastAbort = none ∧
              t.selector = 8 + k.val ∧ t.scan.selector = .settling ∧ t.plant = s.plant ∧ t.share = s.share ∧
              t.shed = s.shed ∧ t.resv = s.resv ∧ t.line = s.line ∧ t.prof = s.prof ∧ t.link = v.link ∧
              t.start = s.start)))

/-- An abort (R79, R80) ends the request: no close line, code 15, offset 0, its cause kept and SYNC_ABORTED sent with it; an
INCOMING set of the request becomes OFFLINE and is parked, its bias kept outside RUNNING (03 R54; at a HOLD, log 27). CANCEL
SYNC, the time limit in MATCH and PHASE, and the close confirm time abort with their causes; the end of a close pulse
releases the close line alone. The three ends are taken after the ms that remained (log 3). -/
def Obligations.SyncRequestEnds : Prop :=
  (∀ (cause : AbortCause) (r : SyncReq) (s : State), s.sync.req = some r →
    let t := syncAbort cause s
    t.sync = { req := none, offset := 0, lastAbort := some cause } ∧ t.selector = 15 ∧ t.scan.selector = .released ∧
    (∀ g : Fin 8, t.gcbClose g = false) ∧ (∀ k : Fin 4, t.tieClose k = false) ∧
    (∀ l : Link, (t.link.get l).notices =
      ((s.link.get l).append (newNotice .syncAborted (some r.obj.code) (some (cause.code : Int)) s)).notices) ∧
    (∀ g : Fin 8, (r.obj = .set g ∧ s.plant.sets[g].state = .incoming) →
      t.plant.sets[g].state = .offline ∧ t.share.sets[g].k = 0 ∧
      t.biasOut g = if s.running then (s.conf.sets[g]).park else s.biasOut g) ∧
    (∀ g : Fin 8, ¬ (r.obj = .set g ∧ s.plant.sets[g].state = .incoming) →
      t.plant.sets[g] = s.plant.sets[g] ∧ t.share.sets[g] = s.share.sets[g]) ∧
    t.shed = s.shed ∧ t.resv = s.resv ∧ t.line = s.line ∧ t.prof = s.prof ∧ t.start = s.start ∧ t.conf = s.conf) ∧
  (∀ (l : Link) (seq : Byte) (s : State), Takes l s →
    (s.operating = false → exec (.cancelSync l seq []) s = .next (turnedAway l 26 seq (.refused .wrongState) s)) ∧
    (s.operating = true → s.sync.req = none →
      exec (.cancelSync l seq []) s = .next (turnedAway l 26 seq (.refused .notFound) s)) ∧
    (s.operating = true → s.sync.req.isSome = true →
      exec (.cancelSync l seq []) s = .next (answerTo l 26 seq .ok (syncAbort .cancelled (validFrame l s))))) ∧
  (∀ (r : SyncReq) (n : Nat) (s : State), s.sync.req = some r →
    ((r.stage = .matching ∨ r.stage = .phase) → r.limit = some n →
      exec .syncTimeLimitExpiry s = .next (syncAbort .timeout (elapse n s))) ∧
    (r.confirm = some n → exec .closeConfirmExpiry s = .next (syncAbort .closeFailed (elapse n s))) ∧
    (r.pulse = some n → ∃ t, exec .closePulseExpiry s = .next t ∧
      t.sync.req = (elapse n s).sync.req.map (fun x => { x with pulse := none }) ∧
      (∀ g : Fin 8, t.gcbClose g = false) ∧ (∀ k : Fin 4, t.tieClose k = false) ∧ t.plant = (elapse n s).plant ∧
      t.share = (elapse n s).share ∧ Quiet s t)) ∧
  AbortCause.code .cancelled = 1 ∧ AbortCause.code .timeout = 2 ∧ AbortCause.code .closeFailed = 7

/-- The settle end (R68 to R70), taken after the ms that remained (log 3): the selector is SETTLED and the dead-bus test
leads to MATCH with the pass timer running, to CLOSE with the close line asserted, or to an abort. For a set: a LIVE section to MATCH; a DEAD one with VIN LIVE, its
island DEAD and permission to CLOSE; both DEAD to BOTH_DEAD; anything else to NO_DEAD_BUS. For a tie the two sections are
tested the same way, either side being the DEAD one. -/
def Obligations.DeadBusTest : Prop :=
  (∀ (r : SyncReq) (n : Nat) (s : State), s.sync.req = some r → r.settle = some n →
    let p := elapse n s
    ∃ t, exec .selectorSettleExpiry s = .next t ∧
      (busTest s r.obj = .toMatch → t.scan.selector = .settled ∧ t.sync.req =
        p.sync.req.map (fun x => { x with settle := none, stage := .matching, pass := some 100 })) ∧
      (busTest s r.obj = .toClose → t.scan.selector = .settled ∧ t.sync.req =
        p.sync.req.map (fun x =>
          { x with settle := none, stage := .close, limit := none, pulse := some r.par.pulse,
                   confirm := some r.par.confirm, deadBus := true })) ∧
      (∀ c, busTest s r.obj = .abort c → t.sync.req = none ∧ t.sync.lastAbort = some c) ∧
      t.shed = p.shed ∧ t.resv = p.resv ∧ t.line = p.line ∧ t.prof = s.prof ∧ t.start = s.start) ∧
  (∀ (g : Fin 8) (s : State),
    let x := (s.conf.sets[g]).sect
    busTest s (.set g) =
      if s.scan.sect[x].live = .live then .toMatch
      else if s.scan.sect[x].live = .dead ∧ s.scan.vin.live = .dead then .abort .bothDead
      else if s.scan.sect[x].live = .dead ∧ s.scan.vin.live = .live ∧ islandDead s x = true ∧
          (s.conf.sections[x]).deadClose = true then .toClose
      else .abort .noDeadBus) ∧
  ∀ (k : Fin 4) (s : State),
    let a := s.scan.sect[tieLow k].live
    let b := s.scan.sect[tieHigh k].live
    busTest s (.tie k) =
      if a = .live ∧ b = .live then .toMatch
      else if a = .dead ∧ b = .dead then .abort .bothDead
      else if (s.conf.ties[k]).deadClose = true ∧
          (a = .dead ∧ b = .live ∧ islandDead s (tieLow k) = true ∨
            a = .live ∧ b = .dead ∧ islandDead s (tieHigh k) = true) then .toClose
      else .abort .noDeadBus

/-- A sync pass (R71 to R75), taken after the ms that remained (log 3): the pass timer restarts with 100 ms; the coarse lock
follows its run of qualifying passes; MATCH goes to PHASE with the coarse lock, PHASE back to MATCH without it, and to CLOSE
with the fine lock, whose condition is that of R75; CLOSE stays. A pass that begins and ends in MATCH or PHASE steps the bias
of the incoming set, or the offset of the tie, toward the slip target by the step of R73 and R74, but for a ring close; no
other bias moves. The previous angle is the pass's in PHASE and CLOSE and on going there, CLOSE keeps evaluating the fine
lock, and the ring count is 0 on going to PHASE. CLOSE is entered with the pulse and confirm timers started and the close line
asserted (R77). The notices of the pass are SYNC_LOCK of the locks whose edge is selected (R76), coarse before fine (that
order is log 21). -/
def Obligations.SyncPassActs : Prop :=
  (∀ (n : Nat) (r : SyncReq) (s : State), s.sync.req.bind (·.pass) = some n → (elapse n s).sync.req = some r →
    let p := elapse n s
    let c := coarseStep p r
    ∃ t q, exec .syncPass s = .next t ∧ t.sync.req = some q ∧ q.obj = r.obj ∧ q.pass = some 100 ∧
      q.coarse = c.coarse ∧ q.qual = c.qual ∧ q.limit = (if q.stage = .close ∧ r.stage ≠ .close then none else r.limit) ∧
      (r.stage = .matching → q.stage = if c.coarse then .phase else .matching) ∧
      (r.stage = .phase → c.coarse = false → q.stage = .matching ∧ q.prev = none) ∧
      (r.stage = .phase → c.coarse = true →
        q.stage = (if (fineStep p r).fine then .close else .phase) ∧ q.prev = p.scan.phi) ∧
      (r.stage = .close → q.stage = .close) ∧
      (r.stage = .matching → q.fine = r.fine ∧ (c.coarse = true → q.prev = p.scan.phi ∧ q.ringQual = 0) ∧
        (c.coarse = false → q.prev = r.prev)) ∧
      (r.stage = .phase → c.coarse = false → q.fine = r.fine) ∧
      ((r.stage = .close ∨ r.stage = .phase ∧ c.coarse = true) →
        q.fine = (fineStep p r).fine ∧ q.ringQual = (fineStep p r).ringQual ∧ q.prev = p.scan.phi) ∧
      (q.stage = .close → r.stage ≠ .close → q.pulse = some r.par.pulse ∧ q.confirm = some r.par.confirm ∧
        (∀ g : Fin 8, r.obj = .set g → t.gcbClose g = true) ∧ ∀ k : Fin 4, r.obj = .tie k → t.tieClose k = true) ∧
      ((q.stage ≠ .close ∨ r.stage = .close) → q.pulse = r.pulse ∧ q.confirm = r.confirm) ∧
      Delivers
        ((if r.coarse = false ∧ q.coarse = true ∧ (r.par.coarseEdges = .rise ∨ r.par.coarseEdges = .both) then
            [newNotice .syncLock (some 0) (some 1) p]
          else if r.coarse = true ∧ q.coarse = false ∧ (r.par.coarseEdges = .fall ∨ r.par.coarseEdges = .both) then
            [newNotice .syncLock (some 0) (some 0) p]
          else []) ++
        (if r.fine = false ∧ q.fine = true ∧ (r.par.fineEdges = .rise ∨ r.par.fineEdges = .both) then
            [newNotice .syncLock (some 1) (some 1) p]
          else if r.fine = true ∧ q.fine = false ∧ (r.par.fineEdges = .fall ∨ r.par.fineEdges = .both) then
            [newNotice .syncLock (some 1) (some 0) p]
          else [])) p t ∧
      (∀ g : Fin 8, t.biasOut g =
        if r.obj = .set g ∧ r.matches = true ∧ q.matches = true ∧ r.ringClose = false then
          clamp (-1000) 1000 (s.biasOut g + speedStep p r)
        else s.biasOut g) ∧
      t.sync.offset =
        (match r.obj with
          | .tie _ =>
            if r.matches = true ∧ q.matches = true ∧ r.ringClose = false then
              clamp (-2000) 2000 (s.sync.offset + speedStep p r)
            else s.sync.offset
          | .set _ => s.sync.offset) ∧
      t.plant = p.plant ∧ t.scan = p.scan ∧ t.shed = p.shed ∧ t.resv = p.resv ∧ t.line = p.line ∧ t.prof = s.prof ∧
      t.start = s.start ∧ t.conf = s.conf) ∧
  (∀ (s : State) (r : SyncReq),
    (coarseHolds s r = true →
      (coarseStep s r).qual = min (r.qual + 1) r.par.qualPasses ∧
      (coarseStep s r).coarse = (r.coarse || decide (min (r.qual + 1) r.par.qualPasses = r.par.qualPasses))) ∧
    (coarseHolds s r = false → (coarseStep s r).qual = 0 ∧ (coarseStep s r).coarse = false) ∧
    (coarseHolds s r = true ↔ ∃ v, slipOf s = some v ∧
      -r.par.slipWindow ≤ v - r.target ∧ v - r.target ≤ r.par.slipWindow ∧
      s.scan.vin.live = .live ∧ s.scan.vref.live = .live ∧
      -r.par.voltWindow ≤ (s.scan.vin.volt : Int) - s.scan.vref.volt ∧
      (s.scan.vin.volt : Int) - s.scan.vref.volt ≤ r.par.voltWindow)) ∧
  (∀ (s : State) (r : SyncReq),
    (r.ringClose = false → ((fineStep s r).fine = true ↔ ∃ p v q, s.scan.phi = some p ∧ slipOf s = some v ∧
      r.prev = some q ∧ p.natAbs < q.natAbs ∧
      -r.par.phaseWindow ≤ predicted p v r.par.tClose ∧ predicted p v r.par.tClose ≤ r.par.phaseWindow)) ∧
    (r.ringClose = true →
      ((∃ p, s.scan.phi = some p ∧ -r.par.phaseWindow ≤ p ∧ p ≤ r.par.phaseWindow) →
        (fineStep s r).ringQual = min (r.ringQual + 1) r.par.qualPasses ∧
        ((fineStep s r).fine = true ↔ min (r.ringQual + 1) r.par.qualPasses = r.par.qualPasses)) ∧
      ((¬ ∃ p, s.scan.phi = some p ∧ -r.par.phaseWindow ≤ p ∧ p ≤ r.par.phaseWindow) →
        (fineStep s r).ringQual = 0 ∧ (fineStep s r).fine = false))) ∧
  (∀ (s : State) (r : SyncReq),
    let smax : Int := (settings s).smax
    (slipOf s = none → speedStep s r = 0) ∧
    ∀ v, slipOf s = some v → r.ringClose = false →
      speedStep s r = clamp (-smax) smax ((r.par.gain * (r.par.slipTarget - v)).tdiv 64)) ∧
  ∀ (phi slip tClose : Int), -180 ≤ predicted phi slip tClose ∧ predicted phi slip tClose ≤ 179 ∧
    ∃ n : Int, predicted phi slip tClose = (phi * 1000000 + slip * tClose * 360).tdiv 1000000 + 360 * n

/-! ### Sets and banked fields (01 R5, R11, 05 R94) -/

/-- R11: CLEAR TRIP, its checks in their order; one that passes clears the latch, makes the set OFFLINE and sends
TRIP_CLEARED; no account changes. That the notice carries the set as its subject and no value is log 46. -/
def Obligations.ClearTripChecks : Prop :=
  ∀ (l : Link) (seq : Byte) (s : State), Takes l s →
    let v := validFrame l s
    (∀ n : Byte, 8 ≤ n.toNat → exec (.clearTrip l seq [n]) s = .next (turnedAway l 19 seq (.refused .badField) s)) ∧
    ∀ g : Fin 8,
      let c := Instr.clearTrip l seq [BitVec.ofNat 8 g.val]
      (setPresent s g = false → exec c s = .next (turnedAway l 19 seq (.refused .notPresent) s)) ∧
      (setPresent s g = true → s.running = false →
        exec c s = .next (turnedAway l 19 seq (.refused .wrongState) s)) ∧
      (setPresent s g = true → s.running = true →
        (s.plant.sets[g].state ≠ .tripped → exec c s = .next (turnedAway l 19 seq (.refused .notReady) s)) ∧
        (s.plant.sets[g].state = .tripped →
          (s.plant.gcb[g].filtered ≠ some false →
            exec c s = .next (turnedAway l 19 seq (.refused .notReady) s)) ∧
          (s.plant.gcb[g].filtered = some false →
            ((s.conf.sets[g]).sense = .level → s.plant.trip[g].filtered = some true →
              exec c s = .next (turnedAway l 19 seq (.refused .stillActive) s)) ∧
            (((s.conf.sets[g]).sense = .edge ∨ s.plant.trip[g].filtered ≠ some true) →
              exec c s = .next
                (answerTo l 19 seq .ok
                  (notify .tripCleared (some g.val) none
                    (updSet g (fun _ => { state := .offline, latch := false }) v))))))) 

/-- SET MODE, SET BASE POINT and SET GROUP (R5, R94), their checks in their order: the field of the ACTIVE bank is written,
clamped to its range with the CLAMPED mark where that changes it, and the value now held is answered. SET MODE updates the
account of the set's island (with the mode already held too, log 52); a change of level tests the restore gates of the group's island (06 R115), and a
write that leaves the level does nothing more. -/
def Obligations.BankedWrites : Prop :=
  (∀ (l : Link) (seq n m : Byte) (s : State), Takes l s →
    ((8 ≤ n.toNat ∨ 3 ≤ m.toNat) →
      exec (.setMode l seq [n, m]) s = .next (turnedAway l 16 seq (.refused .badField) s)) ∧
    ∀ (g : Fin 8) (md : Mode), n.toNat = g.val → m.toNat = md.code →
      let v := validFrame l s
      let q : State := { v with prof.active.sets := upd s.prof.active.sets g fun b => { b with mode := md } }
      (setPresent s g = false → exec (.setMode l seq [n, m]) s = .next (turnedAway l 16 seq (.refused .notPresent) s)) ∧
      (setPresent s g = true → s.running = false →
        exec (.setMode l seq [n, m]) s = .next (turnedAway l 16 seq (.refused .wrongState) s)) ∧
      (setPresent s g = true → s.running = true → s.entering = true →
        exec (.setMode l seq [n, m]) s = .next (turnedAway l 16 seq .busy s)) ∧
      (setPresent s g = true → s.running = true → s.entering = false →
        exec (.setMode l seq [n, m]) s = .next
          (answerTo l 16 seq (.done false [BitVec.ofNat 8 md.code]) (updateSetIsland v g q)) ∧
        UpdateFrame q (updateSetIsland v g q))) ∧
  (∀ (l : Link) (seq n a b c d : Byte) (s : State), Takes l s →
    let i := Instr.setBasePoint l seq [n, a, b, c, d]
    (8 ≤ n.toNat → exec i s = .next (turnedAway l 17 seq (.refused .badField) s)) ∧
    ∀ g : Fin 8, n.toNat = g.val →
      let v := validFrame l s
      let x := (a ++ b ++ c ++ d).toInt
      let y := clamp 0 (s.conf.sets[g]).rating x
      (setPresent s g = false → exec i s = .next (turnedAway l 17 seq (.refused .notPresent) s)) ∧
      (setPresent s g = true → s.running = false →
        exec i s = .next (turnedAway l 17 seq (.refused .wrongState) s)) ∧
      (setPresent s g = true → s.running = true → s.entering = true → exec i s = .next (turnedAway l 17 seq .busy s)) ∧
      (setPresent s g = true → s.running = true → s.entering = false →
        exec i s = .next
          (answerTo l 17 seq (.done (decide (y ≠ x)) (writeField .w4 y))
            { v with prof.active.sets := upd s.prof.active.sets g fun f => { f with base := y.toNat } }))) ∧
  ∀ (l : Link) (seq n lv a b c d : Byte) (s : State), Takes l s →
    let i := Instr.setGroup l seq [n, lv, a, b, c, d]
    (32 ≤ n.toNat → exec i s = .next (turnedAway l 36 seq (.refused .badField) s)) ∧
    ∀ g : Fin 32, n.toNat = g.val →
      let v := validFrame l s
      let x := (a ++ b ++ c ++ d).toInt
      let y := clamp 0 20000 x
      let z := min 7 lv.toNat
      let q : State := { v with prof.active.groups := put s.prof.active.groups g { level := z, load := y.toNat } }
      (s.running = false → exec i s = .next (turnedAway l 36 seq (.refused .wrongState) s)) ∧
      (s.running = true → groupPresent s g = false →
        exec i s = .next (turnedAway l 36 seq (.refused .notPresent) s)) ∧
      (s.running = true → groupPresent s g = true → s.entering = true →
        exec i s = .next (turnedAway l 36 seq .busy s)) ∧
      (s.running = true → groupPresent s g = true → s.entering = false → ∃ t,
        exec i s = .next
          (answerTo l 36 seq (.done (decide (7 < lv.toNat ∨ y ≠ x)) (BitVec.ofNat 8 z :: writeField .w4 y)) t) ∧
        t.prof = q.prof ∧ t.shed.groups = s.shed.groups ∧ t.shed.dwell = s.shed.dwell ∧ t.plant = s.plant ∧
        t.share = s.share ∧ t.link = v.link ∧
        (groupLevel s g = z → t = q) ∧
        (groupLevel s g ≠ z → ∀ i : Fin 4, t.shed.restore[i] =
          if groupIsland s g = some i ∧ gatesHold t i = false then none else s.shed.restore[i]))

/-! ### The consumer line and reservations (07) -/

/-- Polling (R120, R121, R124): a slot, taken after the ms that remained (log 3), restarts the slot timer with 25 ms, sends
its station's poll frame with the pending answers, now all marked delivered, hands the next slot on, and drops a reply window
still open (log 39); the end of the frame starts the reply window with 15 ms, and with no frame being sent there is no such
end (log 4). The poll frame is the station's number, the count of its pending answers, their characters in ascending consumer
index (11 section 11.3) and the CRC-16 of all of them. -/
def Obligations.PollSlotsRun : Prop :=
  (∀ (x : Fin 12) (r : Nat) (s : State), s.line.slot = some r → s.line.next = some x →
    let p := elapse r s
    ∃ t, exec .pollSlotExpiry s = .next t ∧ t.line.slot = some 25 ∧ t.line.current = some x ∧
      t.line.next = stationAfter s x ∧ t.line.poll = some (pollChars (x.val + 1) (pendingAnswers p x)) ∧
      t.line.window = none ∧
      (∀ c : Fin 4, (t.line.stations[x]).answers[c] =
        (s.line.stations[x]).answers[c].map fun a => { a with delivered := true }) ∧
      t.line.stations[x].state = s.line.stations[x].state ∧ t.line.stations[x].miss = s.line.stations[x].miss ∧
      (∀ y : Fin 12, y ≠ x → t.line.stations[y] = s.line.stations[y]) ∧
      t.plant = p.plant ∧ t.scan = p.scan ∧ t.share = p.share ∧ t.sync = p.sync ∧ t.shed = p.shed ∧ t.resv = p.resv ∧
      t.prof = s.prof ∧ t.link = p.link ∧ t.start = s.start ∧ t.conf = s.conf) ∧
  (∀ (number : Nat) (answers : List (List Byte)),
    let body := writeField .w1 number ++ writeField .w1 answers.length ++ answers.flatten
    pollChars number answers = body ++ crcChars body) ∧
  (∀ (x : Fin 12) (s : State),
    let pending := four.filterMap fun c => ((s.line.stations[x]).answers[c]).map fun a => (c, a.answer)
    List.Forall₂ (fun p cs => AnswerChars p.1 (findEntry s x p.1) p.2 cs) pending (pendingAnswers s x)) ∧
  (∀ (x : Fin 12) (s : State),
    (∀ y, stationAfter s x = some y → s.conf.stations[y] = true ∧
      ∀ z : Fin 12, s.conf.stations[z] = true → (x < y → ¬ (x < z ∧ z < y)) ∧ (y ≤ x → z ≤ x ∧ y ≤ z)) ∧
    (stationAfter s x = none → ∀ y : Fin 12, s.conf.stations[y] = false)) ∧
  (∀ (cs : List Byte) (s : State), s.line.poll = some cs →
    exec .pollFrameSent s = .next { s with line.poll := none, line.window := some 15 }) ∧
  ∀ s : State, s.line.poll = none → exec .pollFrameSent s = .next s

/-- Replies (R121, R122, R124, R125): in the window, a good reply makes the station PRESENT with miss count 0, clears its
delivered answers and hands on its message; a missed or errored one counts a miss, and the third makes the station LOST with
STATION_LOST, before the notices of the account update (log 50). Either ends the window, its own expiry after the ms that
remained (log 3); outside it nothing happens (logs 3 and 4). A body is good exactly where its last two characters are the
CRC-16 of address character 0 and the rest, and the rest is a message by 11 section 11.3: the code in bits 7 to 4 of its first
character, IDLE 0, START REQUEST 1, ACCEPT 2, DONE 3 and WITHDRAW 4, the consumer index in bits 1 to 0, and after START
REQUEST alone a section, two bytes of kW, a level and two bytes of hold time; any other code or length is no message. -/
def Obligations.RepliesMoveStations : Prop :=
  (∀ (x : Fin 12) (r : Nat) (body : List Byte) (s : State), s.line.window = some r → s.line.current = some x →
    let u : State := { s with line.window := none }
    (∀ m, classify body = some m → exec (.replyFrame body) s = .next (takeMessage x m (goodReply x u))) ∧
    (classify body = none → exec (.replyFrame body) s = .next (missedReply x u)) ∧
    exec .replyBadAddress s = .next (missedReply x u) ∧
    exec .replyWindowExpiry s = .next (missedReply x { elapse r s with line.window := none })) ∧
  (∀ (body : List Byte) (s : State), s.line.window = none →
    exec (.replyFrame body) s = .next s ∧ exec .replyBadAddress s = .next s ∧ exec .replyWindowExpiry s = .next s) ∧
  (∀ head crc : List Byte, crc.length = 2 →
    classify (head ++ crc) = if crc = crcChars (0x00#8 :: head) then messageOf head else none) ∧
  (∀ body : List Byte, body.length < 2 → classify body = none) ∧
  messageOf [] = none ∧
  (∀ (b : Byte) (fields : List Byte),
    let code := b.toNat / 16
    (code = 0 → messageOf [b] = some .idle) ∧
    (∀ c : Fin 4, c.val = b.toNat % 4 →
      (code = 1 → ∀ y k1 k0 level h1 h0 : Byte, messageOf [b, y, k1, k0, level, h1, h0] =
        some (.start c y.toNat (256 * k1.toNat + k0.toNat) level.toNat (256 * h1.toNat + h0.toNat))) ∧
      (code = 2 → messageOf [b] = some (.accept c)) ∧ (code = 3 → messageOf [b] = some (.done c)) ∧
      (code = 4 → messageOf [b] = some (.withdraw c))) ∧
    (code = 1 → fields.length ≠ 6 → messageOf (b :: fields) = none) ∧
    (code ≠ 1 → fields ≠ [] → messageOf (b :: fields) = none) ∧
    (5 ≤ code → messageOf (b :: fields) = none)) ∧
  ∀ (x : Fin 12) (s : State),
    let g := goodReply x s
    let m := missedReply x s
    g.line.stations[x].state = .present ∧ g.line.stations[x].miss = 0 ∧
    (∀ c : Fin 4, (g.line.stations[x]).answers[c] =
      (s.line.stations[x]).answers[c].filter fun a => !a.delivered) ∧
    (∀ y : Fin 12, y ≠ x → g.line.stations[y] = s.line.stations[y]) ∧ g.resv = s.resv ∧ g.plant = s.plant ∧
    (s.line.stations[x].state = .lost →
      Sends (newNotice .stationPresent (some (x.val + 1)) none s) s g) ∧
    (s.line.stations[x].state ≠ .lost → g.link = s.link) ∧
    (s.line.stations[x].state = .lost → m = s) ∧
    (s.line.stations[x].state ≠ .lost → s.line.stations[x].miss < 2 →
      m = { s with line.stations := upd s.line.stations x fun r => { r with miss := r.miss + 1 } }) ∧
    (s.line.stations[x].state ≠ .lost → 2 ≤ s.line.stations[x].miss →
      m.line.stations[x].state = .lost ∧ m.line.stations[x].miss = 3 ∧
      Sends (newNotice .stationLost (some (x.val + 1)) none s) s m ∧
      (∀ e ∈ m.resv.queue, e.station = x → e.state = .active) ∧
      (∀ e ∈ s.resv.queue, e.station = x → e.state ≠ .active →
        (m.line.stations[x]).answers[e.consumer] = some { answer := .dropped, delivered := false }))

/-- START REQUEST, ACCEPT, DONE and WITHDRAW at the Arbiter (R127, R130, R131): the checks in their order, each failure
changing nothing but the answer; a request that passes adds one WAITING entry with its values made ready, the arrival number
of the counter, which is 1 on an empty queue and then goes up by one, and the queue wait limit, with the answer QUEUED; where
the counter would pass 4,294,967,295 the queue is numbered afresh. ACCEPT of an OFFERED entry makes it ACTIVE for its hold
time with the answer ACTIVE. In both the other entries stand, and the island's account is updated as O32 (RoundCompletes) pins
it, at which the entry may be offered. DONE and WITHDRAW remove the entry with REMOVED, every other entry standing, and its
island's account is updated as O32 (RoundCompletes) pins it; where there is no entry they are answered NOT_FOUND. An idle
message does nothing. -/
def Obligations.StationMessagesAreTaken : Prop :=
  (∀ (x : Fin 12) (c : Fin 4) (y kw level hold : Nat) (s : State),
    let t := takeMessage x (.start c y kw level hold) s
    (s.running = false → t = answer x c (.refused .wrongState) s) ∧
    (s.running = true → 16 ≤ s.resv.queue.length → t = answer x c (.refused .full) s) ∧
    (s.running = true → s.resv.queue.length < 16 →
      (∀ e ∈ s.resv.queue, e.station = x → e.consumer = c → t = answer x c (.refused .duplicate) s) ∧
      ((∀ e ∈ s.resv.queue, ¬ (e.station = x ∧ e.consumer = c)) →
        (4 ≤ y → t = answer x c (.refused .badField) s) ∧
        ∀ z : Fin 4, y = z.val →
          (sectPresent s z = false → t = answer x c (.refused .badField) s) ∧
          (sectPresent s z = true →
            t.resv.queue.length = s.resv.queue.length + 1 ∧
            (∃ e ∈ t.resv.queue, e.station = x ∧ e.consumer = c ∧ e.sect = z ∧
              e.kw = min 60000 (max 1 kw) ∧ e.level = min 7 (max 1 level) ∧ e.hold = min 600 (max 5 (min 1023 hold)) ∧
              (e.state = .waiting ∨ e.state = .offered)) ∧
            UpdateFrame s t ∧
            let n := if s.resv.queue = [] then 1 else s.resv.counter
            let e : Entry :=
              { station := x, consumer := c, sect := z, kw := min 60000 (max 1 kw), level := min 7 (max 1 level),
                hold := min 600 (max 5 (min 1023 hold)), state := .waiting, arrival := n,
                remaining := (settings s).waitLimit * 1000 }
            (n < 4294967295 →
              Reserves { s.resv with queue := s.resv.queue ++ [e], counter := n + 1 } x c z .queued s t) ∧
            (4294967295 ≤ n →
              Reserves
                { s.resv with
                  queue := (s.resv.queue ++ [e]).mapIdx fun k f => { f with arrival := k + 1 },
                  counter := s.resv.queue.length + 2 } x c z .queued s t))))) ∧
  (∀ (x : Fin 12) (c : Fin 4) (m : Message) (s : State), (m = .done c ∨ m = .withdraw c) →
    let t := takeMessage x m s
    (findEntry s x c = none → t = answer x c .notFound s) ∧
    ((∀ e ∈ s.resv.queue, ¬ (e.station = x ∧ e.consumer = c)) → findEntry s x c = none) ∧
    ∀ e, findEntry s x c = some e → e ∈ s.resv.queue ∧ e.station = x ∧ e.consumer = c ∧
      Leaves x c e.sect .removed s t ∧ (∀ f ∈ t.resv.queue, ¬ (f.station = x ∧ f.consumer = c)) ∧
      (t.line.stations[x]).answers[c] = some { answer := .removed, delivered := false } ∧ UpdateFrame s t) ∧
  (∀ (x : Fin 12) (s : State), takeMessage x .idle s = s) ∧
  ∀ (x : Fin 12) (c : Fin 4) (s : State),
    let t := takeMessage x (.accept c) s
    ((∀ e ∈ s.resv.queue, ¬ (e.station = x ∧ e.consumer = c)) → t = answer x c .notFound s) ∧
    ∀ e, findEntry s x c = some e →
      (e.state = .waiting → t = answer x c .notOffered s) ∧
      (e.state = .active → t = answer x c .active s) ∧
      (e.state = .offered →
        (∃ f ∈ t.resv.queue, f.station = x ∧ f.consumer = c ∧ f.state = .active ∧ f.remaining = f.hold * 1000) ∧
        (t.line.stations[x]).answers[c] = some { answer := .active, delivered := false } ∧ UpdateFrame s t ∧
        Reserves
          { s.resv with
            queue := s.resv.queue.map fun f =>
              if f.station = x ∧ f.consumer = c then { f with state := .active, remaining := f.hold * 1000 } else f }
          x c e.sect .active s t)

/-- The endings (R131): the end of a wait timer, an accept deadline or a hold deadline, taken after the ms that remained
(log 3), and CANCEL RESERVATION, remove the entry with its answer, every other entry standing, and its island's account is
updated as O32 (RoundCompletes) pins it; the end of a hold deadline also sends HOLD_ENDED with 4 × station + consumer and the
kW, before the notices of that update (log 50). -/
def Obligations.EntriesEnd : Prop :=
  (∀ (x : Fin 12) (c : Fin 4) (e : Entry) (s : State), findEntry s x c = some e →
    let p := elapse e.remaining s
    let ends (i : Instr) (a : Answer) : Prop := ∃ t, exec i s = .next t ∧
      (∀ f ∈ t.resv.queue, ¬ (f.station = x ∧ f.consumer = c)) ∧
      (t.line.stations[x]).answers[c] = some { answer := a, delivered := false } ∧ UpdateFrame p t ∧
      Leaves x c e.sect a p t ∧
      (a = .holdEnded →
        Sends (newNotice .holdEnded (some (4 * (x.val + 1) + c.val)) (some (e.kw : Int)) p) p t)
    (e.state = .waiting → ends (.waitTimerExpiry x c) .timedOut) ∧
    (e.state = .offered → ends (.acceptDeadlineExpiry x c) .expired) ∧
    (e.state = .active → ends (.holdDeadlineExpiry x c) .holdEnded)) ∧
  ∀ (l : Link) (seq n m : Byte) (s : State), Takes l s →
    let i := Instr.cancelReservation l seq [n, m]
    ((n.toNat = 0 ∨ 12 < n.toNat ∨ 3 < m.toNat) →
      exec i s = .next (turnedAway l 40 seq (.refused .badField) s)) ∧
    ∀ (x : Fin 12) (c : Fin 4), n.toNat = x.val + 1 → m.toNat = c.val →
      (s.operating = false → exec i s = .next (turnedAway l 40 seq (.refused .wrongState) s)) ∧
      (s.operating = true → findEntry s x c = none →
        exec i s = .next (turnedAway l 40 seq (.refused .notFound) s)) ∧
      (s.operating = true → (findEntry s x c).isSome = true → ∃ t,
        exec i s = .next (answerTo l 40 seq .ok t) ∧ (∀ f ∈ t.resv.queue, ¬ (f.station = x ∧ f.consumer = c)) ∧
        (t.line.stations[x]).answers[c] = some { answer := .removed, delivered := false } ∧
        (∀ e, findEntry s x c = some e → Leaves x c e.sect .removed (validFrame l s) t) ∧
        UpdateFrame (validFrame l s) t)

/-- The offer test (R128, R129) where a candidate stands: without an OFFERED entry the candidate is offered exactly where
spare covers it; with one, the offer moves exactly where the candidate's level is higher and spare with the offered kW covers
it; otherwise nothing is done. The candidate is of the highest level, and of the lowest arrival number among those. At an
account update the Arbiter compares the wanted field with the one it last saw, sends CAPACITY_WANTED where it rose from 0
(R133), and in RUNNING makes the offer test, whose change updates the account (that order is log 20). A set loss that leaves
spare below 0 returns the island's offers to WAITING with WITHDRAWN (R132), and its account is recomputed. An offer makes the
entry OFFERED for the offer accept time with the answer OFFER; a returned one is WAITING for the queue wait limit with the
answer WITHDRAWN, its arrival number kept (R128, R129); the other entries stand. After a set loss the wanted field is compared
only in the account as the withdrawal leaves it (log 62). -/
def Obligations.OfferTestDecides : Prop :=
  (∀ (i : Fin 4) (a : Account) (s : State), s.plant.accounts[i] = some a →
    let t := seeWanted i s
    ((s.resv.lastWanted[i] = 0 ∧ a.wanted ≠ 0) →
      t = { notify .capacityWanted (some i.val) (some (a.wanted : Int)) s with
            resv.lastWanted := put s.resv.lastWanted i a.wanted }) ∧
    ((s.resv.lastWanted[i] ≠ 0 ∨ a.wanted = 0) →
      t = { s with resv.lastWanted := put s.resv.lastWanted i a.wanted }) ∧
    (s.running = false → arbiterUpdate i s = t) ∧
    (s.running = true → offerTest i t = none → arbiterUpdate i s = t) ∧
    ∀ u, s.running = true → offerTest i t = some u →
      arbiterUpdate i s = seeWanted i (shedUpdate false i (abortUnloads i (recompute [i] u)))) ∧
  (∀ (i : Fin 4) (a : Account) (s : State), s.plant.accounts[i] = some a →
    let t := lossWithdraw i s
    (0 ≤ a.spare → t = s) ∧
    (a.spare < 0 → UpdateFrame s t ∧ (∀ b, t.plant.accounts[i] = some b → AccountOf t i b) ∧
      (∀ j : Fin 4, j ≠ i → t.plant.accounts[j] = s.plant.accounts[j]) ∧
      (QueueLaw s →
        t.resv.queue = s.resv.queue.map (fun e =>
          if e.state = .offered ∧ e.island s = some i then
            { e with state := .waiting, remaining := (settings s).waitLimit * 1000 }
          else e) ∧
        ∀ e ∈ s.resv.queue, e.state = .offered → e.island s = some i →
          (t.line.stations[e.station]).answers[e.consumer] = some { answer := .withdrawn, delivered := false }))) ∧
  (∀ (e : Entry) (s : State),
    let told (a : Answer) := upd s.line.stations e.station (fun r =>
      { r with answers := put r.answers e.consumer (some { answer := a, delivered := false }) })
    makeOffer e s =
      { s with
        resv.queue := s.resv.queue.map (fun f =>
          if f.station = e.station ∧ f.consumer = e.consumer then
            { f with state := .offered, remaining := (settings s).acceptTime }
          else f),
        line.stations := told .offer } ∧
    returnOffer e s =
      { s with
        resv.queue := s.resv.queue.map (fun f =>
          if f.station = e.station ∧ f.consumer = e.consumer then
            { f with state := .waiting, remaining := (settings s).waitLimit * 1000 }
          else f),
        line.stations := told .withdrawn }) ∧
  ∀ (i : Fin 4) (a : Account) (e : Entry) (s : State), s.plant.accounts[i] = some a → candidate s i = some e →
    (e ∈ s.resv.queue ∧ e.state = .waiting ∧ e.island s = some i ∧
      ∀ f ∈ s.resv.queue, f.state = .waiting → f.island s = some i →
        f.level < e.level ∨ f.level = e.level ∧ e.arrival ≤ f.arrival) ∧
    (offeredEntry s i = none →
      offerTest i s = if (e.kw : Int) ≤ a.spare then some (makeOffer e s) else none) ∧
    ∀ o, offeredEntry s i = some o →
      offerTest i s =
        if o.level < e.level ∧ (e.kw : Int) ≤ a.spare + o.kw then some (makeOffer e (returnOffer o s)) else none

/-! ### Profiles (08) and the image (10) -/

/-- ENTER, PUSH and POP (R141), their checks in their order; one that passes begins an entry of its target, which leaves
ACTIVE and the stack. STANDBY holds the built bank from the command on, its earlier contents kept beside the entry (log 32),
and POP at a depth of 1 or less is refused DEPTH before its target is tested (log 31); presence is that of the record in force
(log 65). The build (R142) copies ACTIVE and,
where the target's PATCH flag is set, applies its patches in order (`PatchesApply`), a base point being held to the rating of
the image; it fails with the number of the first invalid patch, else with 0 where the target's block is not consistent
(R143, R138). -/
def Obligations.EntriesBegin : Prop :=
  PatchesApply ∧ (∀ b : Settings, b.consistent = true ↔ ConsistentBlock b) ∧
  (∀ (s : State) (p : Fin 8),
    let profile := s.conf.profiles[p]
    ((profile).patch = false → buildBank s p = (s.prof.active, none)) ∧
    ((profile).patch = true → ∃ ratings : Vector Nat 8, (∀ g : Fin 8, ratings[g] = (s.conf.sets[g]).rating) ∧
      buildBank s p = applyPatches ratings 1 (profile).patches s.prof.active) ∧
    (∀ n, (buildBank s p).2 = some n → buildFail s p = some n) ∧
    ((buildBank s p).2 = none →
      buildFail s p =
        if (if s.prof.fresh[p] then (profile).initial else s.prof.working[p]).consistent then none else some 0)) ∧
  ∀ (l : Link) (seq n : Byte) (s : State), Takes l s →
    let v := validFrame l s
    (8 ≤ n.toNat →
      exec (.enter l seq [n]) s = .next (turnedAway l 48 seq (.refused .badField) s) ∧
      exec (.push l seq [n]) s = .next (turnedAway l 49 seq (.refused .badField) s)) ∧
    (n.toNat < 8 → s.running = false →
      exec (.enter l seq [n]) s = .next (turnedAway l 48 seq (.refused .wrongState) s) ∧
      exec (.push l seq [n]) s = .next (turnedAway l 49 seq (.refused .wrongState) s)) ∧
    (n.toNat < 8 → s.running = true → s.entering = true →
      exec (.enter l seq [n]) s = .next (turnedAway l 48 seq .busy s) ∧
      exec (.push l seq [n]) s = .next (turnedAway l 49 seq .busy s)) ∧
    (∀ p : Fin 8, n.toNat = p.val → s.running = true → s.entering = false →
      (profilePresent s p = false →
        exec (.enter l seq [n]) s = .next (turnedAway l 48 seq (.refused .notPresent) s) ∧
        exec (.push l seq [n]) s = .next (turnedAway l 49 seq (.refused .notPresent) s)) ∧
      (profilePresent s p = true →
        ((p ∈ s.prof.stack ∧ s.prof.stack.getLast? ≠ some p) →
          exec (.enter l seq [n]) s = .next (turnedAway l 48 seq (.refused .onStack) s)) ∧
        ((p ∉ s.prof.stack ∨ s.prof.stack.getLast? = some p) →
          exec (.enter l seq [n]) s = .next (answerTo l 48 seq .ok (startEntry .enter p v))) ∧
        (4 ≤ s.prof.stack.length → exec (.push l seq [n]) s = .next (turnedAway l 49 seq (.refused .depth) s)) ∧
        (s.prof.stack.length < 4 → p ∈ s.prof.stack →
          exec (.push l seq [n]) s = .next (turnedAway l 49 seq (.refused .onStack) s)) ∧
        (s.prof.stack.length < 4 → p ∉ s.prof.stack →
          exec (.push l seq [n]) s = .next (answerTo l 49 seq .ok (startEntry .push p v))))) ∧
    (s.running = false → exec (.pop l seq []) s = .next (turnedAway l 50 seq (.refused .wrongState) s)) ∧
    (s.running = true → s.entering = true → exec (.pop l seq []) s = .next (turnedAway l 50 seq .busy s)) ∧
    (s.running = true → s.entering = false →
      (s.prof.stack.length ≤ 1 → exec (.pop l seq []) s = .next (turnedAway l 50 seq (.refused .depth) s)) ∧
      ∀ (under : List (Fin 8)) (p top : Fin 8), s.prof.stack = under ++ [p, top] →
        (profilePresent s p = false →
          exec (.pop l seq []) s = .next (turnedAway l 50 seq (.refused .notPresent) s)) ∧
        (profilePresent s p = true →
          exec (.pop l seq []) s = .next (answerTo l 50 seq .ok (startEntry .pop p v)))) ∧
    ∀ (cmd : EntryCmd) (p : Fin 8),
      let t := startEntry cmd p v
      t.prof.active = s.prof.active ∧ t.prof.stack = s.prof.stack ∧ t.prof.working = s.prof.working ∧
      t.prof.fresh = s.prof.fresh ∧ t.prof.standby = (buildBank s p).1 ∧ t.plant = s.plant ∧ t.shed = s.shed ∧
      t.prof.entry = some
        { command := cmd, target := p,
          block := if s.prof.fresh[p] then (s.conf.profiles[p]).initial else s.prof.working[p],
          fail := buildFail s p, saved := s.prof.standby }

/-- The build end (R144, R145): a failed build gives STANDBY back, changes nothing else and sends PROFILE_FAILED with its
reason (STANDBY as the entry kept it: log 32); a good one swaps the banks, takes the block, clears FRESH, changes the stack
and sends PROFILE_ENTERED with the new depth, and with auto restore off no restore delay runs. The completion then recomputes
every account with the new bank and block and hands it on (01 R23), as O32 (RoundCompletes) pins it; that PROFILE_ENTERED
comes before the notices of that update is log 50. With no entry in flight there is no such end (log 4). -/
def Obligations.BuildEndCompletesOrFails : Prop :=
  (∀ (e : EntryOp) (n : Nat) (s : State), s.prof.entry = some e → e.fail = some n →
    exec .profileBuildEnd s = .next
      (notify .profileFailed (some e.target.val) (some (n : Int))
        { s with prof.standby := e.saved, prof.entry := none })) ∧
  (∀ (e : EntryOp) (s : State), s.prof.entry = some e → e.fail = none →
    let stack :=
      match e.command with
      | .enter => s.prof.stack.dropLast ++ [e.target]
      | .push => s.prof.stack ++ [e.target]
      | .pop => s.prof.stack.dropLast
      | .initial => [e.target]
    ∃ t, exec .profileBuildEnd s = .next t ∧ t.prof.active = s.prof.standby ∧ t.prof.standby = s.prof.active ∧
      t.prof.entry = none ∧ t.prof.stack = stack ∧ t.prof.working[e.target] = e.block ∧
      t.prof.fresh[e.target] = false ∧
      (∀ p : Fin 8, p ≠ e.target → t.prof.working[p] = s.prof.working[p] ∧ t.prof.fresh[p] = s.prof.fresh[p]) ∧
      Sends (newNotice .profileEntered (some e.target.val) (some (stack.length : Int)) s) s t ∧
      ((settings t).autoRestore = false → ∀ i : Fin 4, t.shed.restore[i] = none) ∧
      (∃ w : State, t = accountUpdate false s four w ∧ w.prof = t.prof ∧ w.plant = s.plant ∧ w.scan = s.scan ∧
        w.share = s.share ∧ w.sync = s.sync ∧ w.resv = s.resv ∧ w.line = s.line ∧ w.start = s.start ∧ w.conf = s.conf ∧
        w.shed.groups = s.shed.groups ∧ w.shed.dwell = s.shed.dwell ∧
        w.shed.restore = (if (settings t).autoRestore then s.shed.restore else Vector.replicate 4 none) ∧
        Delivers [newNotice .profileEntered (some e.target.val) (some (stack.length : Int)) s] s w ∧
        ∀ (i : Fin 4) (a : Account), (recompute four w).plant.accounts[i] = some a → AccountOf w i a) ∧
      (∀ i, getFilter t i = getFilter s i) ∧ t.plant.partition = s.plant.partition ∧
      t.plant.generation = s.plant.generation ∧ t.scan = s.scan ∧ t.sync = s.sync ∧ t.start = s.start ∧
      t.conf = s.conf ∧ (∀ g : Fin 8, t.biasOut g = s.biasOut g)) ∧
  ∀ s : State, s.prof.entry = none → exec .profileBuildEnd s = .next s

/-- REFRESH (R149), its checks in their order, sets FRESH of a present profile on the stack or off it. The settings in use
stay; the next entry of the profile takes its Initial block. That the profile is present in the record in force, not in the
RAM image's, is the model's reading (log 65). -/
def Obligations.RefreshSetsFresh : Prop :=
  ∀ (l : Link) (seq : Byte) (s : State), Takes l s →
    let v := validFrame l s
    (∀ n : Byte, 8 ≤ n.toNat → exec (.refresh l seq [n]) s = .next (turnedAway l 51 seq (.refused .badField) s)) ∧
    ∀ p : Fin 8,
      let c := Instr.refresh l seq [BitVec.ofNat 8 p.val]
      (s.running = false → exec c s = .next (turnedAway l 51 seq (.refused .wrongState) s)) ∧
      (s.running = true → profilePresent s p = false →
        exec c s = .next (turnedAway l 51 seq (.refused .notPresent) s)) ∧
      (s.running = true → profilePresent s p = true →
        (∀ e, s.prof.entry = some e → e.target = p → exec c s = .next (turnedAway l 51 seq .busy s)) ∧
        ((∀ e, s.prof.entry = some e → e.target ≠ p) →
          let t : State := { v with prof.fresh := put s.prof.fresh p true }
          exec c s = .next (answerTo l 51 seq .ok t) ∧ settings t = settings s ∧
          (∀ cmd, ∃ e, (startEntry cmd p t).prof.entry = some e ∧ e.block = (s.conf.profiles[p]).initial) ∧
          ∀ (e : EntryOp) (u : State), u.prof.entry = some e → e.fail = none → ∃ w,
            exec .profileBuildEnd u = .next w ∧ w.prof.working[e.target] = e.block))

/-- WRITE SETTING (R147), its checks in their order: the field of the active profile's Working block is made ready and
written, with the CLAMPED mark where that changes the value, and the block stays consistent; a change of a limit or of the
underfrequency offset updates every account, auto restore taken off cancels the restore delays, and any other write does
nothing more. WRITE PROFILE (R148), its checks in their order, writes the Initial block, made ready, or the patch list, its
entries made ready and PATCH set where a patch has a count, of a present profile off the stack in RUNNING and HELD, and
changes neither its Working block nor FRESH (that it writes the record in force too is log 31); a malformed one is refused
BAD_FIELD before its owner sees it (09 R153; the widths of a block are log 6's). LOAD RECORD (10 R168) writes the RAM image
alone, in UNCONFIGURED and HELD; an Initial block is clamped field by field, auto restore above 1 to 1. `FieldsMadeReady` and
`RecordsLoad` give the fields of a block and the other record kinds. The DONE of a patch list carries the list as now held
(09 R155; its coding is log 57), a LOAD RECORD makes one ready as WRITE PROFILE does (log 63), a first index is written as
carried (log 58), and LOAD RECORD truncates a sharing period (log 59). -/
def Obligations.SettingsAndRecordsAreWritten : Prop :=
  FieldsMadeReady ∧ RecordsLoad ∧
  (∀ (l : Link) (seq n a b c d : Byte) (s : State), Takes l s →
    let i := Instr.writeSetting l seq [n, a, b, c, d]
    (16 ≤ n.toNat → exec i s = .next (turnedAway l 52 seq (.refused .badField) s)) ∧
    (n.toNat < 16 → s.running = false → exec i s = .next (turnedAway l 52 seq (.refused .wrongState) s)) ∧
    (n.toNat < 16 → s.running = true → s.entering = true → exec i s = .next (turnedAway l 52 seq .busy s)) ∧
    ∀ (f : Fin 16) (p : Fin 8), n.toNat = f.val → s.running = true → s.entering = false →
      s.prof.stack.getLast? = some p →
      let v := validFrame l s
      let old := s.prof.working[p]
      let x := (a ++ b ++ c ++ d).toInt
      let held := readyField f.val old.overDwell old.underDwell x
      ∃ blk : Settings, blk.toList = old.toList.set f.val held ∧ (old.consistent = true → blk.consistent = true) ∧
        let q : State := { v with prof.working := put s.prof.working p blk }
        exec i s = .next
          (answerTo l 52 seq (.done (decide (held ≠ x)) (writeField .w4 held))
            (if blk = old then q
              else if f = 5 ∨ f = 6 ∨ f = 8 then accountUpdate false v four q
              else if f = 12 ∧ blk.autoRestore = false then
                { q with shed.restore := Vector.replicate 4 none }
              else q)) ∧
        settings q = blk ∧ UpdateFrame q (accountUpdate false v four q) ∧
        ∀ (j : Fin 4) (e : Account), (recompute four q).plant.accounts[j] = some e → AccountOf q j e) ∧
  (∀ (l : Link) (seq n : Byte) (cs : List Byte) (s : State), Takes l s →
    let initial := Instr.writeProfile l seq (n :: 0 :: cs)
    let patches := Instr.writeProfile l seq (n :: 1 :: cs)
    let bad : Host.Outcome State Fault Refusal := .next (turnedAway l 53 seq (.refused .badField) s)
    cs.length ≤ 296 →
      exec (.writeProfile l seq []) s = bad ∧ exec (.writeProfile l seq [n]) s = bad ∧
      (∀ part : Byte, 2 ≤ part.toNat → exec (.writeProfile l seq (n :: part :: cs)) s = bad) ∧
      (readFields blockWidths cs = none → exec initial s = bad) ∧
      (readPatchList cs = none → exec patches s = bad) ∧
      (∀ ps, readPatchList cs = some ps → tablesKnown ps = false → exec patches s = bad) ∧
      ∀ (i : Instr), (i = initial ∧ (readFields blockWidths cs).isSome = true ∨
          i = patches ∧ ∃ ps, readPatchList cs = some ps ∧ tablesKnown ps = true) →
        (8 ≤ n.toNat → exec i s = bad) ∧
        ∀ p : Fin 8, n.toNat = p.val →
          let v := validFrame l s
          (s.operating = false → exec i s = .next (turnedAway l 53 seq (.refused .wrongState) s)) ∧
          (s.operating = true → (s.start.ram.profiles[p]).present = false →
            exec i s = .next (turnedAway l 53 seq (.refused .notPresent) s)) ∧
          (s.operating = true → (s.start.ram.profiles[p]).present = true →
            (p ∈ s.prof.stack → exec i s = .next (turnedAway l 53 seq (.refused .onStack) s)) ∧
            (p ∉ s.prof.stack → isTarget s p = true → exec i s = .next (turnedAway l 53 seq .busy s)) ∧
            (p ∉ s.prof.stack → isTarget s p = false →
              (∀ vs, i = initial → readFields blockWidths cs = some vs → ∃ blk : Settings, blk.toList = readyBlock vs ∧
                exec i s = .next
                  (answerTo l 53 seq (.done (decide (readyBlock vs ≠ vs)) (blockBytes blk))
                    (updProfile p (fun r => { r with initial := blk }) v))) ∧
              ∀ ps, i = patches → readPatchList cs = some ps →
                ((8 < ps.length ∨ 48 < (ps.map fun q => q.entries.length).sum ∨ (∃ q ∈ ps, 32 < q.count) ∨
                    ∃ fore q after, ps = fore ++ q :: after ∧ after ≠ [] ∧ q.count = 0) → exec i s = bad) ∧
                (ps.length ≤ 8 → (ps.map fun q => q.entries.length).sum ≤ 48 → (∀ q ∈ ps, q.count ≤ 32) →
                  (∀ fore q after, ps = fore ++ q :: after → after ≠ [] → q.count ≠ 0) →
                  exec i s = .next
                    (answerTo l 53 seq
                      (.done (ps.any fun q => (readyPatch q).2) (patchListBytes (ps.map fun q => (readyPatch q).1)))
                      (updProfile p
                        (fun r =>
                          { r with patches := ps.map fun q => (readyPatch q).1,
                                   patch := ps.any fun q => decide (0 < q.entries.length) }) v)))))) ∧
  (∀ q : RawPatch,
    (q.table = 0 → readyPatch q =
      (.groups q.first.toNat
        (q.entries.map fun e => { level := (min 7 (max (0 : Int) e.1)).toNat, load := (min 20000 (max (0 : Int) e.2)).toNat }),
       decide (∃ e ∈ q.entries, min 7 (max (0 : Int) e.1) ≠ e.1 ∨ min 20000 (max (0 : Int) e.2) ≠ e.2))) ∧
    (q.table = 1 → readyPatch q =
      (.sets q.first.toNat
        (q.entries.map fun e =>
          { mode := if e.1 = (1 : Int) then Mode.base else if e.1 = (2 : Int) then Mode.hold else Mode.share,
            base := (min 20000 (max (0 : Int) e.2)).toNat }),
       decide (∃ e ∈ q.entries, ¬ (e.1 = 0 ∨ e.1 = 1 ∨ e.1 = 2) ∨ min 20000 (max (0 : Int) e.2) ≠ e.2)))) ∧
  (∀ (img : Image) (p : Fin 8) (cs : List Byte) (vs : List Int), readFields blockWidths cs = some vs →
    ∃ blk : Settings, blk.toList = clampBlock vs ∧
      loadRecordOf img (0x0A#8 :: BitVec.ofNat 8 p.val :: cs) =
        some ({ img with profiles := upd img.profiles p fun r => { r with initial := blk } },
          writeItems (blockWidths.zip (clampBlock vs)), decide (clampBlock vs ≠ vs)) ∧
      recordFits (0x0A#8 :: BitVec.ofNat 8 p.val :: cs) = true) ∧
  ∀ (l : Link) (seq : Byte) (cs : List Byte) (s : State), Takes l s → cs.length ≤ 298 →
    (recordFits cs = false → exec (.loadRecord l seq cs) s = .next (turnedAway l 56 seq (.refused .badField) s)) ∧
    (recordFits cs = true → s.start.op ≠ .unconfigured → s.start.op ≠ .held →
      exec (.loadRecord l seq cs) s = .next (turnedAway l 56 seq (.refused .wrongState) s)) ∧
    (recordFits cs = true → (s.start.op = .unconfigured ∨ s.start.op = .held) →
      (loadRecordOf s.start.ram cs = none →
        exec (.loadRecord l seq cs) s = .next (turnedAway l 56 seq (.refused .badField) s)) ∧
      ∀ img held changed, loadRecordOf s.start.ram cs = some (img, held, changed) →
        exec (.loadRecord l seq cs) s = .next
          (answerTo l 56 seq (.done changed held) { validFrame l s with start.ram := img }))

/-! ### Laws that every step keeps -/

/-- 09 R161: no step makes a notice queue hold more than 32 notices. -/
def Obligations.StepKeepsNoticeLaw : Prop := ∀ s t : State, NoticeLaw s → step s = .next t → NoticeLaw t

/-- 03 R41: no step takes a bias out of −1000 to +1000, with the park biases of every image in range. -/
def Obligations.StepKeepsBiases : Prop := ∀ s t : State, BiasInv s → step s = .next t → BiasInv t

/-- 05 R87: after every step a SHED output in RUNNING is asserted exactly while its group is shed. -/
def Obligations.StepKeepsShedOutputs : Prop := ∀ s t : State, ShedInv s → step s = .next t → ShedInv t

/-- 01 R17, R18: after every step each island is numbered by its lowest section, and the generation is within its range. -/
def Obligations.StepKeepsPartition : Prop := ∀ s t : State, PartitionLaw s → step s = .next t → PartitionLaw t

/-- 07 R126: after every step the queue holds at most 16 entries, no two of one consumer, at most one OFFERED per island. -/
def Obligations.StepKeepsQueue : Prop := ∀ s t : State, QueueInv s → step s = .next t → QueueInv t

/-- The laws hold right after a power-on reset. -/
def Obligations.LawsHoldAtReset : Prop :=
  NoticeLaw State.reset ∧ BiasInv State.reset ∧ ShedInv State.reset ∧ PartitionLaw State.reset ∧ QueueInv State.reset

end
end

