-- ==== Sys2Proof/Laws/State.lean ====
section
/-! SUPPORT. The small lemmas of the vector helpers, and, for each update of the state, one lemma per block it leaves
alone, true by rfl. -/

namespace Sys2Proof

/-! ### Vectors -/

@[simp] theorem getElem_put {α : Type} {n : Nat} (v : Vector α n) (i : Fin n) (x : α) (j : Nat) (h : j < n) :
    (put v i x)[j] = if i.val = j then x else v[j] := by
  simp only [put, Vector.getElem_set]

@[simp] theorem getElem_upd {α : Type} {n : Nat} (v : Vector α n) (i : Fin n) (f : α → α) (j : Nat) (h : j < n) :
    (upd v i f)[j] = if i.val = j then f v[i.val] else v[j] := by
  simp only [upd, getElem_put, Fin.getElem_fin]

@[simp] theorem getElem_tab {α β : Type} {n : Nat} (f : Fin n → α → β) (v : Vector α n) (j : Nat) (h : j < n) :
    (tab f v)[j] = f ⟨j, h⟩ v[j] := by simp [tab]

theorem get_put {α : Type} {n : Nat} (v : Vector α n) (i j : Fin n) (x : α) :
    (put v i x)[j] = if i = j then x else v[j] := by simp [Fin.ext_iff]

theorem get_upd {α : Type} {n : Nat} (v : Vector α n) (i j : Fin n) (f : α → α) :
    (upd v i f)[j] = if i = j then f v[i] else v[j] := by simp [Fin.ext_iff]

theorem get_tab {α β : Type} {n : Nat} (f : Fin n → α → β) (v : Vector α n) (j : Fin n) : (tab f v)[j] = f j v[j] := by
  simp

theorem get_put_ne {α : Type} {n : Nat} (v : Vector α n) {i j : Fin n} (h : i ≠ j) (x : α) :
    (put v i x)[j] = v[j] := by rw [get_put, if_neg h]

theorem get_upd_ne {α : Type} {n : Nat} (v : Vector α n) {i j : Fin n} (h : i ≠ j) (f : α → α) :
    (upd v i f)[j] = v[j] := by rw [get_upd, if_neg h]

theorem vector_ext {α : Type} {n : Nat} {v w : Vector α n} (h : ∀ i : Fin n, v[i] = w[i]) : v = w :=
  Vector.ext fun i hi => h ⟨i, hi⟩

@[simp] theorem tab_id {α : Type} {n : Nat} (v : Vector α n) : tab (fun _ x => x) v = v :=
  vector_ext fun i => by rw [get_tab]

theorem tab_tab {α β γ : Type} {n : Nat} (f : Fin n → β → γ) (g : Fin n → α → β) (v : Vector α n) :
    tab f (tab g v) = tab (fun i x => f i (g i x)) v := vector_ext fun i => by simp only [get_tab]

/-- A table that cannot see a change made at one place. -/
theorem tab_upd {α β : Type} {n : Nat} (f : Fin n → α → β) (v : Vector α n) (i : Fin n) (g : α → α)
    (h : f i (g v[i]) = f i v[i]) : tab f (upd v i g) = tab f v :=
  vector_ext fun j => by
    rw [get_tab, get_tab, get_upd]
    split
    · next e => subst e; exact h
    · rfl

/-- Every object of a vector that `put` has changed in one place. -/
theorem forall_put {α : Type} {n : Nat} {v : Vector α n} {i : Fin n} {x : α} {P : Fin n → α → Prop}
    (h : ∀ j, P j v[j]) (hx : P i x) : ∀ j, P j (put v i x)[j] := fun j => by
  rw [get_put]
  split
  · next e => exact e ▸ hx
  · exact h j

theorem forall_upd {α : Type} {n : Nat} {v : Vector α n} {i : Fin n} {f : α → α} {P : Fin n → α → Prop}
    (h : ∀ j, P j v[j]) (hx : P i (f v[i])) : ∀ j, P j (upd v i f)[j] := forall_put h hx

/-- A fold of updates keeps what each of them keeps. -/
theorem foldl_inv {α β : Type} {P : β → Prop} {f : β → α → β} (h : ∀ b a, P b → P (f b a)) (l : List α) (b : β)
    (hb : P b) : P (l.foldl f b) := by
  induction l generalizing b with
  | nil => exact hb
  | cons a l ih => exact ih _ (h b a hb)

/-- A fold of updates that each leave `π` alone leaves it alone. -/
theorem foldl_same {α β γ : Type} (π : β → γ) {f : β → α → β} (h : ∀ b a, π (f b a) = π b) (l : List α) (b : β) :
    π (l.foldl f b) = π b := by
  induction l generalizing b with
  | nil => rfl
  | cons a l ih => rw [List.foldl_cons, ih, h]

end Sys2Proof

namespace Sys2Proof.Machine

/-! ### Updates of the state and the blocks they leave alone -/


@[simp] theorem notify_plant (k : NoticeKind) (a : Option Nat) (v : Option Int) (s : State) : (notify k a v s).plant = s.plant := rfl
@[simp] theorem notify_scan (k : NoticeKind) (a : Option Nat) (v : Option Int) (s : State) : (notify k a v s).scan = s.scan := rfl
@[simp] theorem notify_share (k : NoticeKind) (a : Option Nat) (v : Option Int) (s : State) : (notify k a v s).share = s.share := rfl
@[simp] theorem notify_sync (k : NoticeKind) (a : Option Nat) (v : Option Int) (s : State) : (notify k a v s).sync = s.sync := rfl
@[simp] theorem notify_shed (k : NoticeKind) (a : Option Nat) (v : Option Int) (s : State) : (notify k a v s).shed = s.shed := rfl
@[simp] theorem notify_resv (k : NoticeKind) (a : Option Nat) (v : Option Int) (s : State) : (notify k a v s).resv = s.resv := rfl
@[simp] theorem notify_line (k : NoticeKind) (a : Option Nat) (v : Option Int) (s : State) : (notify k a v s).line = s.line := rfl
@[simp] theorem notify_prof (k : NoticeKind) (a : Option Nat) (v : Option Int) (s : State) : (notify k a v s).prof = s.prof := rfl
@[simp] theorem notify_start (k : NoticeKind) (a : Option Nat) (v : Option Int) (s : State) : (notify k a v s).start = s.start := rfl
@[simp] theorem notify_conf (k : NoticeKind) (a : Option Nat) (v : Option Int) (s : State) : (notify k a v s).conf = s.conf := rfl
@[simp] theorem notify_pending (k : NoticeKind) (a : Option Nat) (v : Option Int) (s : State) : (notify k a v s).pending = s.pending := rfl

@[simp] theorem updLink_plant (l : Link) (f : LinkRt → LinkRt) (s : State) : (updLink l f s).plant = s.plant := rfl
@[simp] theorem updLink_scan (l : Link) (f : LinkRt → LinkRt) (s : State) : (updLink l f s).scan = s.scan := rfl
@[simp] theorem updLink_share (l : Link) (f : LinkRt → LinkRt) (s : State) : (updLink l f s).share = s.share := rfl
@[simp] theorem updLink_sync (l : Link) (f : LinkRt → LinkRt) (s : State) : (updLink l f s).sync = s.sync := rfl
@[simp] theorem updLink_shed (l : Link) (f : LinkRt → LinkRt) (s : State) : (updLink l f s).shed = s.shed := rfl
@[simp] theorem updLink_resv (l : Link) (f : LinkRt → LinkRt) (s : State) : (updLink l f s).resv = s.resv := rfl
@[simp] theorem updLink_line (l : Link) (f : LinkRt → LinkRt) (s : State) : (updLink l f s).line = s.line := rfl
@[simp] theorem updLink_prof (l : Link) (f : LinkRt → LinkRt) (s : State) : (updLink l f s).prof = s.prof := rfl
@[simp] theorem updLink_start (l : Link) (f : LinkRt → LinkRt) (s : State) : (updLink l f s).start = s.start := rfl
@[simp] theorem updLink_conf (l : Link) (f : LinkRt → LinkRt) (s : State) : (updLink l f s).conf = s.conf := rfl
@[simp] theorem updLink_pending (l : Link) (f : LinkRt → LinkRt) (s : State) : (updLink l f s).pending = s.pending := rfl

@[simp] theorem updSet_scan (g : Fin 8) (f : SetRt → SetRt) (s : State) : (updSet g f s).scan = s.scan := rfl
@[simp] theorem updSet_share (g : Fin 8) (f : SetRt → SetRt) (s : State) : (updSet g f s).share = s.share := rfl
@[simp] theorem updSet_sync (g : Fin 8) (f : SetRt → SetRt) (s : State) : (updSet g f s).sync = s.sync := rfl
@[simp] theorem updSet_shed (g : Fin 8) (f : SetRt → SetRt) (s : State) : (updSet g f s).shed = s.shed := rfl
@[simp] theorem updSet_resv (g : Fin 8) (f : SetRt → SetRt) (s : State) : (updSet g f s).resv = s.resv := rfl
@[simp] theorem updSet_line (g : Fin 8) (f : SetRt → SetRt) (s : State) : (updSet g f s).line = s.line := rfl
@[simp] theorem updSet_prof (g : Fin 8) (f : SetRt → SetRt) (s : State) : (updSet g f s).prof = s.prof := rfl
@[simp] theorem updSet_link (g : Fin 8) (f : SetRt → SetRt) (s : State) : (updSet g f s).link = s.link := rfl
@[simp] theorem updSet_start (g : Fin 8) (f : SetRt → SetRt) (s : State) : (updSet g f s).start = s.start := rfl
@[simp] theorem updSet_conf (g : Fin 8) (f : SetRt → SetRt) (s : State) : (updSet g f s).conf = s.conf := rfl
@[simp] theorem updSet_pending (g : Fin 8) (f : SetRt → SetRt) (s : State) : (updSet g f s).pending = s.pending := rfl

@[simp] theorem setSetState_scan (g : Fin 8) (x : SetState) (s : State) : (setSetState g x s).scan = s.scan := rfl
@[simp] theorem setSetState_share (g : Fin 8) (x : SetState) (s : State) : (setSetState g x s).share = s.share := rfl
@[simp] theorem setSetState_sync (g : Fin 8) (x : SetState) (s : State) : (setSetState g x s).sync = s.sync := rfl
@[simp] theorem setSetState_shed (g : Fin 8) (x : SetState) (s : State) : (setSetState g x s).shed = s.shed := rfl
@[simp] theorem setSetState_resv (g : Fin 8) (x : SetState) (s : State) : (setSetState g x s).resv = s.resv := rfl
@[simp] theorem setSetState_line (g : Fin 8) (x : SetState) (s : State) : (setSetState g x s).line = s.line := rfl
@[simp] theorem setSetState_prof (g : Fin 8) (x : SetState) (s : State) : (setSetState g x s).prof = s.prof := rfl
@[simp] theorem setSetState_link (g : Fin 8) (x : SetState) (s : State) : (setSetState g x s).link = s.link := rfl
@[simp] theorem setSetState_start (g : Fin 8) (x : SetState) (s : State) : (setSetState g x s).start = s.start := rfl
@[simp] theorem setSetState_conf (g : Fin 8) (x : SetState) (s : State) : (setSetState g x s).conf = s.conf := rfl
@[simp] theorem setSetState_pending (g : Fin 8) (x : SetState) (s : State) : (setSetState g x s).pending = s.pending := rfl

@[simp] theorem updShare_plant (g : Fin 8) (f : ShareRt → ShareRt) (s : State) : (updShare g f s).plant = s.plant := rfl
@[simp] theorem updShare_scan (g : Fin 8) (f : ShareRt → ShareRt) (s : State) : (updShare g f s).scan = s.scan := rfl
@[simp] theorem updShare_sync (g : Fin 8) (f : ShareRt → ShareRt) (s : State) : (updShare g f s).sync = s.sync := rfl
@[simp] theorem updShare_shed (g : Fin 8) (f : ShareRt → ShareRt) (s : State) : (updShare g f s).shed = s.shed := rfl
@[simp] theorem updShare_resv (g : Fin 8) (f : ShareRt → ShareRt) (s : State) : (updShare g f s).resv = s.resv := rfl
@[simp] theorem updShare_line (g : Fin 8) (f : ShareRt → ShareRt) (s : State) : (updShare g f s).line = s.line := rfl
@[simp] theorem updShare_prof (g : Fin 8) (f : ShareRt → ShareRt) (s : State) : (updShare g f s).prof = s.prof := rfl
@[simp] theorem updShare_link (g : Fin 8) (f : ShareRt → ShareRt) (s : State) : (updShare g f s).link = s.link := rfl
@[simp] theorem updShare_start (g : Fin 8) (f : ShareRt → ShareRt) (s : State) : (updShare g f s).start = s.start := rfl
@[simp] theorem updShare_conf (g : Fin 8) (f : ShareRt → ShareRt) (s : State) : (updShare g f s).conf = s.conf := rfl
@[simp] theorem updShare_pending (g : Fin 8) (f : ShareRt → ShareRt) (s : State) : (updShare g f s).pending = s.pending := rfl

@[simp] theorem updGroup_plant (g : Fin 32) (f : GroupRt → GroupRt) (s : State) : (updGroup g f s).plant = s.plant := rfl
@[simp] theorem updGroup_scan (g : Fin 32) (f : GroupRt → GroupRt) (s : State) : (updGroup g f s).scan = s.scan := rfl
@[simp] theorem updGroup_share (g : Fin 32) (f : GroupRt → GroupRt) (s : State) : (updGroup g f s).share = s.share := rfl
@[simp] theorem updGroup_sync (g : Fin 32) (f : GroupRt → GroupRt) (s : State) : (updGroup g f s).sync = s.sync := rfl
@[simp] theorem updGroup_resv (g : Fin 32) (f : GroupRt → GroupRt) (s : State) : (updGroup g f s).resv = s.resv := rfl
@[simp] theorem updGroup_line (g : Fin 32) (f : GroupRt → GroupRt) (s : State) : (updGroup g f s).line = s.line := rfl
@[simp] theorem updGroup_prof (g : Fin 32) (f : GroupRt → GroupRt) (s : State) : (updGroup g f s).prof = s.prof := rfl
@[simp] theorem updGroup_link (g : Fin 32) (f : GroupRt → GroupRt) (s : State) : (updGroup g f s).link = s.link := rfl
@[simp] theorem updGroup_start (g : Fin 32) (f : GroupRt → GroupRt) (s : State) : (updGroup g f s).start = s.start := rfl
@[simp] theorem updGroup_conf (g : Fin 32) (f : GroupRt → GroupRt) (s : State) : (updGroup g f s).conf = s.conf := rfl
@[simp] theorem updGroup_pending (g : Fin 32) (f : GroupRt → GroupRt) (s : State) : (updGroup g f s).pending = s.pending := rfl

@[simp] theorem recompute_scan (is : List (Fin 4)) (s : State) : (recompute is s).scan = s.scan := rfl
@[simp] theorem recompute_share (is : List (Fin 4)) (s : State) : (recompute is s).share = s.share := rfl
@[simp] theorem recompute_sync (is : List (Fin 4)) (s : State) : (recompute is s).sync = s.sync := rfl
@[simp] theorem recompute_shed (is : List (Fin 4)) (s : State) : (recompute is s).shed = s.shed := rfl
@[simp] theorem recompute_resv (is : List (Fin 4)) (s : State) : (recompute is s).resv = s.resv := rfl
@[simp] theorem recompute_line (is : List (Fin 4)) (s : State) : (recompute is s).line = s.line := rfl
@[simp] theorem recompute_prof (is : List (Fin 4)) (s : State) : (recompute is s).prof = s.prof := rfl
@[simp] theorem recompute_link (is : List (Fin 4)) (s : State) : (recompute is s).link = s.link := rfl
@[simp] theorem recompute_start (is : List (Fin 4)) (s : State) : (recompute is s).start = s.start := rfl
@[simp] theorem recompute_conf (is : List (Fin 4)) (s : State) : (recompute is s).conf = s.conf := rfl
@[simp] theorem recompute_pending (is : List (Fin 4)) (s : State) : (recompute is s).pending = s.pending := rfl

@[simp] theorem setShortfall_scan (i : Fin 4) (b : Bool) (s : State) : (setShortfall i b s).scan = s.scan := rfl
@[simp] theorem setShortfall_share (i : Fin 4) (b : Bool) (s : State) : (setShortfall i b s).share = s.share := rfl
@[simp] theorem setShortfall_sync (i : Fin 4) (b : Bool) (s : State) : (setShortfall i b s).sync = s.sync := rfl
@[simp] theorem setShortfall_shed (i : Fin 4) (b : Bool) (s : State) : (setShortfall i b s).shed = s.shed := rfl
@[simp] theorem setShortfall_resv (i : Fin 4) (b : Bool) (s : State) : (setShortfall i b s).resv = s.resv := rfl
@[simp] theorem setShortfall_line (i : Fin 4) (b : Bool) (s : State) : (setShortfall i b s).line = s.line := rfl
@[simp] theorem setShortfall_prof (i : Fin 4) (b : Bool) (s : State) : (setShortfall i b s).prof = s.prof := rfl
@[simp] theorem setShortfall_link (i : Fin 4) (b : Bool) (s : State) : (setShortfall i b s).link = s.link := rfl
@[simp] theorem setShortfall_start (i : Fin 4) (b : Bool) (s : State) : (setShortfall i b s).start = s.start := rfl
@[simp] theorem setShortfall_conf (i : Fin 4) (b : Bool) (s : State) : (setShortfall i b s).conf = s.conf := rfl
@[simp] theorem setShortfall_pending (i : Fin 4) (b : Bool) (s : State) : (setShortfall i b s).pending = s.pending := rfl

@[simp] theorem cancelRestore_plant (i : Fin 4) (s : State) : (cancelRestore i s).plant = s.plant := rfl
@[simp] theorem cancelRestore_scan (i : Fin 4) (s : State) : (cancelRestore i s).scan = s.scan := rfl
@[simp] theorem cancelRestore_share (i : Fin 4) (s : State) : (cancelRestore i s).share = s.share := rfl
@[simp] theorem cancelRestore_sync (i : Fin 4) (s : State) : (cancelRestore i s).sync = s.sync := rfl
@[simp] theorem cancelRestore_resv (i : Fin 4) (s : State) : (cancelRestore i s).resv = s.resv := rfl
@[simp] theorem cancelRestore_line (i : Fin 4) (s : State) : (cancelRestore i s).line = s.line := rfl
@[simp] theorem cancelRestore_prof (i : Fin 4) (s : State) : (cancelRestore i s).prof = s.prof := rfl
@[simp] theorem cancelRestore_link (i : Fin 4) (s : State) : (cancelRestore i s).link = s.link := rfl
@[simp] theorem cancelRestore_start (i : Fin 4) (s : State) : (cancelRestore i s).start = s.start := rfl
@[simp] theorem cancelRestore_conf (i : Fin 4) (s : State) : (cancelRestore i s).conf = s.conf := rfl
@[simp] theorem cancelRestore_pending (i : Fin 4) (s : State) : (cancelRestore i s).pending = s.pending := rfl

@[simp] theorem cancelRestores_plant (s : State) : (cancelRestores s).plant = s.plant := rfl
@[simp] theorem cancelRestores_scan (s : State) : (cancelRestores s).scan = s.scan := rfl
@[simp] theorem cancelRestores_share (s : State) : (cancelRestores s).share = s.share := rfl
@[simp] theorem cancelRestores_sync (s : State) : (cancelRestores s).sync = s.sync := rfl
@[simp] theorem cancelRestores_resv (s : State) : (cancelRestores s).resv = s.resv := rfl
@[simp] theorem cancelRestores_line (s : State) : (cancelRestores s).line = s.line := rfl
@[simp] theorem cancelRestores_prof (s : State) : (cancelRestores s).prof = s.prof := rfl
@[simp] theorem cancelRestores_link (s : State) : (cancelRestores s).link = s.link := rfl
@[simp] theorem cancelRestores_start (s : State) : (cancelRestores s).start = s.start := rfl
@[simp] theorem cancelRestores_conf (s : State) : (cancelRestores s).conf = s.conf := rfl
@[simp] theorem cancelRestores_pending (s : State) : (cancelRestores s).pending = s.pending := rfl

@[simp] theorem setDwell_plant (i : Fin 4) (d : Dwell) (s : State) : (setDwell i d s).plant = s.plant := rfl
@[simp] theorem setDwell_scan (i : Fin 4) (d : Dwell) (s : State) : (setDwell i d s).scan = s.scan := rfl
@[simp] theorem setDwell_share (i : Fin 4) (d : Dwell) (s : State) : (setDwell i d s).share = s.share := rfl
@[simp] theorem setDwell_sync (i : Fin 4) (d : Dwell) (s : State) : (setDwell i d s).sync = s.sync := rfl
@[simp] theorem setDwell_resv (i : Fin 4) (d : Dwell) (s : State) : (setDwell i d s).resv = s.resv := rfl
@[simp] theorem setDwell_line (i : Fin 4) (d : Dwell) (s : State) : (setDwell i d s).line = s.line := rfl
@[simp] theorem setDwell_prof (i : Fin 4) (d : Dwell) (s : State) : (setDwell i d s).prof = s.prof := rfl
@[simp] theorem setDwell_link (i : Fin 4) (d : Dwell) (s : State) : (setDwell i d s).link = s.link := rfl
@[simp] theorem setDwell_start (i : Fin 4) (d : Dwell) (s : State) : (setDwell i d s).start = s.start := rfl
@[simp] theorem setDwell_conf (i : Fin 4) (d : Dwell) (s : State) : (setDwell i d s).conf = s.conf := rfl
@[simp] theorem setDwell_pending (i : Fin 4) (d : Dwell) (s : State) : (setDwell i d s).pending = s.pending := rfl

@[simp] theorem answer_plant (x : Fin 12) (c : Fin 4) (a : Answer) (s : State) : (answer x c a s).plant = s.plant := rfl
@[simp] theorem answer_scan (x : Fin 12) (c : Fin 4) (a : Answer) (s : State) : (answer x c a s).scan = s.scan := rfl
@[simp] theorem answer_share (x : Fin 12) (c : Fin 4) (a : Answer) (s : State) : (answer x c a s).share = s.share := rfl
@[simp] theorem answer_sync (x : Fin 12) (c : Fin 4) (a : Answer) (s : State) : (answer x c a s).sync = s.sync := rfl
@[simp] theorem answer_shed (x : Fin 12) (c : Fin 4) (a : Answer) (s : State) : (answer x c a s).shed = s.shed := rfl
@[simp] theorem answer_resv (x : Fin 12) (c : Fin 4) (a : Answer) (s : State) : (answer x c a s).resv = s.resv := rfl
@[simp] theorem answer_prof (x : Fin 12) (c : Fin 4) (a : Answer) (s : State) : (answer x c a s).prof = s.prof := rfl
@[simp] theorem answer_link (x : Fin 12) (c : Fin 4) (a : Answer) (s : State) : (answer x c a s).link = s.link := rfl
@[simp] theorem answer_start (x : Fin 12) (c : Fin 4) (a : Answer) (s : State) : (answer x c a s).start = s.start := rfl
@[simp] theorem answer_conf (x : Fin 12) (c : Fin 4) (a : Answer) (s : State) : (answer x c a s).conf = s.conf := rfl
@[simp] theorem answer_pending (x : Fin 12) (c : Fin 4) (a : Answer) (s : State) : (answer x c a s).pending = s.pending := rfl

@[simp] theorem updEntry_plant (x : Fin 12) (c : Fin 4) (f : Entry → Entry) (s : State) : (updEntry x c f s).plant = s.plant := rfl
@[simp] theorem updEntry_scan (x : Fin 12) (c : Fin 4) (f : Entry → Entry) (s : State) : (updEntry x c f s).scan = s.scan := rfl
@[simp] theorem updEntry_share (x : Fin 12) (c : Fin 4) (f : Entry → Entry) (s : State) : (updEntry x c f s).share = s.share := rfl
@[simp] theorem updEntry_sync (x : Fin 12) (c : Fin 4) (f : Entry → Entry) (s : State) : (updEntry x c f s).sync = s.sync := rfl
@[simp] theorem updEntry_shed (x : Fin 12) (c : Fin 4) (f : Entry → Entry) (s : State) : (updEntry x c f s).shed = s.shed := rfl
@[simp] theorem updEntry_line (x : Fin 12) (c : Fin 4) (f : Entry → Entry) (s : State) : (updEntry x c f s).line = s.line := rfl
@[simp] theorem updEntry_prof (x : Fin 12) (c : Fin 4) (f : Entry → Entry) (s : State) : (updEntry x c f s).prof = s.prof := rfl
@[simp] theorem updEntry_link (x : Fin 12) (c : Fin 4) (f : Entry → Entry) (s : State) : (updEntry x c f s).link = s.link := rfl
@[simp] theorem updEntry_start (x : Fin 12) (c : Fin 4) (f : Entry → Entry) (s : State) : (updEntry x c f s).start = s.start := rfl
@[simp] theorem updEntry_conf (x : Fin 12) (c : Fin 4) (f : Entry → Entry) (s : State) : (updEntry x c f s).conf = s.conf := rfl
@[simp] theorem updEntry_pending (x : Fin 12) (c : Fin 4) (f : Entry → Entry) (s : State) : (updEntry x c f s).pending = s.pending := rfl

@[simp] theorem dropEntry_plant (x : Fin 12) (c : Fin 4) (s : State) : (dropEntry x c s).plant = s.plant := rfl
@[simp] theorem dropEntry_scan (x : Fin 12) (c : Fin 4) (s : State) : (dropEntry x c s).scan = s.scan := rfl
@[simp] theorem dropEntry_share (x : Fin 12) (c : Fin 4) (s : State) : (dropEntry x c s).share = s.share := rfl
@[simp] theorem dropEntry_sync (x : Fin 12) (c : Fin 4) (s : State) : (dropEntry x c s).sync = s.sync := rfl
@[simp] theorem dropEntry_shed (x : Fin 12) (c : Fin 4) (s : State) : (dropEntry x c s).shed = s.shed := rfl
@[simp] theorem dropEntry_line (x : Fin 12) (c : Fin 4) (s : State) : (dropEntry x c s).line = s.line := rfl
@[simp] theorem dropEntry_prof (x : Fin 12) (c : Fin 4) (s : State) : (dropEntry x c s).prof = s.prof := rfl
@[simp] theorem dropEntry_link (x : Fin 12) (c : Fin 4) (s : State) : (dropEntry x c s).link = s.link := rfl
@[simp] theorem dropEntry_start (x : Fin 12) (c : Fin 4) (s : State) : (dropEntry x c s).start = s.start := rfl
@[simp] theorem dropEntry_conf (x : Fin 12) (c : Fin 4) (s : State) : (dropEntry x c s).conf = s.conf := rfl
@[simp] theorem dropEntry_pending (x : Fin 12) (c : Fin 4) (s : State) : (dropEntry x c s).pending = s.pending := rfl

@[simp] theorem toOnline_scan (g : Fin 8) (k : Nat) (s : State) : (toOnline g k s).scan = s.scan := rfl
@[simp] theorem toOnline_sync (g : Fin 8) (k : Nat) (s : State) : (toOnline g k s).sync = s.sync := rfl
@[simp] theorem toOnline_shed (g : Fin 8) (k : Nat) (s : State) : (toOnline g k s).shed = s.shed := rfl
@[simp] theorem toOnline_resv (g : Fin 8) (k : Nat) (s : State) : (toOnline g k s).resv = s.resv := rfl
@[simp] theorem toOnline_line (g : Fin 8) (k : Nat) (s : State) : (toOnline g k s).line = s.line := rfl
@[simp] theorem toOnline_prof (g : Fin 8) (k : Nat) (s : State) : (toOnline g k s).prof = s.prof := rfl
@[simp] theorem toOnline_link (g : Fin 8) (k : Nat) (s : State) : (toOnline g k s).link = s.link := rfl
@[simp] theorem toOnline_start (g : Fin 8) (k : Nat) (s : State) : (toOnline g k s).start = s.start := rfl
@[simp] theorem toOnline_conf (g : Fin 8) (k : Nat) (s : State) : (toOnline g k s).conf = s.conf := rfl
@[simp] theorem toOnline_pending (g : Fin 8) (k : Nat) (s : State) : (toOnline g k s).pending = s.pending := rfl

@[simp] theorem park_plant (g : Fin 8) (s : State) : (park g s).plant = s.plant := rfl
@[simp] theorem park_scan (g : Fin 8) (s : State) : (park g s).scan = s.scan := rfl
@[simp] theorem park_sync (g : Fin 8) (s : State) : (park g s).sync = s.sync := rfl
@[simp] theorem park_shed (g : Fin 8) (s : State) : (park g s).shed = s.shed := rfl
@[simp] theorem park_resv (g : Fin 8) (s : State) : (park g s).resv = s.resv := rfl
@[simp] theorem park_line (g : Fin 8) (s : State) : (park g s).line = s.line := rfl
@[simp] theorem park_prof (g : Fin 8) (s : State) : (park g s).prof = s.prof := rfl
@[simp] theorem park_link (g : Fin 8) (s : State) : (park g s).link = s.link := rfl
@[simp] theorem park_start (g : Fin 8) (s : State) : (park g s).start = s.start := rfl
@[simp] theorem park_conf (g : Fin 8) (s : State) : (park g s).conf = s.conf := rfl
@[simp] theorem park_pending (g : Fin 8) (s : State) : (park g s).pending = s.pending := rfl

@[simp] theorem selectPair_plant (s : State) : (selectPair s).plant = s.plant := rfl
@[simp] theorem selectPair_share (s : State) : (selectPair s).share = s.share := rfl
@[simp] theorem selectPair_sync (s : State) : (selectPair s).sync = s.sync := rfl
@[simp] theorem selectPair_shed (s : State) : (selectPair s).shed = s.shed := rfl
@[simp] theorem selectPair_resv (s : State) : (selectPair s).resv = s.resv := rfl
@[simp] theorem selectPair_line (s : State) : (selectPair s).line = s.line := rfl
@[simp] theorem selectPair_prof (s : State) : (selectPair s).prof = s.prof := rfl
@[simp] theorem selectPair_link (s : State) : (selectPair s).link = s.link := rfl
@[simp] theorem selectPair_start (s : State) : (selectPair s).start = s.start := rfl
@[simp] theorem selectPair_conf (s : State) : (selectPair s).conf = s.conf := rfl
@[simp] theorem selectPair_pending (s : State) : (selectPair s).pending = s.pending := rfl

@[simp] theorem releasePair_plant (s : State) : (releasePair s).plant = s.plant := rfl
@[simp] theorem releasePair_share (s : State) : (releasePair s).share = s.share := rfl
@[simp] theorem releasePair_sync (s : State) : (releasePair s).sync = s.sync := rfl
@[simp] theorem releasePair_shed (s : State) : (releasePair s).shed = s.shed := rfl
@[simp] theorem releasePair_resv (s : State) : (releasePair s).resv = s.resv := rfl
@[simp] theorem releasePair_line (s : State) : (releasePair s).line = s.line := rfl
@[simp] theorem releasePair_prof (s : State) : (releasePair s).prof = s.prof := rfl
@[simp] theorem releasePair_link (s : State) : (releasePair s).link = s.link := rfl
@[simp] theorem releasePair_start (s : State) : (releasePair s).start = s.start := rfl
@[simp] theorem releasePair_conf (s : State) : (releasePair s).conf = s.conf := rfl
@[simp] theorem releasePair_pending (s : State) : (releasePair s).pending = s.pending := rfl

@[simp] theorem endRequest_plant (s : State) : (endRequest s).plant = s.plant := rfl
@[simp] theorem endRequest_share (s : State) : (endRequest s).share = s.share := rfl
@[simp] theorem endRequest_shed (s : State) : (endRequest s).shed = s.shed := rfl
@[simp] theorem endRequest_resv (s : State) : (endRequest s).resv = s.resv := rfl
@[simp] theorem endRequest_line (s : State) : (endRequest s).line = s.line := rfl
@[simp] theorem endRequest_prof (s : State) : (endRequest s).prof = s.prof := rfl
@[simp] theorem endRequest_link (s : State) : (endRequest s).link = s.link := rfl
@[simp] theorem endRequest_start (s : State) : (endRequest s).start = s.start := rfl
@[simp] theorem endRequest_conf (s : State) : (endRequest s).conf = s.conf := rfl
@[simp] theorem endRequest_pending (s : State) : (endRequest s).pending = s.pending := rfl

@[simp] theorem respond_plant (l : Link) (r : Response) (s : State) : (respond l r s).plant = s.plant := rfl
@[simp] theorem respond_scan (l : Link) (r : Response) (s : State) : (respond l r s).scan = s.scan := rfl
@[simp] theorem respond_share (l : Link) (r : Response) (s : State) : (respond l r s).share = s.share := rfl
@[simp] theorem respond_sync (l : Link) (r : Response) (s : State) : (respond l r s).sync = s.sync := rfl
@[simp] theorem respond_shed (l : Link) (r : Response) (s : State) : (respond l r s).shed = s.shed := rfl
@[simp] theorem respond_resv (l : Link) (r : Response) (s : State) : (respond l r s).resv = s.resv := rfl
@[simp] theorem respond_line (l : Link) (r : Response) (s : State) : (respond l r s).line = s.line := rfl
@[simp] theorem respond_prof (l : Link) (r : Response) (s : State) : (respond l r s).prof = s.prof := rfl
@[simp] theorem respond_start (l : Link) (r : Response) (s : State) : (respond l r s).start = s.start := rfl
@[simp] theorem respond_conf (l : Link) (r : Response) (s : State) : (respond l r s).conf = s.conf := rfl
@[simp] theorem respond_pending (l : Link) (r : Response) (s : State) : (respond l r s).pending = s.pending := rfl

@[simp] theorem updReq_plant (f : SyncReq → SyncReq) (s : State) : (updReq f s).plant = s.plant := rfl
@[simp] theorem updReq_scan (f : SyncReq → SyncReq) (s : State) : (updReq f s).scan = s.scan := rfl
@[simp] theorem updReq_share (f : SyncReq → SyncReq) (s : State) : (updReq f s).share = s.share := rfl
@[simp] theorem updReq_shed (f : SyncReq → SyncReq) (s : State) : (updReq f s).shed = s.shed := rfl
@[simp] theorem updReq_resv (f : SyncReq → SyncReq) (s : State) : (updReq f s).resv = s.resv := rfl
@[simp] theorem updReq_line (f : SyncReq → SyncReq) (s : State) : (updReq f s).line = s.line := rfl
@[simp] theorem updReq_prof (f : SyncReq → SyncReq) (s : State) : (updReq f s).prof = s.prof := rfl
@[simp] theorem updReq_link (f : SyncReq → SyncReq) (s : State) : (updReq f s).link = s.link := rfl
@[simp] theorem updReq_start (f : SyncReq → SyncReq) (s : State) : (updReq f s).start = s.start := rfl
@[simp] theorem updReq_conf (f : SyncReq → SyncReq) (s : State) : (updReq f s).conf = s.conf := rfl
@[simp] theorem updReq_pending (f : SyncReq → SyncReq) (s : State) : (updReq f s).pending = s.pending := rfl

@[simp] theorem updStation_plant (x : Fin 12) (f : StationRt → StationRt) (s : State) : (updStation x f s).plant = s.plant := rfl
@[simp] theorem updStation_scan (x : Fin 12) (f : StationRt → StationRt) (s : State) : (updStation x f s).scan = s.scan := rfl
@[simp] theorem updStation_share (x : Fin 12) (f : StationRt → StationRt) (s : State) : (updStation x f s).share = s.share := rfl
@[simp] theorem updStation_sync (x : Fin 12) (f : StationRt → StationRt) (s : State) : (updStation x f s).sync = s.sync := rfl
@[simp] theorem updStation_shed (x : Fin 12) (f : StationRt → StationRt) (s : State) : (updStation x f s).shed = s.shed := rfl
@[simp] theorem updStation_resv (x : Fin 12) (f : StationRt → StationRt) (s : State) : (updStation x f s).resv = s.resv := rfl
@[simp] theorem updStation_prof (x : Fin 12) (f : StationRt → StationRt) (s : State) : (updStation x f s).prof = s.prof := rfl
@[simp] theorem updStation_link (x : Fin 12) (f : StationRt → StationRt) (s : State) : (updStation x f s).link = s.link := rfl
@[simp] theorem updStation_start (x : Fin 12) (f : StationRt → StationRt) (s : State) : (updStation x f s).start = s.start := rfl
@[simp] theorem updStation_conf (x : Fin 12) (f : StationRt → StationRt) (s : State) : (updStation x f s).conf = s.conf := rfl
@[simp] theorem updStation_pending (x : Fin 12) (f : StationRt → StationRt) (s : State) : (updStation x f s).pending = s.pending := rfl

@[simp] theorem markDelivered_plant (x : Fin 12) (s : State) : (markDelivered x s).plant = s.plant := rfl
@[simp] theorem markDelivered_scan (x : Fin 12) (s : State) : (markDelivered x s).scan = s.scan := rfl
@[simp] theorem markDelivered_share (x : Fin 12) (s : State) : (markDelivered x s).share = s.share := rfl
@[simp] theorem markDelivered_sync (x : Fin 12) (s : State) : (markDelivered x s).sync = s.sync := rfl
@[simp] theorem markDelivered_shed (x : Fin 12) (s : State) : (markDelivered x s).shed = s.shed := rfl
@[simp] theorem markDelivered_resv (x : Fin 12) (s : State) : (markDelivered x s).resv = s.resv := rfl
@[simp] theorem markDelivered_prof (x : Fin 12) (s : State) : (markDelivered x s).prof = s.prof := rfl
@[simp] theorem markDelivered_link (x : Fin 12) (s : State) : (markDelivered x s).link = s.link := rfl
@[simp] theorem markDelivered_start (x : Fin 12) (s : State) : (markDelivered x s).start = s.start := rfl
@[simp] theorem markDelivered_conf (x : Fin 12) (s : State) : (markDelivered x s).conf = s.conf := rfl
@[simp] theorem markDelivered_pending (x : Fin 12) (s : State) : (markDelivered x s).pending = s.pending := rfl

@[simp] theorem updSetBank_plant (g : Fin 8) (f : SetBank → SetBank) (s : State) : (updSetBank g f s).plant = s.plant := rfl
@[simp] theorem updSetBank_scan (g : Fin 8) (f : SetBank → SetBank) (s : State) : (updSetBank g f s).scan = s.scan := rfl
@[simp] theorem updSetBank_share (g : Fin 8) (f : SetBank → SetBank) (s : State) : (updSetBank g f s).share = s.share := rfl
@[simp] theorem updSetBank_sync (g : Fin 8) (f : SetBank → SetBank) (s : State) : (updSetBank g f s).sync = s.sync := rfl
@[simp] theorem updSetBank_shed (g : Fin 8) (f : SetBank → SetBank) (s : State) : (updSetBank g f s).shed = s.shed := rfl
@[simp] theorem updSetBank_resv (g : Fin 8) (f : SetBank → SetBank) (s : State) : (updSetBank g f s).resv = s.resv := rfl
@[simp] theorem updSetBank_line (g : Fin 8) (f : SetBank → SetBank) (s : State) : (updSetBank g f s).line = s.line := rfl
@[simp] theorem updSetBank_link (g : Fin 8) (f : SetBank → SetBank) (s : State) : (updSetBank g f s).link = s.link := rfl
@[simp] theorem updSetBank_start (g : Fin 8) (f : SetBank → SetBank) (s : State) : (updSetBank g f s).start = s.start := rfl
@[simp] theorem updSetBank_conf (g : Fin 8) (f : SetBank → SetBank) (s : State) : (updSetBank g f s).conf = s.conf := rfl
@[simp] theorem updSetBank_pending (g : Fin 8) (f : SetBank → SetBank) (s : State) : (updSetBank g f s).pending = s.pending := rfl

@[simp] theorem startEntry_plant (c : EntryCmd) (p : Fin 8) (s : State) : (startEntry c p s).plant = s.plant := rfl
@[simp] theorem startEntry_scan (c : EntryCmd) (p : Fin 8) (s : State) : (startEntry c p s).scan = s.scan := rfl
@[simp] theorem startEntry_share (c : EntryCmd) (p : Fin 8) (s : State) : (startEntry c p s).share = s.share := rfl
@[simp] theorem startEntry_sync (c : EntryCmd) (p : Fin 8) (s : State) : (startEntry c p s).sync = s.sync := rfl
@[simp] theorem startEntry_shed (c : EntryCmd) (p : Fin 8) (s : State) : (startEntry c p s).shed = s.shed := rfl
@[simp] theorem startEntry_resv (c : EntryCmd) (p : Fin 8) (s : State) : (startEntry c p s).resv = s.resv := rfl
@[simp] theorem startEntry_line (c : EntryCmd) (p : Fin 8) (s : State) : (startEntry c p s).line = s.line := rfl
@[simp] theorem startEntry_link (c : EntryCmd) (p : Fin 8) (s : State) : (startEntry c p s).link = s.link := rfl
@[simp] theorem startEntry_start (c : EntryCmd) (p : Fin 8) (s : State) : (startEntry c p s).start = s.start := rfl
@[simp] theorem startEntry_conf (c : EntryCmd) (p : Fin 8) (s : State) : (startEntry c p s).conf = s.conf := rfl
@[simp] theorem startEntry_pending (c : EntryCmd) (p : Fin 8) (s : State) : (startEntry c p s).pending = s.pending := rfl

@[simp] theorem stopConfirms_plant (s : State) : (stopConfirms s).plant = s.plant := by unfold stopConfirms; rfl
@[simp] theorem stopConfirms_scan (s : State) : (stopConfirms s).scan = s.scan := by unfold stopConfirms; rfl
@[simp] theorem stopConfirms_share (s : State) : (stopConfirms s).share = s.share := by unfold stopConfirms; rfl
@[simp] theorem stopConfirms_sync (s : State) : (stopConfirms s).sync = s.sync := by unfold stopConfirms; rfl
@[simp] theorem stopConfirms_resv (s : State) : (stopConfirms s).resv = s.resv := by unfold stopConfirms; rfl
@[simp] theorem stopConfirms_line (s : State) : (stopConfirms s).line = s.line := by unfold stopConfirms; rfl
@[simp] theorem stopConfirms_prof (s : State) : (stopConfirms s).prof = s.prof := by unfold stopConfirms; rfl
@[simp] theorem stopConfirms_link (s : State) : (stopConfirms s).link = s.link := by unfold stopConfirms; rfl
@[simp] theorem stopConfirms_start (s : State) : (stopConfirms s).start = s.start := by unfold stopConfirms; rfl
@[simp] theorem stopConfirms_conf (s : State) : (stopConfirms s).conf = s.conf := by unfold stopConfirms; rfl
@[simp] theorem stopConfirms_pending (s : State) : (stopConfirms s).pending = s.pending := by unfold stopConfirms; rfl

@[simp] theorem startFilters_scan (s : State) : (startFilters s).scan = s.scan := rfl
@[simp] theorem startFilters_share (s : State) : (startFilters s).share = s.share := rfl
@[simp] theorem startFilters_sync (s : State) : (startFilters s).sync = s.sync := rfl
@[simp] theorem startFilters_shed (s : State) : (startFilters s).shed = s.shed := rfl
@[simp] theorem startFilters_resv (s : State) : (startFilters s).resv = s.resv := rfl
@[simp] theorem startFilters_line (s : State) : (startFilters s).line = s.line := rfl
@[simp] theorem startFilters_prof (s : State) : (startFilters s).prof = s.prof := rfl
@[simp] theorem startFilters_link (s : State) : (startFilters s).link = s.link := rfl
@[simp] theorem startFilters_start (s : State) : (startFilters s).start = s.start := rfl
@[simp] theorem startFilters_conf (s : State) : (startFilters s).conf = s.conf := rfl
@[simp] theorem startFilters_pending (s : State) : (startFilters s).pending = s.pending := rfl

@[simp] theorem startScanner_plant (s : State) : (startScanner s).plant = s.plant := rfl
@[simp] theorem startScanner_share (s : State) : (startScanner s).share = s.share := rfl
@[simp] theorem startScanner_sync (s : State) : (startScanner s).sync = s.sync := rfl
@[simp] theorem startScanner_shed (s : State) : (startScanner s).shed = s.shed := rfl
@[simp] theorem startScanner_resv (s : State) : (startScanner s).resv = s.resv := rfl
@[simp] theorem startScanner_line (s : State) : (startScanner s).line = s.line := rfl
@[simp] theorem startScanner_prof (s : State) : (startScanner s).prof = s.prof := rfl
@[simp] theorem startScanner_link (s : State) : (startScanner s).link = s.link := rfl
@[simp] theorem startScanner_start (s : State) : (startScanner s).start = s.start := rfl
@[simp] theorem startScanner_conf (s : State) : (startScanner s).conf = s.conf := rfl
@[simp] theorem startScanner_pending (s : State) : (startScanner s).pending = s.pending := rfl

@[simp] theorem updProfile_plant (p : Fin 8) (f : Profile → Profile) (s : State) : (updProfile p f s).plant = s.plant := rfl
@[simp] theorem updProfile_scan (p : Fin 8) (f : Profile → Profile) (s : State) : (updProfile p f s).scan = s.scan := rfl
@[simp] theorem updProfile_share (p : Fin 8) (f : Profile → Profile) (s : State) : (updProfile p f s).share = s.share := rfl
@[simp] theorem updProfile_sync (p : Fin 8) (f : Profile → Profile) (s : State) : (updProfile p f s).sync = s.sync := rfl
@[simp] theorem updProfile_shed (p : Fin 8) (f : Profile → Profile) (s : State) : (updProfile p f s).shed = s.shed := rfl
@[simp] theorem updProfile_resv (p : Fin 8) (f : Profile → Profile) (s : State) : (updProfile p f s).resv = s.resv := rfl
@[simp] theorem updProfile_line (p : Fin 8) (f : Profile → Profile) (s : State) : (updProfile p f s).line = s.line := rfl
@[simp] theorem updProfile_prof (p : Fin 8) (f : Profile → Profile) (s : State) : (updProfile p f s).prof = s.prof := rfl
@[simp] theorem updProfile_link (p : Fin 8) (f : Profile → Profile) (s : State) : (updProfile p f s).link = s.link := rfl
@[simp] theorem updProfile_pending (p : Fin 8) (f : Profile → Profile) (s : State) : (updProfile p f s).pending = s.pending := rfl

end Sys2Proof.Machine
end

