-- ==== Sys2Proof/Laws/Ops.lean ====
section
/-! SUPPORT. Lemmas of the shared operations: expiries, the passing of time, links, notices and filters. -/

namespace Sys2Proof.Machine

/-! ### Expiries and time -/

@[simp] theorem onExpiry_some (r : Nat) (s : State) (act : State → State) :
    onExpiry (some r) s act = act (elapse r s) := rfl

@[simp] theorem onExpiry_none (s : State) (act : State → State) : onExpiry none s act = s := rfl

/-- An expiry leaves alone whatever time and its act leave alone. -/
theorem onExpiry_ind {P : State → Prop} (t : Timer) (s : State) (act : State → State) (h : P s)
    (ht : ∀ n, P (elapse n s) → P (act (elapse n s))) (he : ∀ n, P s → P (elapse n s)) : P (onExpiry t s act) := by
  cases t with
  | none => exact h
  | some n => exact ht n (he n h)

theorem elapse_dead {n : Nat} {s : State} (h : s.alive = false) : elapse n s = s := by simp [elapse, h]

@[simp] theorem elapse_prof (n : Nat) (s : State) : (elapse n s).prof = s.prof := by unfold elapse; split <;> rfl
@[simp] theorem elapse_start (n : Nat) (s : State) : (elapse n s).start = s.start := by unfold elapse; split <;> rfl
@[simp] theorem elapse_conf (n : Nat) (s : State) : (elapse n s).conf = s.conf := by unfold elapse; split <;> rfl
@[simp] theorem elapse_pending (n : Nat) (s : State) : (elapse n s).pending = s.pending := by unfold elapse; split <;> rfl
@[simp] theorem elapse_sets (n : Nat) (s : State) : (elapse n s).plant.sets = s.plant.sets := by unfold elapse; split <;> rfl
@[simp] theorem elapse_accounts (n : Nat) (s : State) : (elapse n s).plant.accounts = s.plant.accounts := by
  unfold elapse; split <;> rfl
@[simp] theorem elapse_partition (n : Nat) (s : State) : (elapse n s).plant.partition = s.plant.partition := by
  unfold elapse; split <;> rfl
@[simp] theorem elapse_generation (n : Nat) (s : State) : (elapse n s).plant.generation = s.plant.generation := by
  unfold elapse; split <;> rfl
@[simp] theorem elapse_freq (n : Nat) (s : State) : (elapse n s).plant.freq = s.plant.freq := by
  unfold elapse; split <;> rfl
@[simp] theorem elapse_kw (n : Nat) (s : State) : (elapse n s).scan.kw = s.scan.kw := by unfold elapse; split <;> rfl
@[simp] theorem elapse_selector (n : Nat) (s : State) : (elapse n s).scan.selector = s.scan.selector := by
  unfold elapse; split <;> rfl
@[simp] theorem elapse_phi (n : Nat) (s : State) : (elapse n s).scan.phi = s.scan.phi := by unfold elapse; split <;> rfl
@[simp] theorem elapse_vin (n : Nat) (s : State) : (elapse n s).scan.vin = s.scan.vin := by unfold elapse; split <;> rfl
@[simp] theorem elapse_vref (n : Nat) (s : State) : (elapse n s).scan.vref = s.scan.vref := by
  unfold elapse; split <;> rfl
@[simp] theorem elapse_converting (n : Nat) (s : State) : (elapse n s).scan.converting = s.scan.converting := by
  unfold elapse; split <;> rfl
@[simp] theorem elapse_offset (n : Nat) (s : State) : (elapse n s).sync.offset = s.sync.offset := by
  unfold elapse; split <;> rfl
@[simp] theorem elapse_lastAbort (n : Nat) (s : State) : (elapse n s).sync.lastAbort = s.sync.lastAbort := by
  unfold elapse; split <;> rfl
@[simp] theorem elapse_counter (n : Nat) (s : State) : (elapse n s).resv.counter = s.resv.counter := by
  unfold elapse; split <;> rfl
@[simp] theorem elapse_lastWanted (n : Nat) (s : State) : (elapse n s).resv.lastWanted = s.resv.lastWanted := by
  unfold elapse; split <;> rfl
@[simp] theorem elapse_stations (n : Nat) (s : State) : (elapse n s).line.stations = s.line.stations := by
  unfold elapse; split <;> rfl
@[simp] theorem elapse_next (n : Nat) (s : State) : (elapse n s).line.next = s.line.next := by
  unfold elapse; split <;> rfl
@[simp] theorem elapse_current (n : Nat) (s : State) : (elapse n s).line.current = s.line.current := by
  unfold elapse; split <;> rfl
@[simp] theorem elapse_poll (n : Nat) (s : State) : (elapse n s).line.poll = s.line.poll := by
  unfold elapse; split <;> rfl

/-- What time leaves of a link: everything but its two timers. -/
theorem elapse_link (n : Nat) (s : State) (l : Link) :
    ((elapse n s).link.get l).active = (s.link.get l).active ∧
    ((elapse n s).link.get l).notices = (s.link.get l).notices ∧
    ((elapse n s).link.get l).overflow = (s.link.get l).overflow ∧
    ((elapse n s).link.get l).sending = (s.link.get l).sending ∧
    ((elapse n s).link.get l).waiting = (s.link.get l).waiting := by
  unfold elapse; split <;> cases l <;> exact ⟨rfl, rfl, rfl, rfl, rfl⟩

@[simp] theorem elapse_active (n : Nat) (s : State) (l : Link) :
    ((elapse n s).link.get l).active = (s.link.get l).active := (elapse_link n s l).1
@[simp] theorem elapse_notices (n : Nat) (s : State) (l : Link) :
    ((elapse n s).link.get l).notices = (s.link.get l).notices := (elapse_link n s l).2.1
@[simp] theorem elapse_overflow (n : Nat) (s : State) (l : Link) :
    ((elapse n s).link.get l).overflow = (s.link.get l).overflow := (elapse_link n s l).2.2.1

/-- What time leaves of a set's sharing record: everything but its two timers. -/
theorem elapse_share (n : Nat) (s : State) (g : Fin 8) :
    (elapse n s).share.sets[g].bias = s.share.sets[g].bias ∧ (elapse n s).share.sets[g].k = s.share.sets[g].k ∧
    (elapse n s).share.sets[g].sat = s.share.sets[g].sat ∧ (elapse n s).share.sets[g].unload = s.share.sets[g].unload := by
  unfold elapse; split <;> simp

@[simp] theorem elapse_bias (n : Nat) (s : State) (g : Fin 8) :
    (elapse n s).share.sets[g].bias = s.share.sets[g].bias := (elapse_share n s g).1
@[simp] theorem elapse_k (n : Nat) (s : State) (g : Fin 8) :
    (elapse n s).share.sets[g].k = s.share.sets[g].k := (elapse_share n s g).2.1
@[simp] theorem elapse_sat (n : Nat) (s : State) (g : Fin 8) :
    (elapse n s).share.sets[g].sat = s.share.sets[g].sat := (elapse_share n s g).2.2.1
@[simp] theorem elapse_unload (n : Nat) (s : State) (g : Fin 8) :
    (elapse n s).share.sets[g].unload = s.share.sets[g].unload := (elapse_share n s g).2.2.2

/-- What time leaves of a group: everything but its confirm timer, which runs exactly where it ran. -/
theorem elapse_group (n : Nat) (s : State) (g : Fin 32) :
    (elapse n s).shed.groups[g].state = s.shed.groups[g].state ∧
    (elapse n s).shed.groups[g].cause = s.shed.groups[g].cause ∧
    (elapse n s).shed.groups[g].out = s.shed.groups[g].out ∧
    (elapse n s).shed.groups[g].confirm.isSome = s.shed.groups[g].confirm.isSome := by
  unfold elapse; split <;> simp [Timer.elapse]

@[simp] theorem elapse_groupState (n : Nat) (s : State) (g : Fin 32) :
    (elapse n s).shed.groups[g].state = s.shed.groups[g].state := (elapse_group n s g).1
@[simp] theorem elapse_cause (n : Nat) (s : State) (g : Fin 32) :
    (elapse n s).shed.groups[g].cause = s.shed.groups[g].cause := (elapse_group n s g).2.1
@[simp] theorem elapse_out (n : Nat) (s : State) (g : Fin 32) :
    (elapse n s).shed.groups[g].out = s.shed.groups[g].out := (elapse_group n s g).2.2.1

/-- Time moves no raw level and no filtered state. -/
theorem elapse_filter (n : Nat) (s : State) (i : PlantInput) :
    (getFilter (elapse n s) i).raw = (getFilter s i).raw ∧
    (getFilter (elapse n s) i).filtered = (getFilter s i).filtered := by
  unfold elapse; split <;> cases i <;> simp [getFilter, Filter.elapse]

/-! ### Links -/

@[simp] theorem get_put_same (li : LinkIf) (l : Link) (x : LinkRt) : (li.put l x).get l = x := by cases l <;> rfl

theorem get_put_other (li : LinkIf) {l m : Link} (h : m ≠ l) (x : LinkRt) : (li.put l x).get m = li.get m := by
  cases l <;> cases m <;> first | rfl | exact absurd rfl h

@[simp] theorem put_clock (li : LinkIf) (l : Link) (x : LinkRt) : (li.put l x).clock = li.clock := by cases l <;> rfl
@[simp] theorem put_joint (li : LinkIf) (l : Link) (x : LinkRt) : (li.put l x).joint = li.joint := by cases l <;> rfl

@[simp] theorem updLink_get (l : Link) (f : LinkRt → LinkRt) (s : State) :
    (updLink l f s).link.get l = f (s.link.get l) := by cases l <;> rfl

theorem updLink_get_other {l m : Link} (h : m ≠ l) (f : LinkRt → LinkRt) (s : State) :
    (updLink l f s).link.get m = s.link.get m := get_put_other _ h _

@[simp] theorem other_ne (l : Link) : l.other ≠ l := by cases l <;> decide

@[simp] theorem updLink_get_opp (l : Link) (f : LinkRt → LinkRt) (s : State) :
    (updLink l f s).link.get l.other = s.link.get l.other := updLink_get_other (other_ne l) f s

@[simp] theorem updLink_clock (l : Link) (f : LinkRt → LinkRt) (s : State) : (updLink l f s).link.clock = s.link.clock := by
  cases l <;> rfl
@[simp] theorem updLink_joint (l : Link) (f : LinkRt → LinkRt) (s : State) : (updLink l f s).link.joint = s.link.joint := by
  cases l <;> rfl

/-! ### Notices -/

/-- A notice appended leaves everything of a link but its queue and its OVERFLOW mark. -/
theorem append_rest (n : Notice) (x : LinkRt) :
    (x.append n).active = x.active ∧ (x.append n).timer = x.timer ∧ (x.append n).sending = x.sending ∧
    (x.append n).waiting = x.waiting ∧ (x.append n).frame = x.frame := by
  unfold LinkRt.append; split <;> exact ⟨rfl, rfl, rfl, rfl, rfl⟩

@[simp] theorem append_active (n : Notice) (x : LinkRt) : (x.append n).active = x.active := (append_rest n x).1
@[simp] theorem append_timer (n : Notice) (x : LinkRt) : (x.append n).timer = x.timer := (append_rest n x).2.1
@[simp] theorem append_sending (n : Notice) (x : LinkRt) : (x.append n).sending = x.sending := (append_rest n x).2.2.1
@[simp] theorem append_waiting (n : Notice) (x : LinkRt) : (x.append n).waiting = x.waiting := (append_rest n x).2.2.2.1
@[simp] theorem append_frame (n : Notice) (x : LinkRt) : (x.append n).frame = x.frame := (append_rest n x).2.2.2.2

/-- A queue grows by the notice, or drops it with OVERFLOW set; it never passes 32. -/
theorem append_cases (n : Notice) (x : LinkRt) :
    (x.notices.length < 32 ∧ (x.append n).notices = x.notices ++ [n] ∧ (x.append n).overflow = x.overflow) ∨
    (32 ≤ x.notices.length ∧ (x.append n).notices = x.notices ∧ (x.append n).overflow = true) := by
  unfold LinkRt.append
  split
  · next h => exact Or.inl ⟨h, rfl, rfl⟩
  · next h => exact Or.inr ⟨Nat.le_of_not_lt h, rfl, rfl⟩

theorem append_length (n : Notice) (x : LinkRt) (h : x.notices.length ≤ 32) : (x.append n).notices.length ≤ 32 := by
  rcases append_cases n x with ⟨hl, he, _⟩ | ⟨_, he, _⟩
  · rw [he, List.length_append]; exact hl
  · rw [he]; exact h

/-- What a notice appended makes of a queue depends on the queue alone. -/
theorem append_congr (n : Notice) {x y : LinkRt} (h : x.notices = y.notices) :
    (x.append n).notices = (y.append n).notices := by
  unfold LinkRt.append; rw [h]; split <;> rfl

/-- A notice takes of the state the generation and the notice clock alone. -/
theorem newNotice_of {s t : State} (hg : t.plant.generation = s.plant.generation) (hc : t.link.clock = s.link.clock)
    (k : NoticeKind) (a : Option Nat) (v : Option Int) : newNotice k a v t = newNotice k a v s := by
  simp [newNotice, hg, hc]

theorem append_prefix (n : Notice) (x : LinkRt) : ∃ more, (x.append n).notices = x.notices ++ more := by
  rcases append_cases n x with ⟨_, he, _⟩ | ⟨_, he, _⟩
  · exact ⟨[n], he⟩
  · exact ⟨[], by rw [he, List.append_nil]⟩

@[simp] theorem notify_get (k : NoticeKind) (a : Option Nat) (v : Option Int) (s : State) (l : Link) :
    (notify k a v s).link.get l = (s.link.get l).append (newNotice k a v s) := by cases l <;> rfl
@[simp] theorem notify_clock (k : NoticeKind) (a : Option Nat) (v : Option Int) (s : State) :
    (notify k a v s).link.clock = s.link.clock := rfl
@[simp] theorem notify_joint (k : NoticeKind) (a : Option Nat) (v : Option Int) (s : State) :
    (notify k a v s).link.joint = s.link.joint := rfl

/-- From `s` to `t` notices are only added, at the end of each queue, and no queue passes 32. -/
def Grows (s t : State) : Prop :=
  ∀ l : Link, (∃ more, (t.link.get l).notices = (s.link.get l).notices ++ more) ∧
    ((s.link.get l).notices.length ≤ 32 → (t.link.get l).notices.length ≤ 32)

theorem Grows.refl (s : State) : Grows s s := fun _ => ⟨⟨[], (List.append_nil _).symm⟩, id⟩

theorem Grows.trans {s t u : State} (h : Grows s t) (k : Grows t u) : Grows s u := fun l => by
  obtain ⟨⟨a, ha⟩, hb⟩ := h l
  obtain ⟨⟨b, kb⟩, kl⟩ := k l
  exact ⟨⟨a ++ b, by rw [kb, ha, List.append_assoc]⟩, fun n => kl (hb n)⟩

/-- Where each queue stands as it stood. -/
theorem grows_of_notices {s t : State} (h : ∀ l, (t.link.get l).notices = (s.link.get l).notices) : Grows s t := fun l => by
  rw [h l]; exact ⟨⟨[], (List.append_nil _).symm⟩, id⟩

theorem grows_of_link {s t : State} (h : t.link = s.link) : Grows s t := grows_of_notices fun l => by rw [h]

theorem grows_notify (k : NoticeKind) (a : Option Nat) (v : Option Int) (s : State) : Grows s (notify k a v s) :=
  fun l => by rw [notify_get]; exact ⟨append_prefix _ _, append_length _ _⟩

theorem grows_elapse (n : Nat) (s : State) : Grows s (elapse n s) := grows_of_notices fun l => elapse_notices n s l

/-- Growth keeps the notice law. -/
theorem Grows.noticeLaw {s t : State} (h : Grows s t) (l : NoticeLaw s) : NoticeLaw t := ⟨(h .a).2 l.1, (h .b).2 l.2⟩

/-- A notice sent, and after it only others. -/
theorem sends_of_grows {k : NoticeKind} {a : Option Nat} {v : Option Int} {s t : State} (h : Grows (notify k a v s) t) :
    Sends (newNotice k a v s) s t := ⟨(h .a).1, (h .b).1⟩

theorem sends_notify (k : NoticeKind) (a : Option Nat) (v : Option Int) (s : State) :
    Sends (newNotice k a v s) s (notify k a v s) := sends_of_grows (Grows.refl _)

/-! ### Filters -/

@[simp] theorem getFilter_setFilter (i : PlantInput) (f : Filter) (s : State) : getFilter (setFilter i f s) i = f := by
  cases i <;> simp [getFilter, setFilter]

theorem getFilter_setFilter_ne {i j : PlantInput} (h : j ≠ i) (f : Filter) (s : State) :
    getFilter (setFilter i f s) j = getFilter s j := by
  cases i <;> cases j <;> simp [getFilter, setFilter] <;> intro e <;> exact absurd (by rw [Fin.ext e]) h

@[simp] theorem setFilter_sets (i : PlantInput) (f : Filter) (s : State) : (setFilter i f s).plant.sets = s.plant.sets := by
  cases i <;> rfl
@[simp] theorem setFilter_partition (i : PlantInput) (f : Filter) (s : State) :
    (setFilter i f s).plant.partition = s.plant.partition := by cases i <;> rfl
@[simp] theorem setFilter_generation (i : PlantInput) (f : Filter) (s : State) :
    (setFilter i f s).plant.generation = s.plant.generation := by cases i <;> rfl
@[simp] theorem setFilter_accounts (i : PlantInput) (f : Filter) (s : State) :
    (setFilter i f s).plant.accounts = s.plant.accounts := by cases i <;> rfl
@[simp] theorem setFilter_freq (i : PlantInput) (f : Filter) (s : State) :
    (setFilter i f s).plant.freq = s.plant.freq := by cases i <;> rfl
@[simp] theorem setFilter_scan (i : PlantInput) (f : Filter) (s : State) : (setFilter i f s).scan = s.scan := by
  cases i <;> rfl
@[simp] theorem setFilter_share (i : PlantInput) (f : Filter) (s : State) : (setFilter i f s).share = s.share := by
  cases i <;> rfl
@[simp] theorem setFilter_sync (i : PlantInput) (f : Filter) (s : State) : (setFilter i f s).sync = s.sync := by
  cases i <;> rfl
@[simp] theorem setFilter_shed (i : PlantInput) (f : Filter) (s : State) : (setFilter i f s).shed = s.shed := by
  cases i <;> rfl
@[simp] theorem setFilter_resv (i : PlantInput) (f : Filter) (s : State) : (setFilter i f s).resv = s.resv := by
  cases i <;> rfl
@[simp] theorem setFilter_line (i : PlantInput) (f : Filter) (s : State) : (setFilter i f s).line = s.line := by
  cases i <;> rfl
@[simp] theorem setFilter_prof (i : PlantInput) (f : Filter) (s : State) : (setFilter i f s).prof = s.prof := by
  cases i <;> rfl
@[simp] theorem setFilter_link (i : PlantInput) (f : Filter) (s : State) : (setFilter i f s).link = s.link := by
  cases i <;> rfl
@[simp] theorem setFilter_start (i : PlantInput) (f : Filter) (s : State) : (setFilter i f s).start = s.start := by
  cases i <;> rfl
@[simp] theorem setFilter_conf (i : PlantInput) (f : Filter) (s : State) : (setFilter i f s).conf = s.conf := by
  cases i <;> rfl
@[simp] theorem setFilter_pending (i : PlantInput) (f : Filter) (s : State) : (setFilter i f s).pending = s.pending := by
  cases i <;> rfl

/-- The inputs of a state are a function of its Plant Image. -/
theorem getFilter_plant {s t : State} (h : t.plant = s.plant) (i : PlantInput) : getFilter t i = getFilter s i := by
  cases i <;> simp [getFilter, h]

end Sys2Proof.Machine
end

