-- ==== Sys2Proof/Laws/Accounts.lean ====
section
/-! SUPPORT. What a recomputation writes into the island accounts (01 R17, R20 to R23). -/

namespace Sys2Proof.Machine

theorem four_sorted : four.Pairwise (· < ·) := by decide

/-- The first of an ascending list that holds, as the least that holds. -/
theorem find_least {n : Nat} {p : Fin n → Bool} {xs : List (Fin n)} (hs : xs.Pairwise (· < ·)) (x : Fin n) :
    xs.find? p = some x ↔ x ∈ xs ∧ p x = true ∧ ∀ y ∈ xs, y < x → p y = false := by
  induction xs with
  | nil => simp
  | cons z zs ih =>
    obtain ⟨hz, hs'⟩ := List.pairwise_cons.1 hs
    by_cases h : p z = true
    · rw [List.find?_cons_of_pos h]
      constructor
      · rintro ⟨⟩
        refine ⟨by simp, h, fun y hy hlt => ?_⟩
        rcases List.mem_cons.1 hy with rfl | hy
        · exact absurd hlt (lt_irrefl _)
        · exact absurd (hz y hy) (not_lt_of_gt hlt)
      · rintro ⟨hx, _, hl⟩
        rcases List.mem_cons.1 hx with rfl | hx
        · rfl
        · have := hl z (by simp) (hz x hx); rw [h] at this; cases this
    · rw [List.find?_cons_of_neg h, ih hs']
      constructor
      · rintro ⟨hx, hp, hl⟩
        refine ⟨by simp [hx], hp, fun y hy hlt => ?_⟩
        rcases List.mem_cons.1 hy with rfl | hy
        · simpa using h
        · exact hl y hy hlt
      · rintro ⟨hx, hp, hl⟩
        rcases List.mem_cons.1 hx with rfl | hx
        · exact absurd hp h
        · exact ⟨hx, hp, fun y hy => hl y (List.mem_cons_of_mem _ hy)⟩

theorem islandFreq_some {s : State} {xs : List (Fin 4)} (hs : xs.Pairwise (· < ·)) (f : Nat) :
    islandFreq s xs = some f ↔
      ∃ x ∈ xs, (s.scan.sect[x].live = .live ∧ (s.plant.freq[x]).isSome = true) ∧ s.plant.freq[x] = some f ∧
        ∀ y ∈ xs, y < x → ¬ (s.scan.sect[y].live = .live ∧ (s.plant.freq[y]).isSome = true) := by
  unfold islandFreq
  constructor
  · intro h
    split at h
    · next x hx =>
      obtain ⟨hm, hp, hl⟩ := (find_least hs x).1 hx
      exact ⟨x, hm, by simpa using hp, h, fun y hy hlt hc => by have := hl y hy hlt; rw [hc.2] at this; simp [hc.1, -Fin.getElem_fin] at this⟩
    · cases h
  · rintro ⟨x, hm, hp, hf, hl⟩
    have : xs.find? (fun x => decide (s.scan.sect[x].live = .live) && (s.plant.freq[x]).isSome) = some x := by
      refine (find_least hs x).2 ⟨hm, by rw [hp.2]; simp [hp.1, -Fin.getElem_fin], fun y hy hlt => ?_⟩
      have := hl y hy hlt
      rw [← Bool.not_eq_true, Bool.and_eq_true, decide_eq_true_eq]
      exact this
    rw [this]; exact hf

/-- A recomputed account is the one of 01 R20 to R22. -/
theorem accountOf_computeAccount {s : State} {p : Vector (Fin 4) 4} (hp : s.plant.partition = some p) (i : Fin 4)
    (b : Bool) : AccountOf s i (computeAccount s p i b) := by
  have hsec : sectionsOf p i = four.filter (fun x => decide (islandOf s x = some i)) := by
    simp [sectionsOf, islandOf, hp]
  unfold AccountOf computeAccount
  dsimp only
  refine ⟨hsec, ?_, rfl, ?_, ?_, rfl, rfl, ?_, ?_, ?_, ?_, ?_, ?_, ?_⟩
  · unfold onlineSets
    refine List.filter_congr fun g _ => ?_
    cases hst : s.plant.sets[g].state <;> simp [SetState.isOnline]
  · unfold capacitySets limited
    congr 2
    refine List.filter_congr fun g _ => ?_
    simp only [Bool.and_assoc, Bool.and_comm]
  · unfold capacitySets limited
    congr 2
    refine List.filter_congr fun g _ => ?_
    simp only [Bool.and_assoc, Bool.and_comm]
  · intro h; simp [wantedOf, h]
  · intro e h; simp [wantedOf, h]; omega
  · intro f
    have hs : (sectionsOf p i).Pairwise (· < ·) := four_sorted.filter _
    exact islandFreq_some hs f
  · simp [degradedFlag]
  · simp only [overloadPart, underPart, Bool.or_eq_true, decide_eq_true_eq]
    cases islandFreq s (sectionsOf p i) <;> simp
  · simp only [allBaseFlag, Bool.and_eq_true, List.all_eq_true]
    constructor
    · rintro ⟨h1, h2⟩
      exact ⟨by simpa using h1, fun g hg hc => by have := h2 g hg; simp [hc.1, hc.2, -Fin.getElem_fin] at this⟩
    · rintro ⟨h1, h2⟩
      exact ⟨by simpa using h1, fun g hg => by have := h2 g hg; simpa [-Fin.getElem_fin, -not_and, Decidable.not_and_iff_or_not] using this⟩
  · simp

/-- What a recomputation writes into the accounts (01 R17, R20 to R23). -/
theorem recompute_account {s : State} {p : Vector (Fin 4) 4} (hp : s.plant.partition = some p) {is : List (Fin 4)}
    {i : Fin 4} (hi : i ∈ is) (h : p[i] = i) (hv : ∃ x : Fin 4, p[x] = i ∧ sectPresent s x = true) :
    ∃ a, (recompute is s).plant.accounts[i] = some a ∧ AccountOf s i a ∧
      a.shortfall = (match s.plant.accounts[i] with | some b => b.shortfall | none => false) := by
  refine ⟨_, ?_, accountOf_computeAccount hp i _, rfl⟩
  obtain ⟨x, hx, hpr⟩ := hv
  have hf : ∀ x : Fin 4, x ∈ four := by decide
  have : (sectionsOf p i).any (sectPresent s) = true := by
    simp only [List.any_eq_true, sectionsOf, List.mem_filter, decide_eq_true_eq]
    exact ⟨x, ⟨hf x, hx⟩, hpr⟩
  show (tab _ s.plant.accounts)[i] = _
  rw [get_tab]
  rw [if_pos hi]
  simp only [newAccount, hp]
  exact (if_pos ⟨h, this⟩).trans rfl

/-- A recomputation leaves the accounts of the islands it is not of. -/
theorem recompute_unlisted {s : State} {is : List (Fin 4)} {i : Fin 4} (hi : i ∉ is) :
    (recompute is s).plant.accounts[i] = s.plant.accounts[i] := by
  show (tab _ s.plant.accounts)[i] = _
  rw [get_tab, if_neg hi]

/-- A recomputation leaves no account of an island that is none, or is vacant (01 R17). -/
theorem recompute_vacant {s : State} {is : List (Fin 4)} {i : Fin 4} (hi : i ∈ is)
    (h : ∀ p, s.plant.partition = some p → p[i] = i → ∀ x : Fin 4, p[x] = i → sectPresent s x = false) :
    (recompute is s).plant.accounts[i] = none := by
  show (tab _ s.plant.accounts)[i] = _
  rw [get_tab, if_pos hi]
  unfold newAccount
  split
  · rfl
  · next p hp =>
    rw [if_neg]
    rintro ⟨h1, h2⟩
    obtain ⟨x, hx, hpr⟩ := List.any_eq_true.1 h2
    have := h p hp h1 x (by simpa [sectionsOf, -Fin.getElem_fin] using (List.mem_filter.1 hx).2)
    rw [hpr] at this; cases this

end Sys2Proof.Machine
end

