-- ==== Sys2Proof/Laws/Formats.lean ====
section
/-! SUPPORT. A settings block as the list of its sixteen fields: a field made ready is one the block can hold, and a
write of one keeps a consistent block consistent. -/

namespace Sys2Proof.Machine

/-- A field made ready is never negative beside an overload dwell that is not. -/
theorem readyField_nonneg (n : Nat) {o : Int} (u v : Int) (ho : 0 ≤ o) : 0 ≤ readyField n o u v := by
  unfold readyField
  split <;> simp only [clamp] <;> omega

/-- The auto restore field made ready is a flag code. -/
theorem readyField_flag (o u v : Int) : readyField 12 o u v = 0 ∨ readyField 12 o u v = 1 := by
  simp only [readyField, clamp]; omega

/-- A block with one field replaced by a value it can hold. -/
theorem ofList_set (b : Settings) (n : Fin 16) {v : Int} (hv : 0 ≤ v) (hf : n.val = 12 → v = 0 ∨ v = 1) :
    ∃ c, Settings.ofList (b.toList.set n.val v) = some c ∧ c.toList = b.toList.set n.val v := by
  obtain ⟨n, hn⟩ := n
  by_cases h : n = 12
  · subst h
    refine ⟨_, rfl, ?_⟩
    rcases hf rfl with rfl | rfl <;> simp [Settings.toList]
  · interval_cases n
    all_goals first | exact absurd rfl h | refine ⟨_, rfl, ?_⟩
    all_goals cases ha : b.autoRestore <;> simp [Settings.toList, ha, hv]

/-- An Initial block made ready is one a block holds. -/
theorem ofList_readyBlock {vs : List Int} (h : vs.length = 16) :
    ∃ c, Settings.ofList (readyBlock vs) = some c ∧ c.toList = readyBlock vs := by
  match vs, h with
  | [v0, v1, v2, v3, v4, v5, v6, v7, v8, v9, v10, v11, v12, v13, v14, v15], _ =>
    refine ⟨_, rfl, ?_⟩
    simp only [Settings.toList, readyBlock, List.mapIdx_cons, List.mapIdx_nil]
    simp [readyField, clamp]
    split_ifs <;> omega

/-- A field made ready and written keeps a consistent block consistent (08 R147). -/
theorem consistent_set {b c : Settings} {n : Fin 16} {v : Int} (hb : b.consistent = true)
    (hc : c.toList = b.toList.set n.val (readyField n.val b.overDwell b.underDwell v)) : c.consistent = true := by
  obtain ⟨n, hn⟩ := n
  simp only [Settings.consistent, Settings.inRange, within, Bool.and_eq_true, decide_eq_true_eq] at hb ⊢
  interval_cases n <;> simp [Settings.toList, readyField, clamp] at hc
  all_goals omega

/-! ### Request frames (09 R153, 11 R172) -/

theorem writeField_w2_length (v : Int) : (writeField .w2 v).length = 2 := rfl

theorem crcChars_length (cs : List Byte) : (crcChars cs).length = 2 := rfl

/-- The two length characters of a request spell its length. -/
theorem w2_append {n : Nat} (h : n < 65536) :
    ((BitVec.ofInt 16 (n : Int)).extractLsb' 8 8 ++ (BitVec.ofInt 16 (n : Int)).extractLsb' 0 8 : BitVec 16).toNat = n := by
  rw [BitVec.toNat_append, BitVec.extractLsb'_toNat, BitVec.extractLsb'_toNat, ← Nat.shiftLeft_add_eq_or_of_lt]
  · simp only [BitVec.toNat_ofInt, Nat.shiftLeft_eq, Nat.shiftRight_eq_div_pow]
    omega
  · exact Nat.mod_lt _ (by decide)

/-- A whole frame whose length is in range is valid exactly where its CRC-16 matches. -/
theorem gathered_whole {hi lo : Byte} {body crc : List Byte} (hn : (hi ++ lo).toNat = body.length)
    (h2 : 2 ≤ body.length) (h3 : body.length ≤ 300) (hc : crc.length = 2) :
    gathered (hi :: lo :: (body ++ crc)) =
      some (if crc = crcChars (hi :: lo :: body) then .valid else .discarded) := by
  simp [gathered, hn, lengthOk, h2, h3, hc]

/-- A length out of range discards the frame at its second length character. -/
theorem gathered_badLength {hi lo : Byte} (h : (hi ++ lo).toNat < 2 ∨ 300 < (hi ++ lo).toNat) :
    gathered [hi, lo] = some .discarded := by
  have : lengthOk (hi ++ lo).toNat = false := by
    simp only [lengthOk, Bool.and_eq_false_iff, decide_eq_false_iff_not]; omega
  simp [gathered, this]

/-- A frame is not complete before its last CRC character. -/
theorem gathered_incomplete {hi lo : Byte} {rest : List Byte} (h2 : 2 ≤ (hi ++ lo).toNat) (h3 : (hi ++ lo).toNat ≤ 300)
    (h : rest.length < (hi ++ lo).toNat + 2) : gathered (hi :: lo :: rest) = some .incomplete := by
  simp [gathered, lengthOk, h2, h3, h]

/-- The frame of a request whose length is in range is valid. -/
theorem gathered_request {kind seq : Byte} {fields : List Byte} (h : fields.length ≤ 298) :
    gathered (requestChars kind seq fields) = some .valid := by
  have e := gathered_whole (hi := (BitVec.ofInt 16 ((fields.length + 2 : Nat) : Int)).extractLsb' 8 8)
    (lo := (BitVec.ofInt 16 ((fields.length + 2 : Nat) : Int)).extractLsb' 0 8) (body := kind :: seq :: fields)
    (crc := crcChars (writeField .w2 (fields.length + 2 : Nat) ++ kind :: seq :: fields))
    (by rw [w2_append (by omega)]; rfl) (by simp) (by simp; omega) rfl
  exact e.trans (congrArg some (if_pos rfl))

end Sys2Proof.Machine
end

