-- ==== Sys2Proof/Laws/Frames.lean ====
section
/-! SUPPORT. What an account update and all it hands on leave alone, operation by operation, and how each of them treats
the notice queues. -/

namespace Sys2Proof.Machine

/-! ### The frame is reflexive and composes -/

theorem UpdateFrame.refl (s : State) : UpdateFrame s s :=
  ⟨fun _ => rfl, ⟨rfl, rfl, rfl⟩, fun _ => rfl, ⟨rfl, rfl, rfl, rfl, rfl⟩, fun _ => ⟨rfl, rfl, rfl⟩, rfl,
    ⟨rfl, rfl, rfl, rfl, rfl⟩, fun _ => ⟨rfl, rfl⟩, fun _ => ⟨rfl, rfl, rfl, rfl, rfl⟩, rfl, rfl, rfl⟩

theorem UpdateFrame.trans {s t u : State} (h : UpdateFrame s t) (k : UpdateFrame t u) : UpdateFrame s u := by
  obtain ⟨h1, ⟨h2, h3, h4⟩, h5, ⟨h6, h7, h8, h9, h10⟩, h11, h12, ⟨h13, h14, h15, h16, h17⟩, h18, h19, h20, h21, h22⟩ := h
  obtain ⟨k1, ⟨k2, k3, k4⟩, k5, ⟨k6, k7, k8, k9, k10⟩, k11, k12, ⟨k13, k14, k15, k16, k17⟩, k18, k19, k20, k21, k22⟩ := k
  refine ⟨fun i => (k1 i).trans (h1 i), ⟨k2.trans h2, k3.trans h3, k4.trans h4⟩, fun g => (k5 g).trans (h5 g),
    ⟨k6.trans h6, k7.trans h7, k8.trans h8, k9.trans h9, k10.trans h10⟩,
    fun g => ⟨(k11 g).1.trans (h11 g).1, (k11 g).2.1.trans (h11 g).2.1, (k11 g).2.2.trans (h11 g).2.2⟩, k12.trans h12,
    ⟨k13.trans h13, k14.trans h14, k15.trans h15, k16.trans h16, k17.trans h17⟩,
    fun x => ⟨(k18 x).1.trans (h18 x).1, (k18 x).2.trans (h18 x).2⟩, fun l => ?_, k20.trans h20, k21.trans h21,
    k22.trans h22⟩
  obtain ⟨a1, a2, a3, a4, a5⟩ := h19 l
  obtain ⟨b1, b2, b3, b4, b5⟩ := k19 l
  exact ⟨b1.trans a1, b2.trans a2, b3.trans a3, b4.trans a4, b5.trans a5⟩

/-- An update of the kind: inside the frame, with notices only added. -/
def Updates (s t : State) : Prop := UpdateFrame s t ∧ Grows s t

theorem Updates.refl (s : State) : Updates s s := ⟨UpdateFrame.refl s, Grows.refl s⟩

theorem Updates.trans {s t u : State} (h : Updates s t) (k : Updates t u) : Updates s u :=
  ⟨h.1.trans k.1, h.2.trans k.2⟩

/-- A fold of updates of the kind is one. -/
theorem updates_foldl {α : Type} {f : State → α → State} (h : ∀ t a, Updates t (f t a)) (l : List α) (s : State) :
    Updates s (l.foldl f s) := foldl_inv (P := Updates s) (fun _ a hb => hb.trans (h _ a)) l s (Updates.refl s)

/-- A change of the accounts, the groups, the dwell and restore timers, the reservation queue and the set states and
sharing records that keeps latches, biases, pulses and SATURATED is of the kind. -/
theorem updates_of {s t : State}
    (inputs : t.plant.gcb = s.plant.gcb ∧ t.plant.ready = s.plant.ready ∧ t.plant.trip = s.plant.trip ∧
      t.plant.tie = s.plant.tie ∧ t.plant.confirm = s.plant.confirm)
    (part : t.plant.partition = s.plant.partition ∧ t.plant.generation = s.plant.generation ∧ t.plant.freq = s.plant.freq)
    (latch : ∀ g : Fin 8, t.plant.sets[g].latch = s.plant.sets[g].latch)
    (blocks : t.scan = s.scan ∧ t.sync = s.sync ∧ t.prof = s.prof ∧ t.start = s.start ∧ t.conf = s.conf)
    (share : ∀ g : Fin 8, t.share.sets[g].bias = s.share.sets[g].bias ∧
      t.share.sets[g].openPulse = s.share.sets[g].openPulse ∧ t.share.sets[g].sat = s.share.sets[g].sat)
    (period : t.share.period = s.share.period)
    (line : t.line.slot = s.line.slot ∧ t.line.next = s.line.next ∧ t.line.current = s.line.current ∧
      t.line.poll = s.line.poll ∧ t.line.window = s.line.window)
    (stations : ∀ x : Fin 12, t.line.stations[x].state = s.line.stations[x].state ∧
      t.line.stations[x].miss = s.line.stations[x].miss)
    (link : t.link = s.link) (pending : t.pending = s.pending) : Updates s t := by
  refine ⟨⟨fun i => ?_, part, latch, blocks, fun g => ⟨(share g).1, ?_, (share g).2.2⟩, period, line, stations,
    fun l => ?_, ?_, ?_, pending⟩, grows_of_link link⟩
  · obtain ⟨h1, h2, h3, h4, h5⟩ := inputs
    cases i <;> simp only [getFilter, h1, h2, h3, h4, h5]
  · rw [State.gcbOpen, (share g).2.1]; rfl
  · rw [link]; exact ⟨rfl, rfl, rfl, rfl, rfl⟩
  · rw [link]
  · rw [link]

/-! ### The operations -/

theorem updates_notify (k : NoticeKind) (a : Option Nat) (v : Option Int) (s : State) : Updates s (notify k a v s) :=
  ⟨⟨fun _ => rfl, ⟨rfl, rfl, rfl⟩, fun _ => rfl, ⟨rfl, rfl, rfl, rfl, rfl⟩, fun _ => ⟨rfl, rfl, rfl⟩, rfl,
    ⟨rfl, rfl, rfl, rfl, rfl⟩, fun _ => ⟨rfl, rfl⟩, fun l => by rw [notify_get]; exact append_rest _ _, rfl, rfl, rfl⟩,
    grows_notify k a v s⟩

/-- A change of the accounts alone. -/
theorem updates_accounts (s : State) (f : Vector (Option Account) 4) : Updates s { s with plant.accounts := f } :=
  updates_of ⟨rfl, rfl, rfl, rfl, rfl⟩ ⟨rfl, rfl, rfl⟩ (fun _ => rfl) ⟨rfl, rfl, rfl, rfl, rfl⟩ (fun _ => ⟨rfl, rfl, rfl⟩)
    rfl ⟨rfl, rfl, rfl, rfl, rfl⟩ (fun _ => ⟨rfl, rfl⟩) rfl rfl

theorem updates_recompute (is : List (Fin 4)) (s : State) : Updates s (recompute is s) := updates_accounts s _

theorem updates_setShortfall (i : Fin 4) (b : Bool) (s : State) : Updates s (setShortfall i b s) := updates_accounts s _

/-- A change of the Shed Controller alone. -/
theorem updates_shed (s : State) (f : Shed) : Updates s { s with shed := f } :=
  updates_of ⟨rfl, rfl, rfl, rfl, rfl⟩ ⟨rfl, rfl, rfl⟩ (fun _ => rfl) ⟨rfl, rfl, rfl, rfl, rfl⟩ (fun _ => ⟨rfl, rfl, rfl⟩)
    rfl ⟨rfl, rfl, rfl, rfl, rfl⟩ (fun _ => ⟨rfl, rfl⟩) rfl rfl

/-- A change of the Reservation Arbiter alone. -/
theorem updates_resv (s : State) (f : Resv) : Updates s { s with resv := f } :=
  updates_of ⟨rfl, rfl, rfl, rfl, rfl⟩ ⟨rfl, rfl, rfl⟩ (fun _ => rfl) ⟨rfl, rfl, rfl, rfl, rfl⟩ (fun _ => ⟨rfl, rfl, rfl⟩)
    rfl ⟨rfl, rfl, rfl, rfl, rfl⟩ (fun _ => ⟨rfl, rfl⟩) rfl rfl

theorem updates_updGroup (g : Fin 32) (f : GroupRt → GroupRt) (s : State) : Updates s (updGroup g f s) := updates_shed s _
theorem updates_shedGroup (c : ShedCause) (g : Fin 32) (s : State) : Updates s (shedGroup c g s) := updates_updGroup g _ s
theorem updates_setDwell (i : Fin 4) (d : Dwell) (s : State) : Updates s (setDwell i d s) := updates_shed s _
theorem updates_cancelRestore (i : Fin 4) (s : State) : Updates s (cancelRestore i s) := updates_shed s _
theorem updates_cancelRestores (s : State) : Updates s (cancelRestores s) := updates_shed s _

theorem updates_testGates (i : Fin 4) (s : State) : Updates s (testGates i s) := by
  unfold testGates; split
  · exact Updates.refl s
  · exact updates_cancelRestore i s

theorem updates_testGatesOf (g : Fin 32) (s : State) : Updates s (testGatesOf g s) := by
  unfold testGatesOf; split
  · exact updates_testGates _ s
  · exact Updates.refl s

theorem updates_startRestore (i : Fin 4) (s : State) : Updates s (startRestore i s) := by
  unfold startRestore; split
  · exact updates_shed s _
  · exact Updates.refl s

theorem updates_shedAction (c : ShedCause) (gs : List (Fin 32)) (s : State) : Updates s (shedAction c gs s) :=
  (updates_foldl (fun t g => updates_shedGroup c g t) gs s).trans (updates_foldl (fun t g => updates_testGatesOf g t) gs _)

theorem updates_connectGroup (g : Fin 32) (s : State) : Updates s (connectGroup g s) :=
  (updates_updGroup g _ s).trans (updates_testGatesOf g _)

theorem updates_shedSelection (k : NoticeKind) (i : Fin 4) (n : Nat) (s : State) : Updates s (shedSelection k i n s) :=
  (updates_shedAction _ _ s).trans ((updates_setShortfall i _ _).trans (updates_notify k _ _ _))

theorem updates_fastShed (i : Fin 4) (n : Nat) (s : State) : Updates s (fastShed i n s) := by
  unfold fastShed; split
  · dsimp only; split
    · exact updates_shedSelection _ i _ s
    · exact Updates.refl s
  · exact Updates.refl s

theorem updates_blackoutShed (i : Fin 4) (s : State) : Updates s (blackoutShed i s) :=
  (updates_shedAction _ _ s).trans (updates_notify _ _ _ _)

theorem updates_shedUpdate (scan : Bool) (i : Fin 4) (s : State) : Updates s (shedUpdate scan i s) := by
  unfold shedUpdate; split
  · split
    · dsimp only; split
      · exact (updates_setDwell i _ s).trans ((updates_testGates i _).trans (updates_startRestore i _))
      · exact (updates_setDwell i _ s).trans (updates_testGates i _)
    · exact Updates.refl s
  · exact Updates.refl s

theorem updates_toOnline (g : Fin 8) (k : Nat) (s : State) : Updates s (toOnline g k s) :=
  updates_of ⟨rfl, rfl, rfl, rfl, rfl⟩ ⟨rfl, rfl, rfl⟩
    (fun h => by simp only [toOnline, updShare_plant, setSetState, updSet, get_upd]; split <;> first | rfl | (subst_vars; rfl))
    ⟨rfl, rfl, rfl, rfl, rfl⟩
    (fun h => by
      simp only [toOnline, updShare, setSetState_share, get_upd]
      split
      · subst_vars; exact ⟨rfl, rfl, rfl⟩
      · exact ⟨rfl, rfl, rfl⟩)
    rfl ⟨rfl, rfl, rfl, rfl, rfl⟩ (fun _ => ⟨rfl, rfl⟩) rfl rfl

theorem updates_abortUnload (c : Int) (g : Fin 8) (s : State) : Updates s (abortUnload c g s) :=
  (updates_toOnline g _ s).trans (updates_notify _ _ _ _)

theorem updates_abortUnloads (i : Fin 4) (s : State) : Updates s (abortUnloads i s) := by
  unfold abortUnloads; split
  · dsimp only
    split
    · exact Updates.refl s
    · split
      · exact (updates_foldl (fun t g => updates_abortUnload 2 g t) _ s).trans (updates_recompute _ _)
      · split
        · exact (updates_foldl (fun t g => updates_abortUnload 1 g t) _ s).trans (updates_recompute _ _)
        · exact Updates.refl s
  · exact Updates.refl s

theorem updates_blackoutIfDead (b : State) (i : Fin 4) (s : State) : Updates s (blackoutIfDead b i s) := by
  unfold blackoutIfDead; split
  · split
    · exact updates_blackoutShed i s
    · exact Updates.refl s
  · exact Updates.refl s

theorem updates_answer (x : Fin 12) (c : Fin 4) (a : Answer) (s : State) : Updates s (answer x c a s) :=
  updates_of ⟨rfl, rfl, rfl, rfl, rfl⟩ ⟨rfl, rfl, rfl⟩ (fun _ => rfl) ⟨rfl, rfl, rfl, rfl, rfl⟩ (fun _ => ⟨rfl, rfl, rfl⟩)
    rfl ⟨rfl, rfl, rfl, rfl, rfl⟩
    (fun y => by
      simp only [answer, get_upd]
      split
      · subst_vars; exact ⟨rfl, rfl⟩
      · exact ⟨rfl, rfl⟩)
    rfl rfl

theorem updates_updEntry (x : Fin 12) (c : Fin 4) (f : Entry → Entry) (s : State) : Updates s (updEntry x c f s) :=
  updates_resv s _

theorem updates_dropEntry (x : Fin 12) (c : Fin 4) (s : State) : Updates s (dropEntry x c s) := updates_resv s _

theorem updates_makeOffer (e : Entry) (s : State) : Updates s (makeOffer e s) :=
  (updates_updEntry _ _ _ s).trans (updates_answer _ _ _ _)

theorem updates_returnOffer (e : Entry) (s : State) : Updates s (returnOffer e s) :=
  (updates_updEntry _ _ _ s).trans (updates_answer _ _ _ _)

theorem updates_returnOffers (es : List Entry) (s : State) : Updates s (returnOffers es s) :=
  updates_foldl (fun t e => updates_returnOffer e t) es s

theorem updates_offerTest {i : Fin 4} {s t : State} (h : offerTest i s = some t) : Updates s t := by
  unfold offerTest at h
  split at h
  · split at h
    · split at h
      · exact Option.some.inj h ▸ updates_makeOffer _ s
      · exact nomatch h
    · split at h
      · exact Option.some.inj h ▸ (updates_returnOffer _ s).trans (updates_makeOffer _ _)
      · exact nomatch h
  · exact nomatch h

theorem updates_seeWanted (i : Fin 4) (s : State) : Updates s (seeWanted i s) := by
  unfold seeWanted; split
  · dsimp only; split
    · exact (updates_notify _ _ _ s).trans (updates_resv _ _)
    · exact updates_resv s _
  · exact Updates.refl s

theorem updates_reUpdate (i : Fin 4) (s : State) : Updates s (reUpdate i s) :=
  (updates_recompute _ s).trans
    ((updates_abortUnloads i _).trans ((updates_shedUpdate false i _).trans (updates_seeWanted i _)))

theorem updates_arbiterUpdate (i : Fin 4) (s : State) : Updates s (arbiterUpdate i s) := by
  unfold arbiterUpdate
  dsimp only
  split
  · split
    · next h => exact (updates_seeWanted i s).trans ((updates_offerTest h).trans (updates_reUpdate i _))
    · exact updates_seeWanted i s
  · exact updates_seeWanted i s

theorem updates_eachIsland {f : Fin 4 → State → State} (h : ∀ i t, Updates t (f i t)) (is : List (Fin 4)) (s : State) :
    Updates s (eachIsland is f s) := updates_foldl (fun t i => h i t) is s

theorem updates_handOn (scan : Bool) (b : State) (is : List (Fin 4)) (s : State) : Updates s (handOn scan b is s) :=
  (updates_eachIsland updates_abortUnloads is s).trans
    ((updates_eachIsland (updates_blackoutIfDead b) is _).trans
      ((updates_eachIsland (updates_shedUpdate scan) is _).trans (updates_eachIsland updates_arbiterUpdate is _)))

/-- An account update leaves alone what `UpdateFrame` lists, and adds notices at the end of the queues only. -/
theorem updates_accountUpdate (scan : Bool) (b : State) (is : List (Fin 4)) (s : State) :
    Updates s (accountUpdate scan b is s) := (updates_recompute is s).trans (updates_handOn scan b is _)

theorem updates_updateAt (b : State) (x : Fin 4) (s : State) : Updates s (updateAt b x s) := by
  unfold updateAt; split
  · exact updates_accountUpdate false b _ s
  · exact Updates.refl s

theorem updates_updateSetIsland (b : State) (g : Fin 8) (s : State) : Updates s (updateSetIsland b g s) :=
  updates_updateAt b _ s

theorem updates_lossWithdraw (i : Fin 4) (s : State) : Updates s (lossWithdraw i s) := by
  unfold lossWithdraw; split
  · split
    · exact (updates_returnOffers _ s).trans (updates_recompute _ _)
    · exact Updates.refl s
  · exact Updates.refl s

end Sys2Proof.Machine
end

