-- ==== Sys2Proof/Laws/Links.lean ====
section
/-! SUPPORT. Lemmas of requests: valid frames, responses, the taking of a request, the reading of its fields. -/

namespace Sys2Proof.Machine

/-! ### Responses -/

theorem respond_get (l : Link) (r : Response) (s : State) :
    (respond l r s).link.get l = (s.link.get l).enqueue r := updLink_get l _ s

@[simp] theorem respond_get_opp (l : Link) (r : Response) (s : State) :
    (respond l r s).link.get l.other = s.link.get l.other := updLink_get_opp l _ s

/-- A response joins its link and leaves everything else of it. -/
theorem enqueue_rest (r : Response) (x : LinkRt) :
    (x.enqueue r).active = x.active ∧ (x.enqueue r).timer = x.timer ∧ (x.enqueue r).notices = x.notices ∧
    (x.enqueue r).overflow = x.overflow ∧ (x.enqueue r).frame = x.frame := by
  unfold LinkRt.enqueue; split <;> exact ⟨rfl, rfl, rfl, rfl, rfl⟩

theorem updLink_notices (l : Link) {f : LinkRt → LinkRt} (h : ∀ x, (f x).notices = x.notices) (s : State) (m : Link) :
    ((updLink l f s).link.get m).notices = (s.link.get m).notices := by
  by_cases e : m = l
  · subst e; rw [updLink_get, h]
  · rw [updLink_get_other e]

theorem grows_updLink (l : Link) {f : LinkRt → LinkRt} (h : ∀ x, (f x).notices = x.notices) (s : State) :
    Grows s (updLink l f s) := grows_of_notices (updLink_notices l h s)

@[simp] theorem respond_notices (l : Link) (r : Response) (s : State) (m : Link) :
    ((respond l r s).link.get m).notices = (s.link.get m).notices :=
  updLink_notices l (fun x => (enqueue_rest r x).2.2.1) s m

theorem grows_respond (l : Link) (r : Response) (s : State) : Grows s (respond l r s) :=
  grows_updLink l (fun x => (enqueue_rest r x).2.2.1) s

@[simp] theorem respond_clock (l : Link) (r : Response) (s : State) : (respond l r s).link.clock = s.link.clock :=
  updLink_clock l _ s
@[simp] theorem respond_joint (l : Link) (r : Response) (s : State) : (respond l r s).link.joint = s.link.joint :=
  updLink_joint l _ s

/-! ### Valid frames -/

/-- A valid frame changes no block but the Link Interface, and there neither the clock nor the joint command. -/
theorem validFrame_rest (l : Link) (s : State) :
    (validFrame l s).plant = s.plant ∧ (validFrame l s).scan = s.scan ∧ (validFrame l s).share = s.share ∧
    (validFrame l s).sync = s.sync ∧ (validFrame l s).shed = s.shed ∧ (validFrame l s).resv = s.resv ∧
    (validFrame l s).line = s.line ∧ (validFrame l s).prof = s.prof ∧ (validFrame l s).start = s.start ∧
    (validFrame l s).conf = s.conf ∧ (validFrame l s).pending = s.pending ∧
    (validFrame l s).link.clock = s.link.clock ∧ (validFrame l s).link.joint = s.link.joint := by
  unfold validFrame
  dsimp only
  split
  · exact ⟨rfl, rfl, rfl, rfl, rfl, rfl, rfl, rfl, rfl, rfl, rfl, updLink_clock .., updLink_joint ..⟩
  · split <;> exact ⟨rfl, rfl, rfl, rfl, rfl, rfl, rfl, rfl, rfl, rfl, rfl, updLink_clock .., updLink_joint ..⟩

@[simp] theorem validFrame_plant (l : Link) (s : State) : (validFrame l s).plant = s.plant := (validFrame_rest l s).1
@[simp] theorem validFrame_scan (l : Link) (s : State) : (validFrame l s).scan = s.scan := (validFrame_rest l s).2.1
@[simp] theorem validFrame_share (l : Link) (s : State) : (validFrame l s).share = s.share := (validFrame_rest l s).2.2.1
@[simp] theorem validFrame_sync (l : Link) (s : State) : (validFrame l s).sync = s.sync := (validFrame_rest l s).2.2.2.1
@[simp] theorem validFrame_shed (l : Link) (s : State) : (validFrame l s).shed = s.shed := (validFrame_rest l s).2.2.2.2.1
@[simp] theorem validFrame_resv (l : Link) (s : State) : (validFrame l s).resv = s.resv := (validFrame_rest l s).2.2.2.2.2.1
@[simp] theorem validFrame_line (l : Link) (s : State) : (validFrame l s).line = s.line :=
  (validFrame_rest l s).2.2.2.2.2.2.1
@[simp] theorem validFrame_prof (l : Link) (s : State) : (validFrame l s).prof = s.prof :=
  (validFrame_rest l s).2.2.2.2.2.2.2.1
@[simp] theorem validFrame_start (l : Link) (s : State) : (validFrame l s).start = s.start :=
  (validFrame_rest l s).2.2.2.2.2.2.2.2.1
@[simp] theorem validFrame_conf (l : Link) (s : State) : (validFrame l s).conf = s.conf :=
  (validFrame_rest l s).2.2.2.2.2.2.2.2.2.1
@[simp] theorem validFrame_pending (l : Link) (s : State) : (validFrame l s).pending = s.pending :=
  (validFrame_rest l s).2.2.2.2.2.2.2.2.2.2.1
@[simp] theorem validFrame_clock (l : Link) (s : State) : (validFrame l s).link.clock = s.link.clock :=
  (validFrame_rest l s).2.2.2.2.2.2.2.2.2.2.2.1
@[simp] theorem validFrame_joint (l : Link) (s : State) : (validFrame l s).link.joint = s.link.joint :=
  (validFrame_rest l s).2.2.2.2.2.2.2.2.2.2.2.2

/-- A link after a valid frame: ACTIVE, its timer started, no frame being gathered, its responses as they stood. -/
theorem validFrame_self (l : Link) (s : State) :
    ((validFrame l s).link.get l).active = true ∧
    ((validFrame l s).link.get l).timer = some s.conf.general.linkTimeout ∧
    ((validFrame l s).link.get l).frame = none ∧
    ((validFrame l s).link.get l).sending = (s.link.get l).sending ∧
    ((validFrame l s).link.get l).waiting = (s.link.get l).waiting := by
  unfold validFrame
  dsimp only
  split
  · simp
  · split <;> simp

/-- The other link after a valid frame: at most notices are added to its queue. -/
theorem validFrame_opp (l : Link) (s : State) :
    ((validFrame l s).link.get l.other).active = (s.link.get l.other).active ∧
    ((validFrame l s).link.get l.other).timer = (s.link.get l.other).timer ∧
    ((validFrame l s).link.get l.other).frame = (s.link.get l.other).frame ∧
    ((validFrame l s).link.get l.other).sending = (s.link.get l.other).sending ∧
    ((validFrame l s).link.get l.other).waiting = (s.link.get l.other).waiting := by
  unfold validFrame
  dsimp only
  split
  · simp
  · split <;> simp

@[simp] theorem validFrame_waiting (l : Link) (s : State) :
    ((validFrame l s).link.get l).waiting = (s.link.get l).waiting := (validFrame_self l s).2.2.2.2

@[simp] theorem validFrame_oppActive (l : Link) (s : State) :
    ((validFrame l s).link.get l.other).active = (s.link.get l.other).active := (validFrame_opp l s).1

theorem grows_validFrame (l : Link) (s : State) : Grows s (validFrame l s) := by
  have h := grows_updLink l (s := s) (f := fun x =>
    { x with frame := none, active := true, timer := some s.conf.general.linkTimeout }) (fun _ => rfl)
  unfold validFrame
  dsimp only
  split
  · exact h
  · split
    · exact h.trans (grows_notify _ _ _ _)
    · exact (h.trans (grows_notify _ _ _ _)).trans (grows_notify _ _ _ _)

/-! ### The taking of a request -/

/-- Before the Link Interface has started a request does nothing. -/
theorem takeRequest_unstarted {l : Link} {kind : Nat} {seq : Byte} {owner : State → State × Reply} {s : State}
    (h : s.started = false) : takeRequest l kind seq owner s = s := by simp [takeRequest, h]

/-- On a link with four responses waiting a request counts for liveness alone. -/
theorem takeRequest_full {l : Link} {kind : Nat} {seq : Byte} {owner : State → State × Reply} {s : State}
    (h : s.started = true) (w : 4 ≤ (s.link.get l).waiting.length) :
    takeRequest l kind seq owner s = validFrame l s := by
  simp [takeRequest, h, Config.responseCap, Nat.not_lt_of_le w]

/-- A request that is taken: its owner's outcome is answered. -/
theorem takeRequest_taken {l : Link} {kind : Nat} {seq : Byte} {owner : State → State × Reply} {s : State}
    (h : Takes l s) :
    takeRequest l kind seq owner s =
      answerTo l kind seq (owner (validFrame l s)).2 (owner (validFrame l s)).1 := by
  simp [takeRequest, h.1, h.2, answerTo]

/-- What a request keeps: whatever the valid frame, its owner and the response keep. -/
theorem takeRequest_ind {P : State → Prop} {l : Link} {kind : Nat} {seq : Byte} {owner : State → State × Reply} {s : State}
    (h : P s) (hv : P s → P (validFrame l s)) (ho : ∀ t, P t → P (owner t).1) (hr : ∀ r t, P t → P (respond l r t)) :
    P (takeRequest l kind seq owner s) := by
  unfold takeRequest
  split
  · dsimp only; split
    · exact hr _ _ (ho _ (hv h))
    · exact hv h
  · exact h

theorem grows_takeRequest {l : Link} {kind : Nat} {seq : Byte} {owner : State → State × Reply} {s : State}
    (ho : ∀ t, Grows t (owner t).1) : Grows s (takeRequest l kind seq owner s) :=
  takeRequest_ind (P := Grows s) (Grows.refl s) (fun h => h.trans (grows_validFrame l s)) (fun t h => h.trans (ho t))
    (fun r t h => h.trans (grows_respond l r t))

/-! ### Request frames -/

/-- A request frame whose length is in range is valid. -/
theorem requestFrame_valid {l : Link} {kind : Nat} {seq : Byte} {fields : List Byte} {s : State}
    (h : fields.length ≤ 298) :
    requestFrame l kind seq fields s = takeRequest l kind seq (requestOwner l kind fields) s := by
  have : lengthOk (fields.length + 2) = true := by simp [lengthOk]; omega
  simp [requestFrame, this]

/-- A request frame that is taken: its owner's outcome is answered. -/
theorem requestFrame_taken {l : Link} {kind : Nat} {seq : Byte} {fields : List Byte} {s : State}
    (h : fields.length ≤ 298) (ht : Takes l s) :
    requestFrame l kind seq fields s =
      answerTo l kind seq (requestOwner l kind fields (validFrame l s)).2 (requestOwner l kind fields (validFrame l s)).1 :=
  (requestFrame_valid h).trans (takeRequest_taken ht)

/-- Before the Link Interface has started a request frame does nothing. -/
theorem requestFrame_unstarted {l : Link} {kind : Nat} {seq : Byte} {fields : List Byte} {s : State}
    (h : s.started = false) : requestFrame l kind seq fields s = s := by
  simp [requestFrame, takeRequest_unstarted h, h]

/-- A request frame whose length is out of range is discarded, and its characters are searched. -/
theorem requestFrame_oversize {l : Link} {kind : Nat} {seq : Byte} {fields : List Byte} {s : State}
    (h : 298 < fields.length) (hs : s.started = true) :
    requestFrame l kind seq fields s =
      searchFrames l 0 (0xA5#8 :: requestChars (BitVec.ofNat 8 kind) seq fields) s := by
  have : lengthOk (fields.length + 2) = false := by simp [lengthOk]; omega
  simp [requestFrame, this, hs]

/-! ### The search for frames (09 R153) -/

/-- A property of the state that every request keeps, whatever its owner, and that every frame timer keeps. -/
structure LinkSafe (l : Link) (P : State → Prop) : Prop where
  frame : ∀ f t, P t → P (updLink l (fun x => { x with frame := f }) t)
  valid : ∀ t, P t → P (validFrame l t)
  owner : ∀ kind fields t, P t → P (requestOwner l kind fields t).1
  response : ∀ r t, P t → P (respond l r t)

theorem LinkSafe.request {l : Link} {P : State → Prop} (h : LinkSafe l P) {kind : Nat} {seq : Byte} {fields : List Byte}
    {s : State} (hs : P s) : P (takeRequest l kind seq (requestOwner l kind fields) s) :=
  takeRequest_ind hs (h.valid s) (h.owner kind fields) h.response

/-- What a search keeps: whatever the requests it may find keep. -/
theorem LinkSafe.search {l : Link} {P : State → Prop} (h : LinkSafe l P) :
    ∀ (cs : List Byte) (n : Nat) {s : State}, P s → P (searchFrames l n cs s) := by
  intro cs
  induction cs with
  | nil => intro n s hs; cases n <;> exact h.frame none s hs
  | cons c rest ih =>
    intro n s hs
    cases n with
    | succ n => exact ih n hs
    | zero =>
      unfold searchFrames
      dsimp only
      split
      · split
        · exact h.frame _ s hs
        · refine ih _ ?_
          unfold takeFrame
          split
          · exact h.request hs
          · exact hs
        · exact ih 0 hs
        · exact ih 0 hs
      · exact ih 0 hs

/-- What a request frame keeps: whatever every request keeps. -/
theorem LinkSafe.requestFrame {l : Link} {P : State → Prop} (h : LinkSafe l P) {kind : Nat} {seq : Byte}
    {fields : List Byte} {s : State} (hs : P s) : P (requestFrame l kind seq fields s) := by
  unfold Machine.requestFrame
  split
  · exact h.request hs
  · split
    · exact h.search _ 0 hs
    · exact hs

/-- Characters without a start character leave no frame open. -/
theorem searchFrames_none {l : Link} :
    ∀ {cs : List Byte}, 0xA5#8 ∉ cs → ∀ (s : State),
      searchFrames l 0 cs s = updLink l (fun x => { x with frame := none }) s := by
  intro cs
  induction cs with
  | nil => intro _ s; rfl
  | cons c rest ih =>
    intro h s
    have hc : c ≠ 0xA5#8 := fun e => h (e ▸ List.mem_cons_self)
    unfold searchFrames
    dsimp only
    rw [if_neg hc]
    exact ih (fun m => h (List.mem_cons_of_mem _ m)) s

/-- Characters before a start character are ignored. -/
theorem searchFrames_skip {l : Link} {cs : List Byte} :
    ∀ {pre : List Byte}, 0xA5#8 ∉ pre → ∀ (s : State),
      searchFrames l 0 (pre ++ 0xA5#8 :: cs) s = searchFrames l 0 (0xA5#8 :: cs) s := by
  intro pre
  induction pre with
  | nil => intro _ s; rfl
  | cons c rest ih =>
    intro h s
    have hc : c ≠ 0xA5#8 := fun e => h (e ▸ List.mem_cons_self)
    rw [List.cons_append, searchFrames]
    rw [if_neg hc]
    exact ih (fun m => h (List.mem_cons_of_mem _ m)) s

/-- A search that skips as many characters as stand at the head goes on after them. -/
theorem searchFrames_drop {l : Link} {cs : List Byte} :
    ∀ (pre : List Byte) (s : State), searchFrames l pre.length (pre ++ cs) s = searchFrames l 0 cs s := by
  intro pre
  induction pre with
  | nil => intro s; rfl
  | cons c rest ih => intro s; rw [List.length_cons, List.cons_append, searchFrames]; exact ih s

/-- A frame that its characters do not complete is being gathered. -/
theorem searchFrames_incomplete {l : Link} {cs : List Byte} (h : gathered (cs.take (frameEnd cs)) = some .incomplete)
    (s : State) :
    searchFrames l 0 (0xA5#8 :: cs) s = updLink l (fun x => { x with frame := some Config.frameTime }) s := by
  rw [searchFrames, if_pos rfl, h]

/-- The search goes on after the start character of a discarded frame. -/
theorem searchFrames_discarded {l : Link} {cs : List Byte} (h : gathered (cs.take (frameEnd cs)) = some .discarded)
    (s : State) : searchFrames l 0 (0xA5#8 :: cs) s = searchFrames l 0 cs s := by
  rw [searchFrames, if_pos rfl, h]

/-- A length out of range discards the frame. -/
theorem searchFrames_badLength {l : Link} {hi lo : Byte} {cs : List Byte}
    (h : (hi ++ lo).toNat < 2 ∨ 300 < (hi ++ lo).toNat) (s : State) :
    searchFrames l 0 (0xA5#8 :: hi :: lo :: cs) s = searchFrames l 0 (hi :: lo :: cs) s := by
  have e : frameEnd (hi :: lo :: cs) = 2 := by
    have : lengthOk (hi ++ lo).toNat = false := by
      simp only [lengthOk, Bool.and_eq_false_iff, decide_eq_false_iff_not]; omega
    simp [frameEnd, this]
  refine searchFrames_discarded ?_ s
  rw [e]; exact gathered_badLength h

/-- A frame whole in the characters: with a CRC that does not match the search goes on after its start character, with
one that does its request is taken and the search goes on after it. -/
theorem searchFrames_whole {l : Link} {hi lo kind seq : Byte} {fields crc cs : List Byte}
    (hn : (hi ++ lo).toNat = fields.length + 2) (h3 : fields.length ≤ 298) (hc : crc.length = 2) (s : State) :
    searchFrames l 0 (0xA5#8 :: hi :: lo :: kind :: seq :: (fields ++ crc ++ cs)) s =
      if crc = crcChars (hi :: lo :: kind :: seq :: fields) then
        searchFrames l 0 cs (takeRequest l kind.toNat seq (requestOwner l kind.toNat fields) s)
      else searchFrames l 0 (hi :: lo :: kind :: seq :: (fields ++ crc ++ cs)) s := by
  have hl : lengthOk (fields.length + 2) = true := by simp [lengthOk]; omega
  have he : frameEnd (hi :: lo :: kind :: seq :: (fields ++ crc ++ cs)) =
      (hi :: lo :: kind :: seq :: (fields ++ crc)).length := by
    simp [frameEnd, hl, hn, hc]
  have ht : (hi :: lo :: kind :: seq :: (fields ++ crc ++ cs)).take
      (frameEnd (hi :: lo :: kind :: seq :: (fields ++ crc ++ cs))) = hi :: lo :: kind :: seq :: (fields ++ crc) := by
    rw [he]
    exact List.take_left' (l₁ := hi :: lo :: kind :: seq :: (fields ++ crc)) rfl
  have hg := gathered_whole (hi := hi) (lo := lo) (body := kind :: seq :: fields) (crc := crc)
    (by rw [hn]; rfl) (by simp) (by simp; omega) hc
  by_cases hcrc : crc = crcChars (hi :: lo :: kind :: seq :: fields)
  · rw [if_pos hcrc, searchFrames,
      if_pos rfl, ht, show hi :: lo :: kind :: seq :: (fields ++ crc) = hi :: lo :: (kind :: seq :: fields ++ crc) from rfl,
      hg, if_pos hcrc]
    dsimp only
    rw [he]
    refine (searchFrames_drop (hi :: lo :: kind :: seq :: (fields ++ crc)) _).trans ?_
    congr 1
    simp [takeFrame, hc]
  · rw [if_neg hcrc]
    refine searchFrames_discarded ?_ s
    rw [ht]
    exact hg.trans (congrArg some (if_neg hcrc))

/-- Fields that do not fit are refused BAD_FIELD. -/
theorem withFields_none {ws : List Width} {fields : List Byte} (h : readFields ws fields = none)
    (owner : List Int → State → State × Reply) (s : State) : withFields ws fields owner s = (s, .refused .badField) := by
  simp [withFields, h, refuse]

theorem withFields_some {ws : List Width} {fields : List Byte} {vs : List Int} (h : readFields ws fields = some vs)
    (owner : List Int → State → State × Reply) (s : State) : withFields ws fields owner s = owner vs s := by
  simp [withFields, h]

/-- What a request of fixed widths keeps: whatever its owner keeps. -/
theorem withFields_ind {P : State → Prop} {ws : List Width} {fields : List Byte}
    {owner : List Int → State → State × Reply} (ho : ∀ vs t, P t → P (owner vs t).1) (t : State) (h : P t) :
    P (withFields ws fields owner t).1 := by
  unfold withFields
  split
  · exact ho _ t h
  · exact h

/-! ### Fields -/

theorem readPrefix_length : ∀ (ws : List Width) (cs : List Byte) (p : List Int × List Byte),
    readPrefix ws cs = some p → cs.length = widthSum ws + p.2.length := by
  intro ws
  induction ws with
  | nil => intro cs p h; cases h; simp [widthSum]
  | cons w ws ih =>
    intro cs p h
    cases w
    · match cs, h with
      | a :: cs, h =>
        simp only [readPrefix, Option.map_eq_some_iff] at h
        obtain ⟨q, hq, rfl⟩ := h
        have := ih cs q hq
        simp [widthSum, Width.chars] at *
        omega
    · match cs, h with
      | a :: b :: cs, h =>
        simp only [readPrefix, Option.map_eq_some_iff] at h
        obtain ⟨q, hq, rfl⟩ := h
        have := ih cs q hq
        simp [widthSum, Width.chars] at *
        omega
    · match cs, h with
      | a :: b :: c :: d :: cs, h =>
        simp only [readPrefix, Option.map_eq_some_iff] at h
        obtain ⟨q, hq, rfl⟩ := h
        have := ih cs q hq
        simp [widthSum, Width.chars] at *
        omega

/-- Fields are read only where the characters are as many as the widths say. -/
theorem readFields_length {ws : List Width} {cs : List Byte} {vs : List Int} (h : readFields ws cs = some vs) :
    cs.length = widthSum ws := by
  unfold readFields at h
  split at h
  · next q e => have := readPrefix_length ws cs _ e; simpa using this
  · exact nomatch h

theorem readFields_none {ws : List Width} {cs : List Byte} (h : cs.length ≠ widthSum ws) : readFields ws cs = none := by
  cases e : readFields ws cs with
  | none => rfl
  | some vs => exact absurd (readFields_length e) h

/-- A request that is taken and whose fields fit its kind is answered with what its owner does. -/
theorem request_taken {l : Link} {kind : Nat} {seq : Byte} {ws : List Width} {fields : List Byte} {vs : List Int}
    {owner : List Int → State → State × Reply} {s : State} (ho : requestOwner l kind fields = withFields ws fields owner)
    (h : readFields ws fields = some vs) (hw : widthSum ws ≤ 298) (ht : Takes l s) :
    requestFrame l kind seq fields s =
      answerTo l kind seq (owner vs (validFrame l s)).2 (owner vs (validFrame l s)).1 := by
  rw [requestFrame_taken (by rw [readFields_length h]; exact hw) ht, ho, withFields_some h]

@[simp] theorem readFields_nil : readFields [] [] = some [] := rfl
@[simp] theorem readFields_one (a : Byte) : readFields [.w1] [a] = some [(a.toNat : Int)] := rfl
@[simp] theorem readFields_two (a b : Byte) : readFields [.w2] [a, b] = some [((a ++ b).toNat : Int)] := rfl
@[simp] theorem readFields_oneOne (a b : Byte) : readFields [.w1, .w1] [a, b] = some [(a.toNat : Int), (b.toNat : Int)] := rfl
@[simp] theorem readFields_oneTwo (n a b : Byte) :
    readFields [.w1, .w2] [n, a, b] = some [(n.toNat : Int), ((a ++ b).toNat : Int)] := rfl
@[simp] theorem readFields_oneFour (n a b c d : Byte) :
    readFields [.w1, .w4] [n, a, b, c, d] = some [(n.toNat : Int), (a ++ b ++ c ++ d).toInt] := rfl
@[simp] theorem readFields_oneOneFour (n m a b c d : Byte) :
    readFields [.w1, .w1, .w4] [n, m, a, b, c, d] =
      some [(n.toNat : Int), (m.toNat : Int), (a ++ b ++ c ++ d).toInt] := rfl

@[simp] theorem arg_zero (v : Int) (vs : List Int) : arg (v :: vs) 0 = v := rfl
@[simp] theorem arg_succ (v : Int) (vs : List Int) (n : Nat) : arg (v :: vs) (n + 1) = arg vs n := rfl

/-- An index inside the numbering. -/
theorem index_nat {n : Nat} (i : Fin n) : index n (i.val : Int) = some i := by simp [index]

theorem index_of_eq {n v : Nat} {i : Fin n} (h : v = i.val) : index n (v : Int) = some i := h ▸ index_nat i

/-- An index outside the numbering. -/
theorem index_none {n v : Nat} (h : n ≤ v) : index n (v : Int) = none := by simp [index]; omega

/-- The number of an object in a one-byte field. -/
theorem toNat_ofNat {n : Nat} (i : Fin n) (h : n ≤ 256) : (BitVec.ofNat 8 i.val).toNat = i.val := by
  have := i.isLt
  simp only [BitVec.toNat_ofNat]
  omega

/-! ### Which state a predicate of the image reads -/

theorem sectPresent_of {s t : State} (h : t.conf = s.conf) (x : Fin 4) : sectPresent t x = sectPresent s x := by
  simp [sectPresent, h]

theorem setPresent_of {s t : State} (h : t.conf = s.conf) (g : Fin 8) : setPresent t g = setPresent s g := by
  simp [setPresent, sectPresent, h]

theorem tieUsable_of {s t : State} (h : t.conf = s.conf) (k : Fin 4) : tieUsable t k = tieUsable s k := by
  simp [tieUsable, sectPresent, h]

theorem groupPresent_of {s t : State} (h : t.conf = s.conf) (ha : t.start.adopted = s.start.adopted) (g : Fin 32) :
    groupPresent t g = groupPresent s g := by simp [groupPresent, sectPresent, h, ha]

theorem settings_of {s t : State} (h : t.prof = s.prof) : settings t = settings s := by simp [settings, h]

theorem running_of {s t : State} (h : t.start = s.start) : t.running = s.running := by simp [State.running, h]

theorem islandOf_of {s t : State} (h : t.plant.partition = s.plant.partition) (x : Fin 4) : islandOf t x = islandOf s x := by
  simp [islandOf, h]

end Sys2Proof.Machine
end

