-- ==== Sys2Proof/Laws/Queues.lean ====
section
/-! SUPPORT. The notice queues: every operation but a reset and READ NOTICES only adds notices, up to 32. -/

namespace Sys2Proof.Machine

theorem Updates.grows {s t : State} (h : Updates s t) : Grows s t := h.2

/-- A fold of operations that only add notices. -/
theorem grows_foldl {α : Type} {f : State → α → State} (h : ∀ t a, Grows t (f t a)) (l : List α) (s : State) :
    Grows s (l.foldl f s) := foldl_inv (P := Grows s) (fun _ a hb => hb.trans (h _ a)) l s (Grows.refl s)

theorem grows_onExpiry {act : State → State} (h : ∀ t, Grows t (act t)) (t : Timer) (s : State) :
    Grows s (onExpiry t s act) := by
  cases t with
  | none => exact Grows.refl s
  | some n => exact (grows_elapse n s).trans (h _)

theorem grows_setFilter (i : PlantInput) (f : Filter) (s : State) : Grows s (setFilter i f s) :=
  grows_of_link (setFilter_link i f s)

/-! ### Sets and requests -/

theorem grows_releaseObj (o : SyncObj) (s : State) : Grows s (releaseObj o s) := by
  unfold releaseObj; split
  · split <;> exact grows_of_link rfl
  · exact Grows.refl s

theorem grows_syncDone (s : State) : Grows s (syncDone s) := by
  unfold syncDone; split
  · exact Grows.trans (t := endRequest s) (grows_of_link rfl) (grows_notify _ _ _ _)
  · exact Grows.refl s

theorem grows_syncAbort (c : AbortCause) (s : State) : Grows s (syncAbort c s) := by
  unfold syncAbort; split
  · exact Grows.trans (t := { endRequest s with sync.lastAbort := some c }) (grows_of_link rfl)
      ((grows_releaseObj _ _).trans (grows_notify _ _ _ _))
  · exact Grows.refl s

theorem grows_setLoss (g : Fin 8) (st : SetState) (k : NoticeKind) (v : Option Int) (s : State) :
    Grows s (setLoss g st k v s) := by
  have h : Grows s (park g (notify k (some g.val) v (setSetState g st s))) :=
    Grows.trans (t := setSetState g st s) (grows_of_link rfl)
      ((grows_notify k (some g.val) v _).trans (grows_of_link rfl))
  unfold setLoss
  dsimp only
  split
  · exact h.trans (((updates_recompute _ _).trans ((updates_fastShed _ _ _).trans
      ((updates_lossWithdraw _ _).trans (updates_handOn _ _ _ _)))).grows)
  · exact h

theorem grows_manualClose (g : Fin 8) (s : State) : Grows s (manualClose g s) :=
  ((updates_toOnline g _ s).trans ((updates_notify _ _ _ _).trans (updates_updateSetIsland _ g _))).grows

theorem grows_breakerClosed (g : Fin 8) (s : State) : Grows s (breakerClosed g s) := by
  unfold breakerClosed; split
  · exact grows_manualClose g s
  · split
    · split
      · exact ((updates_toOnline g 1 s).trans (updates_updateSetIsland s g _)).grows.trans (grows_syncDone _)
      · exact (grows_manualClose g s).trans (grows_syncAbort _ _)
    · exact grows_manualClose g s
  · exact grows_notify _ _ _ _
  · exact Grows.refl s
  · exact Grows.refl s

theorem grows_breakerOpened (g : Fin 8) (s : State) : Grows s (breakerOpened g s) := by
  unfold breakerOpened; split
  · split
    · exact Grows.trans (t := setSetState g .offline s) (grows_of_link rfl)
        ((grows_notify _ _ _ _).trans
          ((grows_of_link (t := park g _) rfl).trans (updates_updateSetIsland s g _).grows))
    · exact grows_setLoss _ _ _ _ _
  · exact grows_setLoss _ _ _ _ _
  · exact Grows.refl s
  · exact Grows.refl s
  · exact Grows.refl s

theorem grows_tripActive (g : Fin 8) (s : State) : Grows s (tripActive g s) := by
  unfold tripActive; split
  · exact grows_setLoss _ _ _ _ _
  · exact grows_setLoss _ _ _ _ _
  · have h : Grows s (park g (notify .setTripped (some g.val) (some 0) (setSetState g .tripped s))) :=
      Grows.trans (t := setSetState g .tripped s) (grows_of_link rfl)
        ((grows_notify _ _ _ _).trans (grows_of_link rfl))
    dsimp only; split
    · exact h.trans (grows_syncAbort _ _)
    · exact h
  · exact Grows.trans (t := setSetState g .tripped s) (grows_of_link rfl) (grows_notify _ _ _ _)
  · exact Grows.refl s

/-! ### Partition changes -/

theorem grows_syncTopology (c : Option (Fin 4)) (moved : Fin 4 → Bool) (s : State) : Grows s (syncTopology c moved s) := by
  unfold syncTopology; split
  · split
    · split
      · split
        · exact grows_syncDone s
        · exact grows_syncAbort _ s
      · exact grows_syncAbort _ s
    · exact Grows.refl s
  · exact Grows.refl s

theorem grows_partitionChange (c : Option (Fin 4)) (p q : Vector (Fin 4) 4) (s : State) :
    Grows s (partitionChange c p q s) := by
  unfold partitionChange
  dsimp only
  refine Grows.trans ?_ ((grows_syncTopology c _ _).trans (updates_accountUpdate _ _ _ _).grows)
  refine Grows.trans ?_ (updates_returnOffers _ _).grows
  refine Grows.trans ?_ (grows_of_link (s := notify _ _ _ _) rfl)
  exact Grows.trans (grows_of_link rfl) (grows_notify _ _ _ _)

theorem grows_syncTie (t : Fin 4) (s : State) : Grows s (syncTie t s) := by
  unfold syncTie; split
  · split
    · split
      · exact grows_syncDone s
      · exact grows_syncAbort _ s
    · exact Grows.refl s
  · exact Grows.refl s

theorem grows_tieChanged (t : Fin 4) (s : State) : Grows s (tieChanged t s) := by
  unfold tieChanged; split
  · split
    · split
      · exact grows_syncTie t s
      · exact grows_partitionChange _ _ _ s
    · exact Grows.refl s
  · exact Grows.refl s

theorem grows_firstPartition (s : State) : Grows s (firstPartition s) := by
  unfold firstPartition; split
  · exact grows_of_link rfl
  · exact Grows.refl s

/-! ### Inputs -/

theorem grows_inputSettled (i : PlantInput) (b : Bool) (s : State) : Grows s (inputSettled i b s) := by
  unfold inputSettled; split
  · split <;> exact grows_of_link rfl
  · exact grows_firstPartition s
  all_goals exact Grows.refl s

theorem grows_tripChanged (g : Fin 8) (b : Bool) (s : State) : Grows s (tripChanged g b s) := by
  unfold tripChanged; split
  · dsimp only; split
    · split
      · exact Grows.refl s
      · split
        · exact Grows.trans (grows_of_link (t := updSet g _ s) rfl) (grows_tripActive g _)
        · exact grows_of_link rfl
    · split
      · split
        · exact Grows.trans (grows_of_link (t := updSet g _ s) rfl) (grows_notify _ _ _ _)
        · exact grows_of_link rfl
      · exact Grows.refl s
  · exact Grows.refl s

theorem grows_confirmChanged (c : Fin 16) (b : Bool) (s : State) : Grows s (confirmChanged c b s) := by
  unfold confirmChanged; split
  · split
    · exact ((updates_foldl (fun t g => updates_updGroup g _ t) _ s).trans
        (updates_foldl (fun t g => updates_testGatesOf g t) _ _)).grows
    · exact grows_foldl (fun t g => grows_notify _ _ _ t) _ s
  · exact Grows.refl s

theorem grows_inputChanged (i : PlantInput) (b : Bool) (s : State) : Grows s (inputChanged i b s) := by
  unfold inputChanged; split
  · unfold breakerChanged; split
    · split
      · exact grows_breakerClosed _ s
      · exact grows_breakerOpened _ s
    · exact Grows.refl s
  · unfold readyChanged; split
    · split
      · exact grows_syncAbort _ s
      · exact Grows.refl s
    · exact Grows.refl s
  · exact grows_tieChanged _ s
  · exact grows_tripChanged _ _ s
  · exact grows_confirmChanged _ _ s

theorem grows_filterExpires (i : PlantInput) (s : State) : Grows s (filterExpires i s) := by
  unfold filterExpires; dsimp only; split
  · exact (grows_setFilter _ _ s).trans (grows_inputSettled _ _ _)
  · split
    · exact grows_setFilter _ _ s
    · exact (grows_setFilter _ _ s).trans (grows_inputChanged _ _ _)

/-! ### The Scanner -/

theorem grows_freqNotice (x : Fin 4) (n : Int) (c d : SectChan) (s : State) : Grows s (freqNotice x n c d s) := by
  unfold freqNotice; split
  · exact grows_notify _ _ _ s
  · split
    · exact grows_notify _ _ _ s
    · exact Grows.refl s

theorem grows_kwNotices (g : Fin 8) (fs : Nat) (c d : KwChan) (s : State) : Grows s (kwNotices g fs c d s) := by
  unfold kwNotices; dsimp only
  split <;> split <;> (try split)
  all_goals first
    | exact (grows_notify _ _ _ s).trans (grows_notify _ _ _ _)
    | exact grows_notify _ _ _ s
    | exact Grows.refl s

theorem grows_setSect (x : Fin 4) (n : Int) (d : SectChan) (s : State) : Grows s (setSect x n d s) := by
  unfold setSect; dsimp only; split
  · exact grows_of_link rfl
  · refine Grows.trans ?_ (updates_updateAt _ _ _).grows
    exact Grows.trans (grows_of_link rfl) (grows_freqNotice _ _ _ _ _)

theorem grows_referenceLost (s : State) : Grows s (referenceLost s) := by
  unfold referenceLost; split
  · split
    · exact grows_syncAbort _ s
    · exact Grows.refl s
  · exact Grows.refl s

theorem grows_setRef (d : SyncChan) (s : State) : Grows s (setRef d s) := by
  unfold setRef; dsimp only; split
  · exact Grows.trans (grows_of_link rfl) (grows_referenceLost _)
  · exact grows_of_link rfl

theorem grows_scanRound (smp : Samples) (s : State) : Grows s (scanRound smp s) := by
  have h : Grows s (scanRound smp s) ↔ Grows s (scanRound smp s) := Iff.rfl
  unfold scanRound; dsimp only
  have h1 : Grows s (roundNotices s smp
      { s with scan := scanAfter s smp, start.adoptWait := s.start.adoptWait.map (· - 1) }) := by
    refine Grows.trans (grows_of_link (t := { s with scan := scanAfter s smp, start.adoptWait := s.start.adoptWait.map (· - 1) }) rfl) ?_
    unfold roundNotices
    exact (grows_foldl (fun t g => grows_kwNotices g _ _ _ t) _ _).trans
      (grows_foldl (fun t x => grows_freqNotice x 3 _ _ t) _ _)
  have h2 := h1.trans (Grows.trans (grows_of_link rfl) (updates_accountUpdate true s four
    { roundNotices s smp { s with scan := scanAfter s smp, start.adoptWait := s.start.adoptWait.map (· - 1) } with
      plant.freq := tab (fun x _ => ((roundNotices s smp { s with scan := scanAfter s smp, start.adoptWait := s.start.adoptWait.map (· - 1) }).scan.sect[x]).freq)
        (roundNotices s smp { s with scan := scanAfter s smp, start.adoptWait := s.start.adoptWait.map (· - 1) }).plant.freq }).grows)
  split
  · exact h2.trans (grows_referenceLost _)
  · exact h2

/-! ### Sharing and synchronising -/

theorem grows_updShare (g : Fin 8) (f : ShareRt → ShareRt) (s : State) : Grows s (updShare g f s) := grows_of_link rfl

theorem grows_applyStep (g : Fin 8) (n : Int) (s : State) : Grows s (applyStep g n s) := by
  unfold applyStep; dsimp only; split
  · split
    · exact Grows.trans (grows_of_link (t := updShare g _ s) rfl) (grows_notify _ _ _ _)
    · exact grows_of_link rfl
  · split
    · split
      · exact Grows.trans (grows_of_link (t := updShare g _ s) rfl) (grows_notify _ _ _ _)
      · exact grows_of_link rfl
    · exact grows_of_link rfl

theorem grows_passIsland (i : Fin 4) (s : State) : Grows s (passIsland i s) := by
  unfold passIsland; split
  · split
    · exact Grows.refl s
    · dsimp only
      refine Grows.trans (grows_foldl (fun t g => grows_updShare g _ t) _ s) (Grows.trans (grows_foldl (fun t g => ?_) _ _)
        (grows_foldl (fun t g => grows_updShare g _ t) _ _))
      split
      · exact grows_applyStep g _ t
      · exact Grows.refl t
  · exact Grows.refl s

theorem grows_sharingPass (s : State) : Grows s (sharingPass s) := by
  have h (u t : State) (g : Fin 8) : Grows t (if opensNow u g then openSet g t else t) := by
    split
    · exact grows_updShare g _ t
    · exact Grows.refl t
  unfold sharingPass eachIsland
  extract_lets _ s1 s2
  have h1 : Grows s s1 := grows_of_link rfl
  exact h1.trans (Grows.trans (t := s2) (grows_foldl (fun t i => grows_passIsland i t) four s1) (grows_foldl (h s2) eight s2))

theorem grows_unloadFails (g : Fin 8) (s : State) : Grows s (unloadFails g s) := by
  unfold unloadFails; split
  · exact ((updates_toOnline g _ s).trans (updates_updateSetIsland s g _)).grows.trans
      (Grows.trans (grows_of_link (t := updShare g _ _) rfl) (grows_notify _ _ _ _))
  · exact grows_of_link rfl

theorem grows_settleEnd (s : State) : Grows s (settleEnd s) := by
  unfold settleEnd; split
  · dsimp only; split
    · exact grows_of_link rfl
    · exact grows_of_link rfl
    · exact Grows.trans (grows_of_link rfl) (grows_syncAbort _ _)
  · exact Grows.refl s

theorem grows_lockNotice (n : Nat) (e : Edges) (a b : Bool) (s : State) : Grows s (lockNotice n e a b s) := by
  unfold lockNotice; split
  · exact grows_notify _ _ _ s
  · exact Grows.refl s

theorem grows_speedMatch (r : SyncReq) (s : State) : Grows s (speedMatch r s) := by
  unfold speedMatch; split <;> exact grows_of_link rfl

theorem grows_syncPass (s : State) : Grows s (syncPass s) := by
  unfold syncPass; split
  · dsimp only
    have h := fun r1 : SyncReq => fun a b : Bool => fun c d : Bool => fun e f : Edges =>
      Grows.trans (grows_of_link (s := s) (t := { s with sync.req := some r1 }) rfl)
        ((grows_lockNotice 0 e a b _).trans (grows_lockNotice 1 f c d _))
    split
    · exact (h _ _ _ _ _ _ _).trans (grows_speedMatch _ _)
    · exact h _ _ _ _ _ _ _
  · exact Grows.refl s

/-! ### Groups -/

theorem grows_confirmFails (g : Fin 32) (s : State) : Grows s (confirmFails g s) := by
  unfold confirmFails; dsimp only
  have h : Grows s (notify .shedFailed (some g.val) (causeValue s.shed.groups[g].cause)
      (testGatesOf g (updGroup g (fun r => { r with state := .shedFailed, confirm := none }) s))) :=
    ((updates_updGroup g _ s).trans ((updates_testGatesOf g _).trans (updates_notify _ _ _ _))).grows
  split
  · refine h.trans ?_
    unfold makeUp; split
    · exact (updates_shedSelection _ _ _ _).grows
    · exact Grows.refl _
  · exact h

theorem grows_dwellEnds (i : Fin 4) (s : State) : Grows s (dwellEnds i s) := by
  unfold dwellEnds; split
  · split
    · dsimp only; split
      · exact ((updates_shedAction _ _ s).trans ((updates_notify _ _ _ _).trans (updates_setDwell _ _ _))).grows
      · exact ((updates_notify _ _ _ s).trans (updates_setDwell _ _ _)).grows
    · exact (updates_setDwell _ _ s).grows
  · exact (updates_setDwell _ _ s).grows

theorem grows_restoreEnds (i : Fin 4) (s : State) : Grows s (restoreEnds i s) := by
  unfold restoreEnds; dsimp only; split
  · split
    · exact ((updates_cancelRestore i s).trans ((updates_connectGroup _ _).trans
        ((updates_notify _ _ _ _).trans (updates_startRestore _ _)))).grows
    · exact (updates_cancelRestore i s).grows
  · exact (updates_cancelRestore i s).grows

/-! ### The consumer line -/

theorem updates_removeEntry (e : Entry) (a : Answer) (s : State) : Updates s (removeEntry e a s) :=
  (updates_dropEntry _ _ s).trans ((updates_answer _ _ _ _).trans (updates_updateAt _ _ _))

theorem updates_endEntry (x : Fin 12) (c : Fin 4) (a : Answer) (s : State) : Updates s (endEntry x c a s) := by
  unfold endEntry; split
  · exact updates_removeEntry _ _ s
  · exact Updates.refl s

theorem updates_holdEnds (x : Fin 12) (c : Fin 4) (s : State) : Updates s (holdEnds x c s) := by
  unfold holdEnds; split
  · exact (updates_dropEntry _ _ s).trans ((updates_answer _ _ _ _).trans
      ((updates_notify _ _ _ _).trans (updates_updateAt _ _ _)))
  · exact Updates.refl s

theorem updates_enqueueEntry (e : Entry) (s : State) : Updates s (enqueueEntry e s) := by
  unfold enqueueEntry; dsimp only; split <;> split <;> exact updates_resv s _

theorem updates_startRequest (x : Fin 12) (c : Fin 4) (y kw lv h : Nat) (s : State) :
    Updates s (startRequest x c y kw lv h s) := by
  unfold startRequest; split
  · exact updates_answer _ _ _ s
  · split
    · exact updates_answer _ _ _ s
    · split
      · exact updates_answer _ _ _ s
      · split
        · split
          · exact (updates_enqueueEntry _ s).trans ((updates_answer _ _ _ _).trans (updates_updateAt _ _ _))
          · exact updates_answer _ _ _ s
        · exact updates_answer _ _ _ s

theorem updates_acceptMessage (x : Fin 12) (c : Fin 4) (s : State) : Updates s (acceptMessage x c s) := by
  unfold acceptMessage; split
  · exact updates_answer _ _ _ s
  · split
    · exact (updates_updEntry _ _ _ s).trans ((updates_answer _ _ _ _).trans (updates_updateAt _ _ _))
    · exact updates_answer _ _ _ s
    · exact updates_answer _ _ _ s

/-- A station message leaves alone what an account update leaves alone. -/
theorem updates_takeMessage (x : Fin 12) (m : Message) (s : State) : Updates s (takeMessage x m s) := by
  have h (c : Fin 4) : Updates s (endMessage x c s) := by
    unfold endMessage; split
    · exact updates_answer _ _ _ s
    · exact updates_removeEntry _ _ s
  unfold takeMessage; split
  · exact Updates.refl s
  · exact updates_startRequest _ _ _ _ _ _ s
  · exact updates_acceptMessage _ _ s
  · exact h _
  · exact h _

theorem grows_goodReply (x : Fin 12) (s : State) : Grows s (goodReply x s) := by
  unfold goodReply; dsimp only; split
  · exact Grows.trans (grows_of_link rfl) (grows_notify _ _ _ _)
  · exact grows_of_link rfl

theorem updates_dropStation (x : Fin 12) (s : State) : Updates s (dropStation x s) := by
  unfold dropStation
  extract_lets es s1
  exact Updates.trans (t := s1)
    (updates_foldl (fun t e => (updates_dropEntry _ _ t).trans (updates_answer _ _ _ _)) es s)
    (updates_accountUpdate _ _ _ _)

theorem grows_missedReply (x : Fin 12) (s : State) : Grows s (missedReply x s) := by
  unfold missedReply; dsimp only; split
  · exact Grows.refl s
  · split
    · exact grows_of_link rfl
    · exact Grows.trans (grows_of_link (t := updStation x _ s) rfl)
        ((grows_notify _ _ _ _).trans (updates_dropStation x _).grows)

theorem grows_inWindow {act : Fin 12 → State → State} (h : ∀ x t, Grows t (act x t)) (s : State) :
    Grows s (inWindow s act) := by
  unfold inWindow; split
  · exact Grows.trans (grows_of_link (t := { s with line.window := none }) rfl) (h _ _)
  · exact Grows.refl s

/-! ### Start-up -/

theorem grows_stateChanged (o : OpState) (s : State) : Grows s (stateChanged o s) :=
  Grows.trans (grows_of_link (t := { s with start.op := o }) rfl) (grows_notify _ _ _ _)

theorem grows_startBlocks (s : State) : Grows s (startBlocks s) :=
  Grows.trans (grows_of_link (t := startScanner (startFilters s)) rfl) (grows_notify _ _ _ _)

theorem grows_imageChecked (s : State) : Grows s (imageChecked s) := by
  unfold imageChecked; split
  · exact Grows.trans (t := startBlocks (takeImage _ s))
      (Grows.trans (grows_of_link (t := takeImage _ s) rfl) (grows_startBlocks _))
      (Grows.trans (grows_of_link rfl) (grows_firstPartition _))
  · exact Grows.trans (Grows.trans (grows_of_link (t := takeImage Image.default s) rfl) (grows_startBlocks _))
      (grows_stateChanged _ _)

theorem grows_adoptPartition (s : State) : Grows s (adoptPartition s) := by
  unfold adoptPartition; split
  · exact grows_of_link rfl
  · split
    · exact Grows.refl s
    · exact grows_partitionChange _ _ _ s

/-- The poll slots read anew change the Consumer Line Controller alone. -/
theorem reaimPolling_line (s : State) : reaimPolling s = { s with line := (reaimPolling s).line } := by
  unfold reaimPolling
  dsimp only
  repeat' split
  all_goals rfl

/-- With no station on the list no slot runs once the poll slots are read anew. -/
theorem reaimPolling_none {s : State} (h : listedStations s = []) : reaimPolling s = stopPolling s := by
  simp [reaimPolling, h]

/-- Poll slots that do not run stay so when they are read anew. -/
theorem reaimPolling_slot {s : State} (h : s.line.slot = none) : (reaimPolling s).line.slot = none := by
  simp only [reaimPolling, stopPolling]
  repeat' split
  all_goals simp [h]

theorem grows_startPolling (s : State) : Grows s (startPolling s) := by
  unfold startPolling; split <;> exact grows_of_link rfl

theorem grows_adopt (s : State) : Grows s (adopt s) := by
  unfold adopt; dsimp only
  refine (grows_adoptPartition s).trans (Grows.trans ?_ (grows_stateChanged _ _))
  refine Grows.trans ?_ (updates_recompute _ _).grows
  exact Grows.trans (grows_of_link rfl) (grows_startPolling _)

theorem grows_storeWritten (img : Image) (b : Bool) (s : State) : Grows s (storeWritten img b s) := by
  unfold storeWritten; split
  · dsimp only; split
    · exact Grows.trans (Grows.trans (grows_of_link rfl) (grows_notify _ _ _ _)) (grows_stateChanged _ _)
    · exact Grows.trans (grows_of_link rfl) (grows_notify _ _ _ _)
  · exact Grows.trans (grows_of_link rfl) (grows_notify _ _ _ _)

theorem grows_commit (s : State) : Grows s (commit s) := by
  unfold commit; split
  · exact Grows.trans (grows_of_link rfl) (grows_notify _ _ _ _)
  · exact grows_of_link rfl

theorem grows_removeAll (keep : Entry → Bool) (a : Answer) (s : State) : Grows s (removeAll keep a s) := by
  unfold removeAll
  extract_lets s1
  have h : Grows s s1 := (updates_foldl (fun t e => updates_answer _ _ a t) _ s).grows
  exact h.trans (updates_resv s1 _).grows

theorem grows_holdSync (s : State) : Grows s (holdSync s) := by
  unfold holdSync; split
  · split
    · exact Grows.refl _
    · exact grows_syncAbort _ _
  · exact Grows.refl _

theorem grows_holdPart (s : State) : Grows s (holdPart s) := by
  unfold holdPart
  extract_lets s1 s2
  have h1 : Grows s s1 := grows_stateChanged .held s
  have h2 : Grows s1 (stopTimers s1) := grows_of_link rfl
  have h3 : Grows (stopTimers s1) (holdUnloads (stopTimers s1)) :=
    (updates_foldl (fun t g => updates_abortUnload 3 g t) _ _).grows
  have h4 : Grows s s2 := h1.trans (h2.trans (h3.trans (grows_holdSync _)))
  exact h4.trans ((grows_removeAll _ _ s2).trans (updates_accountUpdate _ _ _ _).grows)

theorem grows_resumeLine (s : State) : Grows s (resumeLine s) := by
  unfold resumeLine
  extract_lets s1 _ s2
  have h1 : Grows s s1 := grows_removeAll _ _ s
  have h2 : Grows s1 s2 := grows_of_link rfl
  exact (h1.trans h2).trans (Grows.trans (grows_of_link (by rfl)) (grows_of_link (congrArg (·.link) (reaimPolling_line _))))

theorem grows_resumePart (s : State) : Grows s (resumePart s) := by
  unfold resumePart
  extract_lets s1
  have h1 : Grows s s1 := Grows.trans (grows_of_link (t := initProfiles (resumePlant s)) rfl) (grows_resumeLine _)
  have h2 : Grows s1 { s1 with start.adoptWait := some 2 } := grows_of_link rfl
  exact h1.trans (h2.trans (updates_accountUpdate _ _ _ _).grows)

theorem grows_joint (j : Option Joint) (s : State) : Grows s { s with link.joint := j } :=
  grows_of_notices fun l => by cases l <;> rfl

theorem grows_jointRequest (l : Link) (c : JointCmd) (vs : List Int) (s : State) : Grows s (jointRequest l c vs s).1 := by
  have out (t : State) : Grows t (carryOut c t).1 := by
    cases c <;> dsimp only [carryOut]
    · exact Grows.refl t
    · exact grows_holdPart t
    · exact grows_resumePart t
    · exact grows_commit t
  unfold jointRequest; split
  · exact Grows.refl s
  · split
    · unfold jointMeets; split
      · split
        · exact Grows.refl s
        · exact (grows_joint none s).trans (out _)
      · exact (grows_joint _ s).trans (grows_notify _ _ _ _)
    · unfold jointAlone; split
      · exact (grows_joint _ s).trans (grows_notify _ _ _ _)
      · exact out s

/-! ### Requests -/

theorem grows_withFields {ws : List Width} {fields : List Byte} {owner : List Int → State → State × Reply}
    (ho : ∀ vs t, Grows t (owner vs t).1) (t : State) : Grows t (withFields ws fields owner t).1 :=
  withFields_ind (P := Grows t) (fun vs u h => h.trans (ho vs u)) t (Grows.refl t)

theorem grows_setModeOf (vs : List Int) (s : State) : Grows s (setModeOf vs s).1 := by
  unfold setModeOf
  repeat' split
  all_goals first
    | exact Grows.refl s
    | exact Grows.trans (grows_of_link (t := updSetBank _ _ s) rfl) (updates_updateSetIsland _ _ _).grows

theorem grows_setBaseOf (vs : List Int) (s : State) : Grows s (setBaseOf vs s).1 := by
  unfold setBaseOf
  repeat' split
  all_goals exact Grows.refl s

theorem grows_clearTripOf (vs : List Int) (s : State) : Grows s (clearTripOf vs s).1 := by
  unfold clearTripOf
  repeat' split
  all_goals first
    | exact Grows.refl s
    | exact Grows.trans (grows_of_link (t := updSet _ _ s) rfl) (grows_notify _ _ _ _)

theorem grows_unloadSet (vs : List Int) (s : State) : Grows s (unloadSet vs s).1 := by
  unfold unloadSet
  repeat' split
  all_goals first
    | exact Grows.refl s
    | exact Grows.trans (grows_of_link (t := updShare _ _ (setSetState _ _ s)) rfl) (updates_updateSetIsland _ _ _).grows

theorem grows_connectSet (l : Link) (vs : List Int) (s : State) : Grows s (connectSet l vs s).1 := by
  unfold connectSet
  repeat' split
  all_goals exact Grows.refl s

theorem grows_closeTie (l : Link) (vs : List Int) (s : State) : Grows s (closeTie l vs s).1 := by
  unfold closeTie
  repeat' split
  all_goals exact Grows.refl s

theorem grows_cancelSync (vs : List Int) (s : State) : Grows s (cancelSync vs s).1 := by
  unfold cancelSync
  repeat' split
  all_goals first | exact Grows.refl s | exact grows_syncAbort _ s

theorem grows_groupCommand (v : Int) {own : Fin 32 → State → State × Reply} (h : ∀ g t, Grows t (own g t).1) (s : State) :
    Grows s (groupCommand v own s).1 := by
  unfold groupCommand
  repeat' split
  all_goals first | exact Grows.refl s | exact h _ s

theorem grows_shedCommand (l : Link) (g : Fin 32) (s : State) : Grows s (shedCommand l g s).1 := by
  unfold shedCommand
  split
  all_goals first
    | exact Grows.refl s
    | exact ((updates_shedAction _ _ s).trans (updates_notify _ _ _ _)).grows

theorem grows_restoreCommand (g : Fin 32) (s : State) : Grows s (restoreCommand g s).1 := by
  unfold restoreCommand
  split
  all_goals first
    | exact Grows.refl s
    | exact ((updates_connectGroup _ s).trans (updates_notify _ _ _ _)).grows

theorem updates_inhibitMove (g : Fin 32) (st : GroupState) (v : Int) (s : State) : Updates s (inhibitMove g st v s) :=
  (updates_updGroup g _ s).trans ((updates_notify _ _ _ _).trans (updates_testGatesOf _ _))

theorem grows_inhibitCommand (g : Fin 32) (s : State) : Grows s (inhibitCommand g s).1 := by
  unfold inhibitCommand
  split
  · exact (updates_inhibitMove g .inhibited 1 s).grows
  · exact Grows.refl s

theorem grows_releaseCommand (g : Fin 32) (s : State) : Grows s (releaseCommand g s).1 := by
  unfold releaseCommand
  split
  · exact (updates_inhibitMove g .connected 0 s).grows
  · exact Grows.refl s

theorem grows_setGroupCommand (a b : Int) (g : Fin 32) (s : State) : Grows s (setGroupCommand a b g s).1 := by
  unfold setGroupCommand
  split
  · exact Grows.refl s
  · dsimp only
    split
    · exact grows_of_link rfl
    · exact Grows.trans (grows_of_link (by rfl)) (updates_testGatesOf g _).grows

theorem grows_cancelReservation (vs : List Int) (s : State) : Grows s (cancelReservation vs s).1 := by
  unfold cancelReservation
  repeat' split
  all_goals first | exact Grows.refl s | exact (updates_removeEntry _ _ s).grows

theorem grows_enterProfile (vs : List Int) (s : State) : Grows s (enterProfile vs s).1 := by
  unfold enterProfile
  repeat' split
  all_goals exact Grows.refl s

theorem grows_pushProfile (vs : List Int) (s : State) : Grows s (pushProfile vs s).1 := by
  unfold pushProfile
  repeat' split
  all_goals exact Grows.refl s

theorem grows_popProfile (vs : List Int) (s : State) : Grows s (popProfile vs s).1 := by
  unfold popProfile
  repeat' split
  all_goals exact Grows.refl s

theorem grows_refreshProfile (vs : List Int) (s : State) : Grows s (refreshProfile vs s).1 := by
  unfold refreshProfile
  repeat' split
  all_goals exact Grows.refl s

theorem grows_autoOffCancels (s : State) : Grows s (autoOffCancels s) := by
  unfold autoOffCancels; split
  · exact Grows.refl s
  · exact (updates_cancelRestores s).grows

theorem grows_settingEffects (n : Fin 16) (b s : State) : Grows s (settingEffects n b s) := by
  unfold settingEffects
  split
  · exact (updates_accountUpdate _ _ _ _).grows
  · split
    · exact grows_autoOffCancels s
    · exact Grows.refl s

theorem grows_writeSetting (vs : List Int) (s : State) : Grows s (writeSetting vs s).1 := by
  unfold writeSetting
  split
  · exact Grows.refl s
  · split
    · exact Grows.refl s
    · split
      · exact Grows.refl s
      · extract_lets b w _ s1
        have h : Grows s s1 := by
          show Grows s (match s.prof.stack.getLast? with
            | some p => { s with prof.working := put s.prof.working p w.1 }
            | none => s)
          split
          · exact grows_of_link rfl
          · exact Grows.refl s
        dsimp only
        split
        · exact h
        · exact h.trans (grows_settingEffects _ _ _)

theorem grows_writeProfile (fields : List Byte) (s : State) : Grows s (writeProfile fields s).1 := by
  have w (p : Fin 8) {own : State → State × Reply} (h : Grows s (own s).1) : Grows s (profileWrite p own s).1 := by
    unfold profileWrite
    repeat' split
    all_goals first | exact Grows.refl s | exact h
  have wi (p : Fin 8) (vs : List Int) : Grows s (writeInitial p vs s).1 := by
    unfold writeInitial; dsimp only
    split
    · exact grows_of_link rfl
    · exact Grows.refl s
  have wp (p : Fin 8) (ps : List RawPatch) : Grows s (writePatches p ps s).1 := by
    unfold writePatches
    split
    · exact grows_of_link rfl
    · exact Grows.refl s
  unfold writeProfile
  repeat' split
  all_goals first
    | exact Grows.refl s
    | exact w _ (wi _ _)
    | exact w _ (wp _ _)

theorem grows_loadRecord (fields : List Byte) (s : State) : Grows s (loadRecord fields s).1 := by
  unfold loadRecord
  repeat' split
  all_goals exact Grows.refl s

/-! ### Every request -/

/-- READ NOTICES takes notices out of a queue. -/
theorem noticeLaw_readNotices (l : Link) (vs : List Int) {s : State} (h : NoticeLaw s) :
    NoticeLaw (readNotices l vs s).1 := by
  have hd (q : List Notice) (k : q.length ≤ Config.noticeCap) : (q.drop Config.noticeRead).length ≤ Config.noticeCap :=
    by rw [List.length_drop]; omega
  cases l
  · exact ⟨hd _ h.1, h.2⟩
  · exact ⟨h.1, hd _ h.2⟩

/-- No request makes a queue longer than it may be. -/
theorem noticeLaw_requestOwner (l : Link) (kind : Nat) (fields : List Byte) {s : State} (h : NoticeLaw s) :
    NoticeLaw (requestOwner l kind fields s).1 := by
  have g {t : State} (k : Grows s t) : NoticeLaw t := k.noticeLaw h
  have w {ws : List Width} {owner : List Int → State → State × Reply} (ho : ∀ vs t, Grows t (owner vs t).1) :
      NoticeLaw (withFields ws fields owner s).1 := g (grows_withFields ho s)
  unfold requestOwner
  split
  · exact w fun _ t => Grows.refl t
  · exact w fun _ t => Grows.refl t
  · exact w fun _ t => Grows.refl t
  · exact w fun _ t => Grows.refl t
  · exact w fun _ t => Grows.refl t
  · exact withFields_ind (P := NoticeLaw) (fun vs t => noticeLaw_readNotices l vs) s h
  · exact w fun _ t => Grows.refl t
  · exact w grows_setModeOf
  · exact w grows_setBaseOf
  · exact w grows_unloadSet
  · exact w grows_clearTripOf
  · exact w (grows_connectSet l)
  · exact w (grows_closeTie l)
  · exact w grows_cancelSync
  · exact w fun _ => grows_groupCommand _ (grows_shedCommand l)
  · exact w fun _ => grows_groupCommand _ grows_restoreCommand
  · exact w fun _ => grows_groupCommand _ grows_inhibitCommand
  · exact w fun _ => grows_groupCommand _ grows_releaseCommand
  · exact w fun _ => grows_groupCommand _ (grows_setGroupCommand _ _)
  · exact w grows_cancelReservation
  · exact w grows_enterProfile
  · exact w grows_pushProfile
  · exact w grows_popProfile
  · exact w grows_refreshProfile
  · exact w grows_writeSetting
  · exact g (grows_writeProfile fields s)
  · exact g (grows_loadRecord fields s)
  · exact w (grows_jointRequest l _)
  · exact w (grows_jointRequest l _)
  · exact w (grows_jointRequest l _)
  · exact w (grows_jointRequest l _)
  · exact h

/-- Every request keeps the law of the notice queues. -/
theorem noticeLaw_linkSafe (l : Link) : LinkSafe l NoticeLaw where
  frame f t h := (grows_updLink l (f := fun x => { x with frame := f }) (fun _ => rfl) t).noticeLaw h
  valid t h := (grows_validFrame l t).noticeLaw h
  owner kind fields t h := noticeLaw_requestOwner l kind fields h
  response r t h := (grows_respond l r t).noticeLaw h

/-! ### The Profile Unit and the links -/

theorem grows_profileBuildEnd (e : EntryOp) (s : State) :
    Grows s (match e.fail with | some n => entryFails e n s | none => entryCompletes e s) := by
  split
  · exact Grows.trans (grows_of_link (by rfl)) (grows_notify _ _ _ _)
  · unfold entryCompletes
    extract_lets p s1
    have h : Grows s s1 := Grows.trans (grows_of_link (t := { s with prof := p }) rfl) (grows_notify _ _ _ _)
    exact h.trans ((grows_autoOffCancels s1).trans (updates_accountUpdate _ _ _ _).grows)

theorem grows_linkSilent (l : Link) (s : State) : Grows s (linkSilent l s) := by
  unfold linkSilent
  extract_lets s1
  have h0 := grows_updLink l (f := fun x => { x with active := false, timer := none }) (fun _ => rfl) s
  have h : Grows s s1 := h0.trans (grows_notify _ _ _ _)
  split
  · exact h
  · exact h.trans ((grows_notify _ _ _ _).trans (updates_cancelRestores _).grows)

theorem grows_windowEnds (s : State) : Grows s (windowEnds s) := by
  unfold windowEnds
  split
  · exact (grows_joint none s).trans (grows_notify _ _ _ _)
  · exact Grows.refl s

end Sys2Proof.Machine
end

