-- ==== Sys2Proof/Laws/Keeps.lean ====
section
/-! SUPPORT. The operations inside an account update keep the laws of `Safety`: biases, SHED outputs, the partition and
the reservation queue. -/

namespace Sys2Proof.Machine

/-- From `s` to `t` each of the four laws is kept. -/
def Keeps (s t : State) : Prop :=
  (BiasInv s → BiasInv t) ∧ (ShedInv s → ShedInv t) ∧ (PartitionLaw s → PartitionLaw t) ∧ (QueueInv s → QueueInv t)

theorem Keeps.refl (s : State) : Keeps s s := ⟨id, id, id, id⟩

theorem Keeps.trans {s t u : State} (h : Keeps s t) (k : Keeps t u) : Keeps s u :=
  ⟨k.1 ∘ h.1, k.2.1 ∘ h.2.1, k.2.2.1 ∘ h.2.2.1, k.2.2.2 ∘ h.2.2.2⟩

/-! ### What each law reads -/

theorem biasInv_of {s t : State} (hb : ∀ g : Fin 8, t.biasOut g = s.biasOut g) (hc : t.conf = s.conf)
    (hs : t.start = s.start) (h : BiasInv s) : BiasInv t := by
  obtain ⟨hl, hi⟩ := h
  refine ⟨fun g => ?_, ?_⟩
  · rw [hb]; exact hl g
  · unfold ImagesOk; rw [hc, hs]; exact hi

theorem shedInv_of {s t : State} (ho : t.start.op = s.start.op) (hg : t.shed.groups = s.shed.groups) (h : ShedInv s) :
    ShedInv t := by
  obtain ⟨hl, hc⟩ := h
  refine ⟨fun hr g => ?_, fun g => ?_⟩
  · have := hl (by simpa [State.running, ho] using hr) g
    simpa [State.shedOut, hg] using this
  · rw [hg]; exact hc g

theorem partitionLaw_of {s t : State} (hp : t.plant.partition = s.plant.partition)
    (hn : t.plant.generation = s.plant.generation) (h : PartitionLaw s) : PartitionLaw t := by
  unfold PartitionLaw; rw [hp, hn]; exact h

/-- An entry's island depends on the partition alone. -/
theorem island_of {s t : State} (hp : t.plant.partition = s.plant.partition) (e : Entry) : e.island t = e.island s :=
  islandOf_of hp _

theorem rivals_of {s t : State} (hp : t.plant.partition = s.plant.partition) (e f : Entry) :
    e.rivals t f ↔ e.rivals s f := by simp only [Entry.rivals, island_of hp]

theorem queueInv_of {s t : State} (hp : t.plant.partition = s.plant.partition) (hq : t.resv.queue = s.resv.queue)
    (h : QueueInv s) : QueueInv t := by
  obtain ⟨⟨h1, h2, h3⟩, h4⟩ := h
  refine ⟨⟨by rw [hq]; exact h1, by rw [hq]; exact h2, ?_⟩, by rw [hp, hq]; exact h4⟩
  rw [hq]
  exact h3.imp fun {e f} hr hn => hr ((rivals_of hp e f).1 hn)

/-- A change outside what the laws read. -/
theorem keeps_of {s t : State} (hb : ∀ g : Fin 8, t.biasOut g = s.biasOut g) (hc : t.conf = s.conf)
    (hs : t.start = s.start) (hg : t.shed.groups = s.shed.groups) (hp : t.plant.partition = s.plant.partition)
    (hn : t.plant.generation = s.plant.generation) (hq : t.resv.queue = s.resv.queue) : Keeps s t :=
  ⟨biasInv_of hb hc hs, shedInv_of (by rw [hs]) hg, partitionLaw_of hp hn, queueInv_of hp hq⟩

/-- A change of the groups alone. -/
theorem keeps_groups {s t : State} (hi : ShedInv s → ShedInv t) (hb : ∀ g : Fin 8, t.biasOut g = s.biasOut g)
    (hc : t.conf = s.conf) (hs : t.start = s.start) (hp : t.plant.partition = s.plant.partition)
    (hn : t.plant.generation = s.plant.generation) (hq : t.resv.queue = s.resv.queue) : Keeps s t :=
  ⟨biasInv_of hb hc hs, hi, partitionLaw_of hp hn, queueInv_of hp hq⟩

/-- A change of the reservation queue alone. -/
theorem keeps_queue {s t : State} (hi : QueueInv s → QueueInv t) (hb : ∀ g : Fin 8, t.biasOut g = s.biasOut g)
    (hc : t.conf = s.conf) (hs : t.start = s.start) (hg : t.shed.groups = s.shed.groups)
    (hp : t.plant.partition = s.plant.partition) (hn : t.plant.generation = s.plant.generation) : Keeps s t :=
  ⟨biasInv_of hb hc hs, shedInv_of (by rw [hs]) hg, partitionLaw_of hp hn, hi⟩

theorem keeps_foldl {α : Type} {f : State → α → State} (h : ∀ t a, Keeps t (f t a)) (l : List α) (s : State) :
    Keeps s (l.foldl f s) := foldl_inv (P := Keeps s) (fun _ a hb => hb.trans (h _ a)) l s (Keeps.refl s)

/-! ### Notices, accounts, timers -/

theorem keeps_notify (k : NoticeKind) (a : Option Nat) (v : Option Int) (s : State) : Keeps s (notify k a v s) :=
  keeps_of (fun _ => rfl) rfl rfl rfl rfl rfl rfl

theorem keeps_accounts (s : State) (f : Vector (Option Account) 4) : Keeps s { s with plant.accounts := f } :=
  keeps_of (fun _ => rfl) rfl rfl rfl rfl rfl rfl

theorem keeps_recompute (is : List (Fin 4)) (s : State) : Keeps s (recompute is s) := keeps_accounts s _
theorem keeps_setShortfall (i : Fin 4) (b : Bool) (s : State) : Keeps s (setShortfall i b s) := keeps_accounts s _

theorem keeps_link (s : State) (x : LinkIf) : Keeps s { s with link := x } :=
  keeps_of (fun _ => rfl) rfl rfl rfl rfl rfl rfl

theorem keeps_setDwell (i : Fin 4) (d : Dwell) (s : State) : Keeps s (setDwell i d s) :=
  keeps_of (fun _ => rfl) rfl rfl rfl rfl rfl rfl
theorem keeps_cancelRestore (i : Fin 4) (s : State) : Keeps s (cancelRestore i s) :=
  keeps_of (fun _ => rfl) rfl rfl rfl rfl rfl rfl
theorem keeps_cancelRestores (s : State) : Keeps s (cancelRestores s) :=
  keeps_of (fun _ => rfl) rfl rfl rfl rfl rfl rfl

theorem keeps_testGates (i : Fin 4) (s : State) : Keeps s (testGates i s) := by
  unfold testGates; split
  · exact Keeps.refl s
  · exact keeps_cancelRestore i s

theorem keeps_testGatesOf (g : Fin 32) (s : State) : Keeps s (testGatesOf g s) := by
  unfold testGatesOf; split
  · exact keeps_testGates _ s
  · exact Keeps.refl s

theorem keeps_startRestore (i : Fin 4) (s : State) : Keeps s (startRestore i s) := by
  unfold startRestore; split
  · exact keeps_of (fun _ => rfl) rfl rfl rfl rfl rfl rfl
  · exact Keeps.refl s

/-! ### Groups -/

/-- A group's record agrees with both parts of the SHED law. -/
def GroupRt.ok (r : GroupRt) : Prop := r.out = r.state.isShed ∧ (r.confirm.isSome = true → r.state = .shedPending)

/-- A group changed to one that agrees, where it agreed before. -/
theorem shedInv_updGroup {g : Fin 32} {f : GroupRt → GroupRt} {s : State}
    (hf : ∀ r, (r.out = r.state.isShed → (f r).out = (f r).state.isShed))
    (hc : ((s.shed.groups[g]).confirm.isSome = true → (s.shed.groups[g]).state = .shedPending) →
      (f s.shed.groups[g]).confirm.isSome = true → (f s.shed.groups[g]).state = .shedPending)
    (h : ShedInv s) : ShedInv (updGroup g f s) := by
  obtain ⟨hl, hk⟩ := h
  refine ⟨fun hr j => ?_, fun j => ?_⟩
  · have := hl hr j
    simp only [State.shedOut, updGroup] at this ⊢
    rw [get_upd]; split
    · next e => subst e; exact hf _ this
    · exact this
  · show ((upd s.shed.groups g f)[j]).confirm.isSome = true → ((upd s.shed.groups g f)[j]).state = .shedPending
    rw [get_upd]; split
    · next e => subst e; exact hc (hk _)
    · exact hk j

theorem keeps_updGroup {g : Fin 32} {f : GroupRt → GroupRt} {s : State}
    (hf : ∀ r, (r.out = r.state.isShed → (f r).out = (f r).state.isShed))
    (hc : ((s.shed.groups[g]).confirm.isSome = true → (s.shed.groups[g]).state = .shedPending) →
      (f s.shed.groups[g]).confirm.isSome = true → (f s.shed.groups[g]).state = .shedPending) :
    Keeps s (updGroup g f s) :=
  keeps_groups (shedInv_updGroup hf hc) (fun _ => rfl) rfl rfl rfl rfl rfl

theorem keeps_shedGroup (c : ShedCause) (g : Fin 32) (s : State) : Keeps s (shedGroup c g s) := by
  unfold shedGroup
  refine keeps_updGroup (fun r _ => ?_) (fun _ => ?_)
  · cases opensAtOnce s g <;> rfl
  · cases opensAtOnce s g <;> simp

theorem keeps_shedAction (c : ShedCause) (gs : List (Fin 32)) (s : State) : Keeps s (shedAction c gs s) :=
  (keeps_foldl (fun t g => keeps_shedGroup c g t) gs s).trans (keeps_foldl (fun t g => keeps_testGatesOf g t) gs _)

theorem keeps_connectGroup (g : Fin 32) (s : State) : Keeps s (connectGroup g s) :=
  (keeps_updGroup (fun _ _ => rfl) (fun _ => by simp)).trans (keeps_testGatesOf g _)

theorem keeps_shedSelection (k : NoticeKind) (i : Fin 4) (n : Nat) (s : State) : Keeps s (shedSelection k i n s) :=
  (keeps_shedAction _ _ s).trans ((keeps_setShortfall i _ _).trans (keeps_notify k _ _ _))

theorem keeps_fastShed (i : Fin 4) (n : Nat) (s : State) : Keeps s (fastShed i n s) := by
  unfold fastShed; split
  · dsimp only; split
    · exact keeps_shedSelection _ i _ s
    · exact Keeps.refl s
  · exact Keeps.refl s

theorem keeps_blackoutShed (i : Fin 4) (s : State) : Keeps s (blackoutShed i s) :=
  (keeps_shedAction _ _ s).trans (keeps_notify _ _ _ _)

theorem keeps_shedUpdate (scan : Bool) (i : Fin 4) (s : State) : Keeps s (shedUpdate scan i s) := by
  unfold shedUpdate; split
  · split
    · dsimp only; split
      · exact (keeps_setDwell i _ s).trans ((keeps_testGates i _).trans (keeps_startRestore i _))
      · exact (keeps_setDwell i _ s).trans (keeps_testGates i _)
    · exact Keeps.refl s
  · exact Keeps.refl s

/-! ### Sets -/

theorem keeps_updSet (g : Fin 8) (f : SetRt → SetRt) (s : State) : Keeps s (updSet g f s) :=
  keeps_of (fun _ => rfl) rfl rfl rfl rfl rfl rfl

/-- A change of one sharing record that leaves the bias within its law. -/
theorem keeps_updShare {g : Fin 8} {f : ShareRt → ShareRt} {s : State}
    (hf : BiasInv s → -1000 ≤ (f s.share.sets[g]).bias ∧ (f s.share.sets[g]).bias ≤ 1000) : Keeps s (updShare g f s) := by
  refine ⟨fun h => ⟨fun j => ?_, h.2⟩, shedInv_of rfl rfl, partitionLaw_of rfl rfl, queueInv_of rfl rfl⟩
  simp only [State.biasOut, updShare, get_upd]
  split
  · next e => subst e; exact hf h
  · exact h.1 j

/-- A change of one sharing record that leaves the bias. -/
theorem keeps_updShare_same {g : Fin 8} {f : ShareRt → ShareRt} {s : State} (hf : ∀ r, (f r).bias = r.bias) :
    Keeps s (updShare g f s) := keeps_updShare fun h => by rw [hf]; exact h.1 g

theorem keeps_park (g : Fin 8) (s : State) : Keeps s (park g s) := keeps_updShare fun h => by
  dsimp only
  split
  · exact h.2.1 g
  · exact h.1 g

theorem keeps_toOnline (g : Fin 8) (k : Nat) (s : State) : Keeps s (toOnline g k s) :=
  (keeps_updSet g _ s).trans (keeps_updShare_same fun _ => rfl)

theorem keeps_abortUnload (c : Int) (g : Fin 8) (s : State) : Keeps s (abortUnload c g s) :=
  (keeps_toOnline g _ s).trans (keeps_notify _ _ _ _)

theorem keeps_abortUnloads (i : Fin 4) (s : State) : Keeps s (abortUnloads i s) := by
  unfold abortUnloads; split
  · dsimp only
    split
    · exact Keeps.refl s
    · split
      · exact (keeps_foldl (fun t g => keeps_abortUnload 2 g t) _ s).trans (keeps_recompute _ _)
      · split
        · exact (keeps_foldl (fun t g => keeps_abortUnload 1 g t) _ s).trans (keeps_recompute _ _)
        · exact Keeps.refl s
  · exact Keeps.refl s

theorem keeps_blackoutIfDead (b : State) (i : Fin 4) (s : State) : Keeps s (blackoutIfDead b i s) := by
  unfold blackoutIfDead; split
  · split
    · exact keeps_blackoutShed i s
    · exact Keeps.refl s
  · exact Keeps.refl s

/-! ### Reservations -/

theorem keeps_answer (x : Fin 12) (c : Fin 4) (a : Answer) (s : State) : Keeps s (answer x c a s) :=
  keeps_of (fun _ => rfl) rfl rfl rfl rfl rfl rfl

/-- A change of entries that keeps what they name, and offers none. -/
theorem queueInv_map {s : State} {f : Entry → Entry}
    (hs : ∀ e, (f e).station = e.station ∧ (f e).consumer = e.consumer ∧ (f e).sect = e.sect)
    (ho : ∀ e, (f e).state = .offered → e.state = .offered) (h : QueueInv s) :
    QueueInv { s with resv.queue := s.resv.queue.map f } := by
  obtain ⟨⟨h1, h2, h3⟩, h4⟩ := h
  refine ⟨⟨by simpa using h1, ?_, ?_⟩, ?_⟩
  · refine List.pairwise_map.2 (h2.imp fun {e g} hr hn => hr ?_)
    simpa [Entry.same, hs] using hn
  · refine List.pairwise_map.2 (h3.imp fun {e g} hr hn => hr ?_)
    obtain ⟨a, b, c⟩ := hn
    exact ⟨ho _ a, ho _ b, by simpa [Entry.island, hs, islandOf] using c⟩
  · intro hp e he
    obtain ⟨e', he', rfl⟩ := List.mem_map.1 he
    exact fun hn => h4 hp e' he' (ho _ hn)

/-- A queue with entries removed. -/
theorem queueInv_filter {s : State} {p : Entry → Bool} (h : QueueInv s) :
    QueueInv { s with resv.queue := s.resv.queue.filter p } := by
  obtain ⟨⟨h1, h2, h3⟩, h4⟩ := h
  exact ⟨⟨(List.length_filter_le _ _).trans h1, h2.filter _, h3.filter _⟩,
    fun hp e he => h4 hp e (List.mem_of_mem_filter he)⟩

theorem keeps_filter (s : State) (p : Entry → Bool) : Keeps s { s with resv.queue := s.resv.queue.filter p } :=
  keeps_queue queueInv_filter (fun _ => rfl) rfl rfl rfl rfl rfl

theorem keeps_dropEntry (x : Fin 12) (c : Fin 4) (s : State) : Keeps s (dropEntry x c s) := keeps_filter s _

/-- A change of one consumer's entry that keeps what it names, and does not offer it. -/
theorem keeps_updEntry {x : Fin 12} {c : Fin 4} {f : Entry → Entry} {s : State}
    (hs : ∀ e, (f e).station = e.station ∧ (f e).consumer = e.consumer ∧ (f e).sect = e.sect)
    (ho : ∀ e, (f e).state ≠ .offered) : Keeps s (updEntry x c f s) := by
  refine keeps_queue (queueInv_map (fun e => ?_) (fun e h => ?_)) (fun _ => rfl) rfl rfl rfl rfl rfl
  · split
    · exact hs e
    · exact ⟨rfl, rfl, rfl⟩
  · split at h
    · exact absurd h (ho e)
    · exact h

theorem keeps_returnOffer (e : Entry) (s : State) : Keeps s (returnOffer e s) := by
  unfold returnOffer
  exact (keeps_updEntry (f := fun x => { x with state := .waiting, remaining := (settings s).waitLimit * 1000 })
    (fun _ => ⟨rfl, rfl, rfl⟩) (by simp)).trans (keeps_answer _ _ _ _)

theorem keeps_returnOffers (es : List Entry) (s : State) : Keeps s (returnOffers es s) :=
  keeps_foldl (fun t e => keeps_returnOffer e t) es s

/-- Two members of a list no two of which are related by a symmetric relation are one where they are related. -/
theorem eq_of_pairwise {α : Type} {R : α → α → Prop} (hs : ∀ a b, R a b → R b a) {l : List α}
    (h : l.Pairwise fun a b => ¬ R a b) {a b : α} (ha : a ∈ l) (hb : b ∈ l) (hr : R a b) : a = b := by
  induction l with
  | nil => exact nomatch ha
  | cons c l ih =>
    rw [List.pairwise_cons] at h
    rcases List.mem_cons.1 ha with rfl | ha' <;> rcases List.mem_cons.1 hb with rfl | hb'
    · rfl
    · exact absurd hr (h.1 b hb')
    · exact absurd (hs _ _ hr) (h.1 a ha')
    · exact ih h.2 ha' hb'

theorem Entry.same_comm (e f : Entry) (h : e.same f) : f.same e := ⟨h.1.symm, h.2.symm⟩

theorem Entry.rivals_comm {s : State} (e f : Entry) (h : e.rivals s f) : f.rivals s e := ⟨h.2.1, h.1, h.2.2.symm⟩

/-- An entry offered where its island has no OFFERED entry. -/
theorem queueInv_makeOffer {e : Entry} {s : State} {i : Fin 4} (he : e ∈ s.resv.queue) (hi : e.island s = some i)
    (hn : ∀ f ∈ s.resv.queue, f.state = .offered → f.island s ≠ some i) (h : QueueInv s) : QueueInv (makeOffer e s) := by
  obtain ⟨⟨h1, h2, h3⟩, h4⟩ := h
  have hp : s.plant.partition ≠ none := by
    intro hn'; simp [Entry.island, islandOf, hn'] at hi
  let m : Entry → Entry := fun y =>
    if y.isOf e.station e.consumer then { y with state := .offered, remaining := (settings s).acceptTime } else y
  have hq : (makeOffer e s).resv.queue = s.resv.queue.map m := rfl
  have ms : ∀ y, (m y).station = y.station ∧ (m y).consumer = y.consumer ∧ (m y).sect = y.sect := by
    intro y; simp only [m]; split <;> exact ⟨rfl, rfl, rfl⟩
  have mi : ∀ y, (m y).island s = y.island s := by intro y; simp only [Entry.island, (ms y).2.2]
  refine ⟨⟨by rw [hq, List.length_map]; exact h1, ?_, ?_⟩, fun hn' => absurd hn' hp⟩
  · rw [hq]
    refine List.pairwise_map.2 (h2.imp fun {y z} hr hy => hr ?_)
    simpa [Entry.same, ms] using hy
  · rw [hq]
    refine List.pairwise_map.2 ((h3.and h2).imp_of_mem fun {y z} hy hz hr hv => ?_)
    obtain ⟨a, b, c⟩ := hv
    have ci : ∀ w : Entry, w.island (makeOffer e s) = w.island s := fun w => island_of rfl w
    rw [ci, ci, mi, mi] at c
    -- an entry of the offered consumer stands in island `i`
    have same : ∀ w ∈ s.resv.queue, w.isOf e.station e.consumer = true → w = e := by
      intro w hw hwo
      exact eq_of_pairwise Entry.same_comm h2 hw he (by simpa [Entry.isOf, Entry.same] using hwo)
    by_cases yo : y.isOf e.station e.consumer = true
    · have ye := same y hy yo
      by_cases zo : z.isOf e.station e.consumer = true
      · have ze := same z hz zo
        exact hr.2 (by rw [ye, ze]; exact ⟨rfl, rfl⟩)
      · have : m z = z := by simp only [m]; rw [if_neg zo]
        rw [this] at b
        exact hn z hz b (by rw [← c, ye]; exact hi)
    · have hmy : m y = y := by simp only [m]; rw [if_neg yo]
      rw [hmy] at a
      by_cases zo : z.isOf e.station e.consumer = true
      · have ze := same z hz zo
        exact hn y hy a (by rw [c, ze]; exact hi)
      · have hmz : m z = z := by simp only [m]; rw [if_neg zo]
        rw [hmz] at b
        exact hr.1 ⟨a, b, c⟩

/-- The candidate is the best of a list that holds it: of the list or the one before. -/
theorem candidate_fold (l : List Entry) (b : Option Entry) {e : Entry}
    (h : l.foldl (fun best e => match best with | none => some e | some b => if e.before b then some e else some b) b
      = some e) : e ∈ l ∨ b = some e := by
  induction l generalizing b with
  | nil => exact Or.inr h
  | cons a l ih =>
    rw [List.foldl_cons] at h
    rcases ih _ h with hm | hb
    · exact Or.inl (List.mem_cons_of_mem _ hm)
    · cases b with
      | none => exact Or.inl (Option.some.inj hb ▸ List.mem_cons_self ..)
      | some c =>
        dsimp only at hb
        split at hb
        · exact Or.inl (Option.some.inj hb ▸ List.mem_cons_self ..)
        · exact Or.inr hb

theorem mem_entriesOf {s : State} {i : Fin 4} {st : EntryState} {e : Entry} :
    e ∈ entriesOf s i st ↔ e ∈ s.resv.queue ∧ e.state = st ∧ e.island s = some i := by
  simp [entriesOf]

/-- The candidate stands in the queue, WAITING, in its island. -/
theorem candidate_mem {s : State} {i : Fin 4} {e : Entry} (h : candidate s i = some e) :
    e ∈ s.resv.queue ∧ e.state = .waiting ∧ e.island s = some i := by
  rcases candidate_fold _ _ h with hm | hm
  · exact mem_entriesOf.1 hm
  · exact nomatch hm

theorem offeredEntry_mem {s : State} {i : Fin 4} {o : Entry} (h : offeredEntry s i = some o) :
    o ∈ s.resv.queue ∧ o.state = .offered ∧ o.island s = some i := mem_entriesOf.1 (List.mem_of_mem_head? h)

theorem offeredEntry_none {s : State} {i : Fin 4} (h : offeredEntry s i = none) :
    ∀ f ∈ s.resv.queue, f.state = .offered → f.island s ≠ some i := fun f hf ho hi => by
  have : f ∈ entriesOf s i .offered := mem_entriesOf.2 ⟨hf, ho, hi⟩
  rw [offeredEntry, List.head?_eq_none_iff] at h
  rw [h] at this; exact nomatch this

theorem keeps_offerTest {i : Fin 4} {s t : State} (h : offerTest i s = some t) : Keeps s t := by
  have same (e : Entry) (u : State) (hq : QueueInv u → QueueInv (makeOffer e u)) : Keeps u (makeOffer e u) :=
    keeps_queue hq (fun _ => rfl) rfl rfl rfl rfl rfl
  unfold offerTest at h
  split at h
  · next a e ha hc =>
    obtain ⟨c1, c2, c3⟩ := candidate_mem hc
    split at h
    · next hn =>
      split at h
      · exact Option.some.inj h ▸ same e s (queueInv_makeOffer c1 c3 (offeredEntry_none hn))
      · exact nomatch h
    · next o ho =>
      split at h
      · rw [← Option.some.inj h]
        obtain ⟨o1, o2, o3⟩ := offeredEntry_mem ho
        refine ⟨(keeps_returnOffer o s).1, (keeps_returnOffer o s).2.1, (keeps_returnOffer o s).2.2.1, fun hi => ?_⟩
        let m : Entry → Entry := fun x =>
          if x.isOf o.station o.consumer then { x with state := .waiting, remaining := (settings s).waitLimit * 1000 } else x
        have hq : (returnOffer o s).resv.queue = s.resv.queue.map m := rfl
        have hp : (returnOffer o s).plant.partition = s.plant.partition := rfl
        have em : m e ∈ (returnOffer o s).resv.queue := hq ▸ List.mem_map_of_mem c1
        have mi : ∀ y, (m y).island s = y.island s := by intro y; simp only [m]; split <;> rfl
        have hs : e.same o → e = o := eq_of_pairwise Entry.same_comm hi.1.2.1 c1 o1
        have hme : m e = e := by
          simp only [m]; split
          · next hio =>
            have := hs (by simpa [Entry.isOf, Entry.same] using hio)
            rw [this, o2] at c2; exact nomatch c2
          · rfl
        rw [hme] at em
        refine queueInv_makeOffer em (i := i) ((island_of hp e).trans c3) ?_ ((keeps_returnOffer o s).2.2.2 hi)
        intro f hf hfo hfi
        rw [hq] at hf
        obtain ⟨g, hg, rfl⟩ := List.mem_map.1 hf
        rw [island_of hp, mi] at hfi
        by_cases go : g.isOf o.station o.consumer = true
        · simp only [m, if_pos go] at hfo; exact nomatch hfo
        · have hmg : m g = g := by simp only [m]; rw [if_neg go]
          rw [hmg] at hfo
          have hgo : g = o := eq_of_pairwise Entry.rivals_comm hi.1.2.2 hg o1 ⟨hfo, o2, hfi.trans o3.symm⟩
          exact go (by rw [hgo]; simp [Entry.isOf])
      · exact nomatch h
  · exact nomatch h

theorem keeps_seeWanted (i : Fin 4) (s : State) : Keeps s (seeWanted i s) := by
  unfold seeWanted; split
  · dsimp only; split
    · exact (keeps_notify _ _ _ s).trans (keeps_of (fun _ => rfl) rfl rfl rfl rfl rfl rfl)
    · exact keeps_of (fun _ => rfl) rfl rfl rfl rfl rfl rfl
  · exact Keeps.refl s

theorem keeps_reUpdate (i : Fin 4) (s : State) : Keeps s (reUpdate i s) :=
  (keeps_recompute _ s).trans
    ((keeps_abortUnloads i _).trans ((keeps_shedUpdate false i _).trans (keeps_seeWanted i _)))

theorem keeps_arbiterUpdate (i : Fin 4) (s : State) : Keeps s (arbiterUpdate i s) := by
  unfold arbiterUpdate
  dsimp only
  split
  · split
    · next h => exact (keeps_seeWanted i s).trans ((keeps_offerTest h).trans (keeps_reUpdate i _))
    · exact keeps_seeWanted i s
  · exact keeps_seeWanted i s

/-! ### The account update -/

theorem keeps_eachIsland {f : Fin 4 → State → State} (h : ∀ i t, Keeps t (f i t)) (is : List (Fin 4)) (s : State) :
    Keeps s (eachIsland is f s) := keeps_foldl (fun t i => h i t) is s

theorem keeps_handOn (scan : Bool) (b : State) (is : List (Fin 4)) (s : State) : Keeps s (handOn scan b is s) :=
  (keeps_eachIsland keeps_abortUnloads is s).trans
    ((keeps_eachIsland (keeps_blackoutIfDead b) is _).trans
      ((keeps_eachIsland (keeps_shedUpdate scan) is _).trans (keeps_eachIsland keeps_arbiterUpdate is _)))

/-- An account update and all it hands on keep the four laws. -/
theorem keeps_accountUpdate (scan : Bool) (b : State) (is : List (Fin 4)) (s : State) :
    Keeps s (accountUpdate scan b is s) := (keeps_recompute is s).trans (keeps_handOn scan b is _)

theorem keeps_updateAt (b : State) (x : Fin 4) (s : State) : Keeps s (updateAt b x s) := by
  unfold updateAt; split
  · exact keeps_accountUpdate false b _ s
  · exact Keeps.refl s

theorem keeps_updateSetIsland (b : State) (g : Fin 8) (s : State) : Keeps s (updateSetIsland b g s) :=
  keeps_updateAt b _ s

theorem keeps_lossWithdraw (i : Fin 4) (s : State) : Keeps s (lossWithdraw i s) := by
  unfold lossWithdraw; split
  · split
    · exact (keeps_returnOffers _ s).trans (keeps_recompute _ _)
    · exact Keeps.refl s
  · exact Keeps.refl s

end Sys2Proof.Machine
end

