-- ==== Sys2Proof/Laws/Commands.lean ====
section
/-! SUPPORT. Every operation of a command keeps the laws of `Safety` on biases, SHED outputs, the partition and the
reservation queue. -/

namespace Sys2Proof.Machine

/-- A change of the images and of the operating state that does not reach RUNNING. -/
theorem keeps_start {s t : State} (hb : ∀ g : Fin 8, t.biasOut g = s.biasOut g) (hi : ImagesOk s → ImagesOk t)
    (hr : t.running = true → s.running = true) (hg : t.shed.groups = s.shed.groups)
    (hp : t.plant.partition = s.plant.partition) (hn : t.plant.generation = s.plant.generation)
    (hq : t.resv.queue = s.resv.queue) : Keeps s t := by
  refine ⟨fun h => ⟨fun g => ?_, hi h.2⟩, fun h => ⟨fun r g => ?_, fun g => ?_⟩, partitionLaw_of hp hn, queueInv_of hp hq⟩
  · rw [hb]; exact h.1 g
  · have := h.1 (hr r) g
    simpa [State.shedOut, hg] using this
  · rw [hg]; exact h.2 g

theorem keeps_elapse (n : Nat) (s : State) : Keeps s (elapse n s) := by
  have hq : ∃ f : Entry → Entry, (elapse n s).resv.queue = s.resv.queue.map f ∧
      ∀ e, (f e).station = e.station ∧ (f e).consumer = e.consumer ∧ (f e).sect = e.sect ∧ (f e).state = e.state := by
    unfold elapse; split
    · exact ⟨_, rfl, fun _ => ⟨rfl, rfl, rfl, rfl⟩⟩
    · exact ⟨id, (List.map_id _).symm, fun _ => ⟨rfl, rfl, rfl, rfl⟩⟩
  obtain ⟨f, hf, he⟩ := hq
  refine ⟨biasInv_of (fun g => elapse_bias n s g) (elapse_conf n s) (elapse_start n s), fun h => ⟨fun r g => ?_, fun g => ?_⟩,
    partitionLaw_of (elapse_partition n s) (elapse_generation n s), fun h => ?_⟩
  · have := h.1 (by simpa [State.running] using r) g
    show (elapse n s).shed.groups[g].out = _
    rw [(elapse_group n s g).2.2.1, (elapse_group n s g).1]; exact this
  · rw [(elapse_group n s g).2.2.2, (elapse_group n s g).1]; exact h.2 g
  · have := queueInv_map (f := f) (fun e => ⟨(he e).1, (he e).2.1, (he e).2.2.1⟩) (fun e hs => (he e).2.2.2 ▸ hs) h
    exact queueInv_of (s := { s with resv.queue := s.resv.queue.map f }) (elapse_partition n s) hf this

theorem keeps_onExpiry {act : State → State} (h : ∀ t, Keeps t (act t)) (t : Timer) (s : State) :
    Keeps s (onExpiry t s act) := by
  cases t with
  | none => exact Keeps.refl s
  | some n => exact (keeps_elapse n s).trans (h _)

theorem keeps_setFilter (i : PlantInput) (f : Filter) (s : State) : Keeps s (setFilter i f s) :=
  keeps_of (fun g => by simp [State.biasOut]) (setFilter_conf i f s) (setFilter_start i f s) (by simp) (by simp) (by simp)
    (by simp)

/-! ### Sets and requests -/

theorem keeps_releaseObj (o : SyncObj) (s : State) : Keeps s (releaseObj o s) := by
  unfold releaseObj; split
  · split
    · exact (keeps_updSet _ _ s).trans (keeps_park _ _)
    · exact Keeps.refl s
  · exact Keeps.refl s

theorem keeps_syncDone (s : State) : Keeps s (syncDone s) := by
  unfold syncDone; split
  · exact Keeps.trans (t := endRequest s) (keeps_of (fun _ => rfl) rfl rfl rfl rfl rfl rfl) (keeps_notify _ _ _ _)
  · exact Keeps.refl s

theorem keeps_syncAbort (c : AbortCause) (s : State) : Keeps s (syncAbort c s) := by
  unfold syncAbort; split
  · exact Keeps.trans (t := { endRequest s with sync.lastAbort := some c })
      (keeps_of (fun _ => rfl) rfl rfl rfl rfl rfl rfl) ((keeps_releaseObj _ _).trans (keeps_notify _ _ _ _))
  · exact Keeps.refl s

theorem keeps_setSetState (g : Fin 8) (st : SetState) (s : State) : Keeps s (setSetState g st s) := keeps_updSet g _ s

theorem keeps_setLoss (g : Fin 8) (st : SetState) (k : NoticeKind) (v : Option Int) (s : State) :
    Keeps s (setLoss g st k v s) := by
  have h : Keeps s (park g (notify k (some g.val) v (setSetState g st s))) :=
    (keeps_setSetState g st s).trans ((keeps_notify k (some g.val) v _).trans (keeps_park _ _))
  unfold setLoss
  dsimp only
  split
  · exact h.trans ((keeps_recompute _ _).trans ((keeps_fastShed _ _ _).trans
      ((keeps_lossWithdraw _ _).trans (keeps_handOn _ _ _ _))))
  · exact h

theorem keeps_manualClose (g : Fin 8) (s : State) : Keeps s (manualClose g s) :=
  (keeps_toOnline g _ s).trans ((keeps_notify _ _ _ _).trans (keeps_updateSetIsland _ g _))

theorem keeps_breakerClosed (g : Fin 8) (s : State) : Keeps s (breakerClosed g s) := by
  unfold breakerClosed; split
  · exact keeps_manualClose g s
  · split
    · split
      · exact ((keeps_toOnline g 1 s).trans (keeps_updateSetIsland s g _)).trans (keeps_syncDone _)
      · exact (keeps_manualClose g s).trans (keeps_syncAbort _ _)
    · exact keeps_manualClose g s
  · exact keeps_notify _ _ _ _
  · exact Keeps.refl s
  · exact Keeps.refl s

theorem keeps_breakerOpened (g : Fin 8) (s : State) : Keeps s (breakerOpened g s) := by
  unfold breakerOpened; split
  · split
    · exact (keeps_setSetState g .offline s).trans
        ((keeps_notify _ _ _ _).trans ((keeps_park g _).trans (keeps_updateSetIsland s g _)))
    · exact keeps_setLoss _ _ _ _ _
  · exact keeps_setLoss _ _ _ _ _
  · exact Keeps.refl s
  · exact Keeps.refl s
  · exact Keeps.refl s

theorem keeps_tripActive (g : Fin 8) (s : State) : Keeps s (tripActive g s) := by
  unfold tripActive; split
  · exact keeps_setLoss _ _ _ _ _
  · exact keeps_setLoss _ _ _ _ _
  · have h : Keeps s (park g (notify .setTripped (some g.val) (some 0) (setSetState g .tripped s))) :=
      (keeps_setSetState g .tripped s).trans ((keeps_notify _ _ _ _).trans (keeps_park _ _))
    dsimp only; split
    · exact h.trans (keeps_syncAbort _ _)
    · exact h
  · exact (keeps_setSetState g .tripped s).trans (keeps_notify _ _ _ _)
  · exact Keeps.refl s

/-! ### Partition changes -/

/-- `n` ties up the ring from `x` all join, for a given set of joining ties. -/
def arcOf (j : Fin 4 → Bool) (x : Fin 4) : Nat → Bool
  | 0 => true
  | n + 1 => j x && arcOf j (x + 1) n

/-- The lowest section that a chain of joining ties connects to `x`. -/
def lowestOf (j : Fin 4 → Bool) (x : Fin 4) : Fin 4 :=
  (four.find? fun y => arcOf j x (y - x).val || arcOf j y (x - y).val).getD x

theorem arcJoined_eq (s : State) (x : Fin 4) (n : Nat) : arcJoined s x n = arcOf (tieJoins s) x n := by
  induction n generalizing x with
  | zero => rfl
  | succ n ih => simp only [arcJoined, arcOf, ih]

theorem computePartition_get (s : State) (x : Fin 4) : (computePartition s)[x] = lowestOf (tieJoins s) x := by
  simp only [computePartition, Fin.getElem_fin, Vector.getElem_ofFn, lowestConnected, connected, arcJoined_eq, lowestOf]

/-- 01 R17, over the sixteen sets of joining ties: an island is numbered by its lowest section. -/
theorem lowestOf_law : ∀ (j : Fin 4 → Bool) (x : Fin 4), lowestOf j x ≤ x ∧ lowestOf j (lowestOf j x) = lowestOf j x := by
  decide +kernel

theorem computePartition_law (s : State) (x : Fin 4) :
    (computePartition s)[x] ≤ x ∧ (computePartition s)[(computePartition s)[x]] = (computePartition s)[x] := by
  have h := lowestOf_law (tieJoins s) x
  have e := computePartition_get s
  refine ⟨by rw [e x]; exact h.1, (e _).trans ?_⟩
  rw [e x]; exact h.2

theorem keeps_syncTopology (c : Option (Fin 4)) (moved : Fin 4 → Bool) (s : State) : Keeps s (syncTopology c moved s) := by
  unfold syncTopology; split
  · split
    · split
      · split
        · exact keeps_syncDone s
        · exact keeps_syncAbort _ s
      · exact keeps_syncAbort _ s
    · exact Keeps.refl s
  · exact Keeps.refl s

/-- A partition taken over, with every law but that of the queue. -/
theorem queueInv_offerless {t : State} (hq : t.resv.queue.length ≤ Config.queueCap)
    (hs : t.resv.queue.Pairwise fun e f => ¬ e.same f) (ho : ∀ e ∈ t.resv.queue, e.state ≠ .offered) : QueueInv t :=
  ⟨⟨hq, hs, (List.pairwise_iff_forall_sublist.2 fun {_ _} h hr => ho _ (h.subset (List.mem_cons_self ..)) hr.1)⟩,
    fun _ => ho⟩

/-- An entry still OFFERED after offers were withdrawn is none of those withdrawn. -/
theorem returnOffers_offered (es : List Entry) (s : State) {e : Entry} (he : e ∈ (returnOffers es s).resv.queue)
    (ho : e.state = .offered) : e ∈ s.resv.queue ∧ ∀ o ∈ es, e.isOf o.station o.consumer = false := by
  induction es generalizing s with
  | nil => exact ⟨he, nofun⟩
  | cons o es ih =>
    obtain ⟨h1, h2⟩ := ih (returnOffer o s) he
    obtain ⟨e', hm, rfl⟩ := List.mem_map.1 (show e ∈ s.resv.queue.map _ from h1)
    split at ho
    · exact nomatch ho
    · next hn =>
      rw [if_neg hn] at h2 ⊢
      exact ⟨hm, fun a ha => (List.mem_cons.1 ha).elim (fun h => by rw [h]; simpa using hn) (h2 a)⟩

theorem returnOffers_all (s : State) (p : Entry → Bool) (hp : ∀ e, e.state = .offered → p e = true) {e : Entry}
    (he : e ∈ (returnOffers (s.resv.queue.filter p) s).resv.queue) : e.state ≠ .offered := fun ho => by
  obtain ⟨h1, h2⟩ := returnOffers_offered _ s he ho
  have := h2 e (List.mem_filter.2 ⟨h1, hp e ho⟩)
  simp [Entry.isOf] at this

theorem returnOffers_shed (es : List Entry) (s : State) : (returnOffers es s).shed = s.shed :=
  foldl_same (·.shed) (f := fun t e => returnOffer e t) (fun _ _ => rfl) es s

theorem keeps_partitionChange (c : Option (Fin 4)) (p : Vector (Fin 4) 4) (s : State) :
    Keeps s (partitionChange c p (computePartition s) s) := by
  unfold partitionChange
  extract_lets _ s1 s2 _ s3 s4
  have hs1 : QueueLaw s → QueueInv s4 := fun h => by
    refine queueInv_offerless ?_ ?_ (fun e he => returnOffers_all s3 (fun e => decide (e.state = .offered)) (fun e h => by simpa using h) he)
    · have : (s4.resv.queue).length = s.resv.queue.length :=
        foldl_same (fun t => t.resv.queue.length) (f := fun t e => returnOffer e t) (fun t e => by simp [returnOffer, answer, updEntry]) _ s3
      rw [this]; exact h.1
    · have := foldl_inv (P := fun t : State => t.resv.queue.Pairwise fun e f => ¬ e.same f)
        (f := fun t e => returnOffer e t) (fun t e ht => by
          refine List.pairwise_map.2 (ht.imp fun {a b} hr hn => hr ?_)
          constructor
          · have := hn.1; split at this <;> split at this <;> exact this
          · have := hn.2; split at this <;> split at this <;> exact this)
        (s3.resv.queue.filter fun e => decide (e.state = .offered)) s3 h.2.1
      exact this
  obtain ⟨f1, ⟨f2, f3, f4⟩, f5, ⟨f6, f7, f8, f9, f10⟩, f11, _⟩ :=
    (updates_returnOffers (s3.resv.queue.filter fun e => decide (e.state = .offered)) s3).1
  have h4 : Keeps s s4 :=
    ⟨biasInv_of (fun g => (f11 g).1) f10 f9, shedInv_of (by rw [f9]; rfl) (by rw [returnOffers_shed]; rfl),
      fun h => ⟨by rw [f3]; exact Nat.lt_succ_iff.1 (Nat.mod_lt _ (by decide)), fun q hq x => by
        rw [f2] at hq
        rw [← Option.some.inj (show some (computePartition s) = some q from hq)]
        exact computePartition_law s x⟩,
      fun h => hs1 h.1⟩
  exact h4.trans ((keeps_syncTopology c _ _).trans (keeps_accountUpdate _ _ _ _))

theorem keeps_syncTie (t : Fin 4) (s : State) : Keeps s (syncTie t s) := by
  unfold syncTie; split
  · split
    · split
      · exact keeps_syncDone s
      · exact keeps_syncAbort _ s
    · exact Keeps.refl s
  · exact Keeps.refl s

theorem keeps_tieChanged (t : Fin 4) (s : State) : Keeps s (tieChanged t s) := by
  unfold tieChanged; split
  · split
    · split
      · exact keeps_syncTie t s
      · exact keeps_partitionChange _ _ s
    · exact Keeps.refl s
  · exact Keeps.refl s

/-- A first partition taken over: no entry is OFFERED without one. -/
theorem keeps_partition (s : State) (h : s.plant.partition = none) :
    Keeps s { s with plant.partition := some (computePartition s) } :=
  ⟨biasInv_of (fun _ => rfl) rfl rfl, shedInv_of rfl rfl,
    fun k => ⟨k.1, fun q hq x => by rw [← Option.some.inj hq]; exact computePartition_law s x⟩,
    fun k => queueInv_offerless k.1.1 k.1.2.1 (k.2 h)⟩

theorem keeps_firstPartition (s : State) : Keeps s (firstPartition s) := by
  unfold firstPartition; split
  · next h => exact (keeps_partition s h.2.1).trans (keeps_recompute _ _)
  · exact Keeps.refl s

/-! ### Inputs -/

theorem keeps_inputSettled (i : PlantInput) (b : Bool) (s : State) : Keeps s (inputSettled i b s) := by
  unfold inputSettled; split
  · split
    · exact keeps_updSet _ _ s
    · exact Keeps.refl s
  · exact keeps_firstPartition s
  all_goals exact Keeps.refl s

theorem keeps_tripChanged (g : Fin 8) (b : Bool) (s : State) : Keeps s (tripChanged g b s) := by
  unfold tripChanged; split
  · dsimp only; split
    · split
      · exact Keeps.refl s
      · split
        · exact (keeps_updSet g _ s).trans (keeps_tripActive g _)
        · exact keeps_updSet g _ s
    · split
      · split
        · exact (keeps_updSet g _ s).trans (keeps_notify _ _ _ _)
        · exact keeps_updSet g _ s
      · exact Keeps.refl s
  · exact Keeps.refl s

/-- What the groups named by a confirm input are: in the state asked for. -/
theorem groupsNaming_state {s : State} {c : Fin 16} {st : GroupState} {g : Fin 32} (h : g ∈ groupsNaming s c st) :
    s.shed.groups[g].state = st := by
  have := (List.mem_filter.1 h).2
  simp only [Bool.and_eq_true, decide_eq_true_eq] at this
  exact this.2

theorem keeps_confirmChanged (c : Fin 16) (b : Bool) (s : State) : Keeps s (confirmChanged c b s) := by
  unfold confirmChanged; split
  · split
    · refine Keeps.trans ?_ (keeps_foldl (fun t g => keeps_testGatesOf g t) _ _)
      -- each group stays one of SHED_PENDING or SHED all along
      have h : ∀ (gs : List (Fin 32)) (t : State), (∀ g ∈ gs, (t.shed.groups[g].state).isShed = true) →
          Keeps t (gs.foldl (fun t g => updGroup g (fun r => { r with state := .shed, confirm := none }) t) t) := by
        intro gs
        induction gs with
        | nil => exact fun t _ => Keeps.refl t
        | cons g gs ih =>
          intro t ht
          rw [List.foldl_cons]
          refine Keeps.trans (t := updGroup g (fun r => { r with state := .shed, confirm := none }) t) (keeps_groups (fun h => ?_) (fun _ => rfl) rfl rfl rfl rfl rfl) (ih _ fun j hj => ?_)
          · refine ⟨fun hr j => ?_, fun j => ?_⟩
            · have := h.1 hr j
              simp only [State.shedOut, updGroup] at this ⊢
              rw [get_upd]; split
              · next e => subst e; rw [this, ht g (List.mem_cons_self ..)]; rfl
              · exact this
            · show ((upd t.shed.groups g _)[j]).confirm.isSome = true → ((upd t.shed.groups g _)[j]).state = .shedPending
              rw [get_upd]; split
              · exact nofun
              · exact h.2 j
          · show ((upd t.shed.groups g _)[j]).state.isShed = true
            rw [get_upd]; split
            · rfl
            · exact ht j (List.mem_cons_of_mem _ hj)
      exact h _ s fun g hg => by rw [groupsNaming_state hg]; rfl
    · exact keeps_foldl (fun t g => keeps_notify _ _ _ t) _ s
  · exact Keeps.refl s

theorem keeps_inputChanged (i : PlantInput) (b : Bool) (s : State) : Keeps s (inputChanged i b s) := by
  unfold inputChanged; split
  · unfold breakerChanged; split
    · split
      · exact keeps_breakerClosed _ s
      · exact keeps_breakerOpened _ s
    · exact Keeps.refl s
  · unfold readyChanged; split
    · split
      · exact keeps_syncAbort _ s
      · exact Keeps.refl s
    · exact Keeps.refl s
  · exact keeps_tieChanged _ s
  · exact keeps_tripChanged _ _ s
  · exact keeps_confirmChanged _ _ s

theorem keeps_filterExpires (i : PlantInput) (s : State) : Keeps s (filterExpires i s) := by
  unfold filterExpires; dsimp only; split
  · exact (keeps_setFilter _ _ s).trans (keeps_inputSettled _ _ _)
  · split
    · exact keeps_setFilter _ _ s
    · exact (keeps_setFilter _ _ s).trans (keeps_inputChanged _ _ _)

/-! ### The Scanner -/

theorem keeps_freqNotice (x : Fin 4) (n : Int) (c d : SectChan) (s : State) : Keeps s (freqNotice x n c d s) := by
  unfold freqNotice; split
  · exact keeps_notify _ _ _ s
  · split
    · exact keeps_notify _ _ _ s
    · exact Keeps.refl s

theorem keeps_kwNotices (g : Fin 8) (fs : Nat) (c d : KwChan) (s : State) : Keeps s (kwNotices g fs c d s) := by
  unfold kwNotices
  extract_lets s1
  have h1 : Keeps s s1 := by
    show Keeps s (if _ then _ else if _ then _ else _)
    split
    · exact keeps_notify _ _ _ s
    · split
      · exact keeps_notify _ _ _ s
      · exact Keeps.refl s
  split
  · exact h1.trans (keeps_notify _ _ _ s1)
  · exact h1

/-- A change of the Scanner and of the frequencies alone. -/
theorem keeps_scan (s : State) (c : Scan) : Keeps s { s with scan := c } :=
  keeps_of (fun _ => rfl) rfl rfl rfl rfl rfl rfl

theorem keeps_freq (s : State) (f : Vector (Option Nat) 4) : Keeps s { s with plant.freq := f } :=
  keeps_of (fun _ => rfl) rfl rfl rfl rfl rfl rfl

theorem keeps_setSect (x : Fin 4) (n : Int) (d : SectChan) (s : State) : Keeps s (setSect x n d s) := by
  unfold setSect
  extract_lets c _ s1 _ s2
  have h1 : Keeps s s1 := keeps_scan s _
  have h2 : Keeps s1 s2 := keeps_freq s1 _
  split
  · exact h1
  · exact h1.trans (h2.trans ((keeps_freqNotice _ _ _ _ _).trans (keeps_updateAt _ _ _)))

theorem keeps_referenceLost (s : State) : Keeps s (referenceLost s) := by
  unfold referenceLost; split
  · split
    · exact keeps_syncAbort _ s
    · exact Keeps.refl s
  · exact Keeps.refl s

theorem keeps_setRef (d : SyncChan) (s : State) : Keeps s (setRef d s) := by
  unfold setRef
  extract_lets _ s1
  have h1 : Keeps s s1 := keeps_scan s _
  split
  · exact h1.trans (keeps_referenceLost _)
  · exact h1

/-- The count of completions an adoption waits for is no part of a law. -/
theorem keeps_adoptWait (s : State) (n : Option Nat) : Keeps s { s with start.adoptWait := n } :=
  keeps_start (fun _ => rfl) id id rfl rfl rfl rfl

theorem keeps_scanRound (smp : Samples) (s : State) : Keeps s (scanRound smp s) := by
  unfold scanRound
  extract_lets _ s1 s2 _ s3 s4
  have h1 : Keeps s s1 :=
    (keeps_adoptWait s (s.start.adoptWait.map (· - 1))).trans (keeps_scan _ (scanAfter s smp))
  have h2 : Keeps s1 s2 := (keeps_foldl (fun t g => keeps_kwNotices g _ _ _ t) _ _).trans
    (keeps_foldl (fun t x => keeps_freqNotice x 3 _ _ t) _ _)
  have h3 : Keeps s2 s3 := keeps_freq s2 _
  have h4 : Keeps s s4 := h1.trans (h2.trans (h3.trans (keeps_accountUpdate _ _ _ _)))
  split
  · exact h4.trans (keeps_referenceLost _)
  · exact h4

/-! ### Sharing and synchronising -/

theorem keeps_applyStep (g : Fin 8) (n : Int) (s : State) : Keeps s (applyStep g n s) := by
  unfold applyStep
  extract_lets r b s1 s2
  have h1 : Keeps s s1 := keeps_updShare fun _ => ⟨by show (-1000 : Int) ≤ 1000; decide, Int.le_refl _⟩
  have h2 : Keeps s s2 := keeps_updShare fun _ => ⟨Int.le_refl _, by show (-1000 : Int) ≤ 1000; decide⟩
  split
  · split
    · exact h1.trans (keeps_notify _ _ _ _)
    · exact h1
  · split
    · split
      · exact h2.trans (keeps_notify _ _ _ _)
      · exact h2
    · next hu hd => exact keeps_updShare fun _ => ⟨Int.not_lt.1 hd, Int.not_lt.1 hu⟩

/-- A fold of changes of sharing records that leave the biases. -/
theorem keeps_updShares (f : Fin 8 → ShareRt → ShareRt) (hf : ∀ g r, (f g r).bias = r.bias) (l : List (Fin 8)) (s : State) :
    Keeps s (l.foldl (fun t g => updShare g (f g) t) s) :=
  keeps_foldl (fun _ g => keeps_updShare_same (f := f g) (hf g)) l s

theorem keeps_passIsland (i : Fin 4) (s : State) : Keeps s (passIsland i s) := by
  unfold passIsland; split
  · split
    · exact Keeps.refl s
    · extract_lets n on s1 f s2
      have h1 : Keeps s s1 := keeps_updShares (fun _ x => { x with k := min x.k n }) (fun _ _ => rfl) on s
      have h2 : Keeps s1 s2 := keeps_foldl (fun t g => by
        split
        · exact keeps_applyStep g _ t
        · exact Keeps.refl t) on s1
      exact h1.trans (h2.trans (keeps_updShares (fun g x => { x with k := rampNext s1 n g }) (fun _ _ => rfl) on s2))
  · exact Keeps.refl s

theorem keeps_period (s : State) (n : Timer) : Keeps s { s with share.period := n } :=
  keeps_of (fun _ => rfl) rfl rfl rfl rfl rfl rfl

theorem keeps_sharingPass (s : State) : Keeps s (sharingPass s) := by
  have h (u t : State) (g : Fin 8) : Keeps t (if opensNow u g then openSet g t else t) := by
    split
    · exact keeps_updShare_same fun _ => rfl
    · exact Keeps.refl t
  unfold sharingPass eachIsland
  extract_lets _ s1 s2
  have h1 : Keeps s s1 := keeps_period s _
  exact h1.trans (Keeps.trans (t := s2) (keeps_foldl (fun t i => keeps_passIsland i t) four s1) (keeps_foldl (h s2) eight s2))

theorem keeps_unloadFails (g : Fin 8) (s : State) : Keeps s (unloadFails g s) := by
  unfold unloadFails; split
  · extract_lets s1
    have h1 : Keeps s s1 := (keeps_toOnline g _ s).trans (keeps_updateSetIsland s g _)
    exact h1.trans ((keeps_updShare_same (f := fun x => { x with openPulse := none }) fun _ => rfl).trans
      (keeps_notify _ _ _ _))
  · exact keeps_updShare_same fun _ => rfl

theorem keeps_sync (s : State) (y : Sync) : Keeps s { s with sync := y } :=
  keeps_of (fun _ => rfl) rfl rfl rfl rfl rfl rfl

theorem keeps_updReq (f : SyncReq → SyncReq) (s : State) : Keeps s (updReq f s) := keeps_sync s _

theorem keeps_settleEnd (s : State) : Keeps s (settleEnd s) := by
  unfold settleEnd; split
  · extract_lets _ s1
    have h1 : Keeps s s1 := (keeps_scan s _).trans (keeps_updReq _ _)
    split
    · exact h1.trans (keeps_updReq _ _)
    · exact h1.trans (keeps_updReq _ _)
    · exact h1.trans (keeps_syncAbort _ _)
  · exact Keeps.refl s

theorem keeps_lockNotice (n : Nat) (e : Edges) (a b : Bool) (s : State) : Keeps s (lockNotice n e a b s) := by
  unfold lockNotice; split
  · exact keeps_notify _ _ _ s
  · exact Keeps.refl s

theorem clamp_range {lo hi : Int} (h : lo ≤ hi) (x : Int) : lo ≤ clamp lo hi x ∧ clamp lo hi x ≤ hi :=
  ⟨le_min h (le_max_left _ _), min_le_left _ _⟩

theorem keeps_speedMatch (r : SyncReq) (s : State) : Keeps s (speedMatch r s) := by
  unfold speedMatch; split
  · exact keeps_updShare fun _ => clamp_range (by decide) _
  · exact keeps_sync s _

theorem keeps_syncPass (s : State) : Keeps s (syncPass s) := by
  unfold syncPass; split
  · extract_lets r1 _ s1 s2
    have h2 : Keeps s s2 := (keeps_sync s _).trans ((keeps_lockNotice 0 _ _ _ _).trans (keeps_lockNotice 1 _ _ _ _))
    split
    · exact h2.trans (keeps_speedMatch _ _)
    · exact h2
  · exact Keeps.refl s

/-! ### Groups -/

theorem keeps_confirmFails {g : Fin 32} {s : State} (h : s.shed.groups[g].confirm.isSome = true) :
    Keeps s (confirmFails g s) := by
  unfold confirmFails; extract_lets c s1 s2
  have h1 : Keeps s (updGroup g (fun r => { r with state := .shedFailed, confirm := none }) s) := by
    refine keeps_groups (fun hi => ⟨fun hr j => ?_, fun j => ?_⟩) (fun _ => rfl) rfl rfl rfl rfl rfl
    · have := hi.1 hr j
      simp only [State.shedOut, updGroup] at this ⊢
      rw [get_upd]; split
      · next e => subst e; rw [this, hi.2 g h]; rfl
      · exact this
    · show ((upd s.shed.groups g _)[j]).confirm.isSome = true → ((upd s.shed.groups g _)[j]).state = .shedPending
      rw [get_upd]; split
      · exact nofun
      · exact hi.2 j
  have h2 : Keeps s s2 := h1.trans ((keeps_testGatesOf g _).trans (keeps_notify _ _ _ _))
  split
  · refine h2.trans ?_
    unfold makeUp; split
    · exact keeps_shedSelection _ _ _ _
    · exact Keeps.refl _
  · exact h2

theorem keeps_dwellEnds (i : Fin 4) (s : State) : Keeps s (dwellEnds i s) := by
  unfold dwellEnds; split
  · split
    · dsimp only; split
      · exact (keeps_shedAction _ _ s).trans ((keeps_notify _ _ _ _).trans (keeps_setDwell _ _ _))
      · exact (keeps_notify _ _ _ s).trans (keeps_setDwell _ _ _)
    · exact keeps_setDwell _ _ s
  · exact keeps_setDwell _ _ s

theorem keeps_restoreEnds (i : Fin 4) (s : State) : Keeps s (restoreEnds i s) := by
  unfold restoreEnds; dsimp only; split
  · split
    · exact (keeps_cancelRestore i s).trans ((keeps_connectGroup _ _).trans
        ((keeps_notify _ _ _ _).trans (keeps_startRestore _ _)))
    · exact keeps_cancelRestore i s
  · exact keeps_cancelRestore i s

/-! ### The consumer line -/

theorem keeps_removeEntry (e : Entry) (a : Answer) (s : State) : Keeps s (removeEntry e a s) :=
  (keeps_dropEntry _ _ s).trans ((keeps_answer _ _ _ _).trans (keeps_updateAt _ _ _))

theorem keeps_endEntry (x : Fin 12) (c : Fin 4) (a : Answer) (s : State) : Keeps s (endEntry x c a s) := by
  unfold endEntry; split
  · exact keeps_removeEntry _ _ s
  · exact Keeps.refl s

theorem keeps_holdEnds (x : Fin 12) (c : Fin 4) (s : State) : Keeps s (holdEnds x c s) := by
  unfold holdEnds; split
  · exact (keeps_dropEntry _ _ s).trans ((keeps_answer _ _ _ _).trans
      ((keeps_notify _ _ _ _).trans (keeps_updateAt _ _ _)))
  · exact Keeps.refl s

/-- An entry of a queue renumbered is one of the queue but for its arrival number. -/
theorem mem_renumber (n : Nat) (es : List Entry) {e : Entry} (h : e ∈ renumber n es) :
    ∃ f ∈ es, ∃ a, e = { f with arrival := a } := by
  induction es generalizing n with
  | nil => exact nomatch h
  | cons d es ih =>
    rcases List.mem_cons.1 h with rfl | h'
    · exact ⟨d, List.mem_cons_self .., n, rfl⟩
    · obtain ⟨f, hf, a, ha⟩ := ih _ h'
      exact ⟨f, List.mem_cons_of_mem _ hf, a, ha⟩

/-- A queue renumbered keeps its length and every relation that the arrival numbers do not touch. -/
theorem renumber_map (n : Nat) (es : List Entry) : (renumber n es).length = es.length ∧
    ∀ R : Entry → Entry → Prop, (∀ e f a b, R e f → R { e with arrival := a } { f with arrival := b }) →
      es.Pairwise R → (renumber n es).Pairwise R := by
  induction es generalizing n with
  | nil => exact ⟨rfl, fun _ _ h => h⟩
  | cons d es ih =>
    refine ⟨congrArg (· + 1) (ih (n + 1)).1, fun R hR h => ?_⟩
    rw [List.pairwise_cons] at h
    refine List.pairwise_cons.2 ⟨fun e he => ?_, (ih (n + 1)).2 R hR h.2⟩
    obtain ⟨f, hf, a, rfl⟩ := mem_renumber _ _ he
    exact hR d f n a (h.1 f hf)

/-- A new WAITING entry of a consumer that has none, in a queue with room. -/
theorem queueInv_enqueueEntry {e : Entry} {s : State} (hw : e.state = .waiting)
    (hl : s.resv.queue.length < Config.queueCap) (hn : findEntry s e.station e.consumer = none) (h : QueueInv s) :
    QueueInv (enqueueEntry e s) := by
  obtain ⟨⟨h1, h2, h3⟩, h4⟩ := h
  have hno : ∀ f ∈ s.resv.queue, ∀ a, ¬ f.same { e with arrival := a } := fun f hf a hs => by
    have := List.find?_eq_none.1 hn f hf
    simp only [Bool.and_eq_true, decide_eq_true_eq] at this
    exact this hs
  have q (a : Nat) : (s.resv.queue ++ [{ e with arrival := a }]).length ≤ Config.queueCap ∧
      (s.resv.queue ++ [{ e with arrival := a }]).Pairwise (fun e f : Entry => ¬ e.same f) ∧
      (s.resv.queue ++ [{ e with arrival := a }]).Pairwise (fun e f : Entry => ¬ e.rivals s f) ∧
      (s.plant.partition = none → ∀ f ∈ s.resv.queue ++ [{ e with arrival := a }], f.state ≠ .offered) := by
    refine ⟨by simpa using hl, ?_, ?_, fun hp f hf => ?_⟩
    · refine List.pairwise_append.2 ⟨h2, List.pairwise_singleton _ _, fun f hf g hg => ?_⟩
      rw [List.mem_singleton.1 hg]; exact hno f hf a
    · refine List.pairwise_append.2 ⟨h3, List.pairwise_singleton _ _, fun f hf g hg hr => ?_⟩
      rw [List.mem_singleton.1 hg] at hr
      have := hr.2.1
      simp [hw] at this
    · rcases List.mem_append.1 hf with hf | hf
      · exact h4 hp f hf
      · rw [List.mem_singleton.1 hf]; simp [hw]
  unfold enqueueEntry
  extract_lets c q'
  obtain ⟨q1, q2, q3, q4⟩ := q c
  split
  · exact ⟨⟨q1, q2, q3⟩, q4⟩
  · obtain ⟨r1, r2⟩ := renumber_map 1 q'
    refine ⟨⟨r1.trans_le q1, r2 _ (fun _ _ _ _ h => h) q2, r2 _ (fun _ _ _ _ h => h) q3⟩, fun hp f hf => ?_⟩
    obtain ⟨g, hg, a, rfl⟩ := mem_renumber _ _ hf
    exact q4 hp g hg

theorem keeps_startRequest (x : Fin 12) (c : Fin 4) (y kw lv h : Nat) (s : State) :
    Keeps s (startRequest x c y kw lv h s) := by
  unfold startRequest; split
  · exact keeps_answer _ _ _ s
  · split
    · exact keeps_answer _ _ _ s
    · next hl =>
      split
      · exact keeps_answer _ _ _ s
      · next hn =>
        split
        · next z _ =>
          split
          · have he (e : Entry) (h1 : e.station = x) (h2 : e.consumer = c) (hw : e.state = .waiting) :
                Keeps s (enqueueEntry e s) := by
              have hf : ∀ g : Fin 8, (enqueueEntry e s).biasOut g = s.biasOut g := by
                unfold enqueueEntry; dsimp only; split <;> split <;> exact fun _ => rfl
              refine keeps_queue (queueInv_enqueueEntry hw (Nat.lt_of_not_le hl) ?_) hf ?_ ?_ ?_ ?_ ?_
              · rw [h1, h2]; simpa using hn
              all_goals unfold enqueueEntry; dsimp only; split <;> split <;> rfl
            exact (he _ rfl rfl rfl).trans ((keeps_answer _ _ _ _).trans (keeps_updateAt _ _ _))
          · exact keeps_answer _ _ _ s
        · exact keeps_answer _ _ _ s

theorem keeps_acceptMessage (x : Fin 12) (c : Fin 4) (s : State) : Keeps s (acceptMessage x c s) := by
  unfold acceptMessage; split
  · exact keeps_answer _ _ _ s
  · split
    · exact (keeps_updEntry (f := fun e => { e with state := .active, remaining := e.hold * 1000 })
        (fun _ => ⟨rfl, rfl, rfl⟩) (by simp)).trans ((keeps_answer _ _ _ _).trans (keeps_updateAt _ _ _))
    · exact keeps_answer _ _ _ s
    · exact keeps_answer _ _ _ s

theorem keeps_takeMessage (x : Fin 12) (m : Message) (s : State) : Keeps s (takeMessage x m s) := by
  have h (c : Fin 4) : Keeps s (endMessage x c s) := by
    unfold endMessage; split
    · exact keeps_answer _ _ _ s
    · exact keeps_removeEntry _ _ s
  unfold takeMessage; split
  · exact Keeps.refl s
  · exact keeps_startRequest _ _ _ _ _ _ s
  · exact keeps_acceptMessage _ _ s
  · exact h _
  · exact h _

/-- A change of the stations and of the polling alone. -/
theorem keeps_line (s : State) (x : Line) : Keeps s { s with line := x } :=
  keeps_of (fun _ => rfl) rfl rfl rfl rfl rfl rfl

theorem keeps_updStation (x : Fin 12) (f : StationRt → StationRt) (s : State) : Keeps s (updStation x f s) :=
  keeps_line s _

theorem keeps_goodReply (x : Fin 12) (s : State) : Keeps s (goodReply x s) := by
  unfold goodReply
  extract_lets s1
  have h1 : Keeps s s1 := keeps_updStation x _ s
  split
  · exact h1.trans (keeps_notify _ _ _ s1)
  · exact h1

theorem keeps_dropStation (x : Fin 12) (s : State) : Keeps s (dropStation x s) := by
  unfold dropStation
  extract_lets es s1
  have h1 : Keeps s s1 := keeps_foldl (fun t e => (keeps_dropEntry _ _ t).trans (keeps_answer _ _ _ _)) es s
  exact h1.trans (keeps_accountUpdate _ _ _ _)

theorem keeps_missedReply (x : Fin 12) (s : State) : Keeps s (missedReply x s) := by
  unfold missedReply; dsimp only; split
  · exact Keeps.refl s
  · split
    · exact keeps_updStation x _ s
    · exact (keeps_updStation x _ s).trans ((keeps_notify _ _ _ _).trans (keeps_dropStation x _))

theorem keeps_inWindow {act : Fin 12 → State → State} (h : ∀ x t, Keeps t (act x t)) (s : State) :
    Keeps s (inWindow s act) := by
  unfold inWindow; split
  · exact Keeps.trans (t := { s with line.window := none }) (keeps_line s _) (h _ _)
  · exact Keeps.refl s

/-! ### Start-up -/

theorem keeps_plant (s : State) (p : Plant) (hp : p.partition = s.plant.partition) (hg : p.generation = s.plant.generation) :
    Keeps s { s with plant := p } := keeps_of (fun _ => rfl) rfl rfl rfl hp hg rfl

theorem keeps_prof (s : State) (p : Prof) : Keeps s { s with prof := p } :=
  keeps_of (fun _ => rfl) rfl rfl rfl rfl rfl rfl

theorem keeps_stateChanged (o : OpState) (ho : o ≠ .running) (s : State) : Keeps s (stateChanged o s) :=
  Keeps.trans (t := { s with start.op := o })
    (keeps_start (fun _ => rfl) id (fun h => by simp [State.running, ho] at h) rfl rfl rfl rfl) (keeps_notify _ _ _ _)

theorem keeps_startBlocks (s : State) : Keeps s (startBlocks s) :=
  Keeps.trans (t := startScanner (startFilters s))
    (Keeps.trans (t := startFilters s) (keeps_plant s _ rfl rfl) (keeps_scan _ _)) (keeps_notify _ _ _ _)

theorem parksOk_default : ParksOk Image.default := by
  intro g; simp [Image.default]

/-- An image taken over that has its park biases in range. -/
theorem keeps_takeImage (img : Image) (s : State) (h : BiasInv s → ParksOk img) : Keeps s (takeImage img s) :=
  ⟨fun k => ⟨k.1, h k, h k, k.2.2.2.1, k.2.2.2.2⟩, shedInv_of rfl rfl, partitionLaw_of rfl rfl, queueInv_of rfl rfl⟩

theorem keeps_startEntry (c : EntryCmd) (p : Fin 8) (s : State) : Keeps s (startEntry c p s) := keeps_prof s _

theorem keeps_initProfiles (s : State) : Keeps s (initProfiles s) :=
  Keeps.trans (t := { s with prof.fresh := Vector.replicate 8 true, prof.active := s.conf.base, prof.stack := [], prof.entry := none })
    (keeps_prof s _) (keeps_startEntry _ _ _)

theorem keeps_imageChecked (s : State) : Keeps s (imageChecked s) := by
  unfold imageChecked; split
  · next img hi =>
    extract_lets s1
    have h1 : Keeps s s1 := (keeps_takeImage img s fun k => k.2.2.2.2 img hi).trans
      ((keeps_startBlocks _).trans (keeps_initProfiles _))
    exact h1.trans ((keeps_adoptWait s1 (some 1)).trans (keeps_firstPartition _))
  · exact (keeps_takeImage Image.default s fun _ => parksOk_default).trans
      ((keeps_startBlocks _).trans (keeps_stateChanged _ (by decide) _))

theorem keeps_adoptPartition (s : State) : Keeps s (adoptPartition s) := by
  unfold adoptPartition; split
  · next h => exact keeps_partition s h
  · split
    · exact Keeps.refl s
    · exact keeps_partitionChange _ _ s

theorem keeps_startPolling (s : State) : Keeps s (startPolling s) := by
  unfold startPolling; split <;> exact keeps_line s _

theorem keeps_storeWritten (img : Image) (b : Bool) (s : State) (h : BiasInv s → ParksOk img) :
    Keeps s (storeWritten img b s) := by
  unfold storeWritten; split
  · extract_lets _ s1
    have h1 : Keeps s s1 := Keeps.trans
      (t := { s with start.store := .sound img, start.storeOp := none, start.lastStore := some .stored })
      ⟨fun k => ⟨k.1, k.2.1, k.2.2.1, nofun, fun i hi => by cases hi; exact h k⟩, shedInv_of rfl rfl,
        partitionLaw_of rfl rfl, queueInv_of rfl rfl⟩ (keeps_notify _ _ _ _)
    split
    · exact h1.trans (keeps_stateChanged _ (by decide) _)
    · exact h1
  · have h1 : Keeps s { s with start.store := .broken, start.storeOp := none, start.lastStore := some .failed } :=
      ⟨fun k => ⟨k.1, k.2.1, k.2.2.1, (by intro i hi; cases hi), (by intro i hi; cases hi)⟩, shedInv_of rfl rfl,
        partitionLaw_of rfl rfl, queueInv_of rfl rfl⟩
    exact h1.trans (keeps_notify _ _ _ _)

theorem keeps_commit (s : State) : Keeps s (commit s) := by
  unfold commit; split
  · exact Keeps.trans (t := { s with start.lastStore := some .failed })
      (keeps_start (fun _ => rfl) id id rfl rfl rfl rfl) (keeps_notify _ _ _ _)
  · exact ⟨fun k => ⟨k.1, k.2.1, k.2.2.1, fun i hi => by cases hi; exact k.2.2.1, k.2.2.2.2⟩, shedInv_of rfl rfl,
      partitionLaw_of rfl rfl, queueInv_of rfl rfl⟩

theorem keeps_removeAll (keep : Entry → Bool) (a : Answer) (s : State) : Keeps s (removeAll keep a s) := by
  unfold removeAll
  extract_lets s1
  have h : Keeps s s1 := keeps_foldl (fun t e => keeps_answer _ _ a t) _ s
  exact h.trans (keeps_filter s1 keep)

theorem keeps_holdSync (s : State) : Keeps s (holdSync s) := by
  unfold holdSync; split
  · split
    · exact Keeps.refl _
    · exact keeps_syncAbort _ _
  · exact Keeps.refl _

theorem keeps_timers (s : State) (d : Vector Dwell 4) (r : Vector Timer 4) :
    Keeps s { s with shed.dwell := d, shed.restore := r } := keeps_of (fun _ => rfl) rfl rfl rfl rfl rfl rfl

theorem stopConfirms_group (s : State) (g : Fin 32) :
    (stopConfirms s).shed.groups[g] = { s.shed.groups[g] with confirm := none } := by
  unfold stopConfirms; simp only [get_tab]

theorem keeps_stopConfirms (s : State) : Keeps s (stopConfirms s) :=
  keeps_groups
    (fun h => ⟨fun hr g => by
      have := h.1 ((running_of (stopConfirms_start s)).symm.trans hr) g
      unfold State.shedOut at this ⊢
      rw [stopConfirms_group]; exact this, fun g => by rw [stopConfirms_group]; exact nofun⟩)
    (fun g => by unfold State.biasOut; rw [stopConfirms_share]) (stopConfirms_conf s) (stopConfirms_start s)
    (by rw [stopConfirms_plant]) (by rw [stopConfirms_plant]) (by rw [stopConfirms_resv])

theorem keeps_stopTimers (s : State) : Keeps s (stopTimers s) := by
  unfold stopTimers
  generalize hs1 : stopConfirms s = s1
  have h1 : Keeps s s1 := hs1 ▸ keeps_stopConfirms s
  dsimp only
  exact h1.trans ((keeps_timers s1 (Vector.replicate 4 Dwell.idle) (Vector.replicate 4 none)).trans
    (keeps_period { s1 with shed.dwell := Vector.replicate 4 Dwell.idle, shed.restore := Vector.replicate 4 none } none))

theorem keeps_holdPart (s : State) : Keeps s (holdPart s) := by
  unfold holdPart
  extract_lets s1 s2
  have h1 : Keeps s s1 := keeps_stateChanged .held (by decide) s
  have h3 : Keeps (stopTimers s1) (holdUnloads (stopTimers s1)) := keeps_foldl (fun t g => keeps_abortUnload 3 g t) _ _
  have h4 : Keeps s s2 := h1.trans ((keeps_stopTimers s1).trans (h3.trans (keeps_holdSync _)))
  exact h4.trans ((keeps_removeAll _ _ s2).trans (keeps_accountUpdate _ _ _ _))

theorem keeps_unknownStations (s : State) : Keeps s (unknownStations s) := keeps_line s _

theorem keeps_counter (s : State) (n : Nat) : Keeps s { s with resv.counter := n } :=
  keeps_of (fun _ => rfl) rfl rfl rfl rfl rfl rfl

theorem keeps_resumeLine (s : State) : Keeps s (resumeLine s) := by
  unfold resumeLine
  extract_lets s1 _ s2
  have h1 : Keeps s s1 := keeps_removeAll _ _ s
  have h2 : Keeps s1 s2 := (keeps_counter s1 1).trans (keeps_unknownStations _)
  refine (h1.trans h2).trans ?_
  rw [reaimPolling_line]
  exact keeps_line s2 _

theorem keeps_resumePlant (s : State) : Keeps s (resumePlant s) := by
  unfold resumePlant
  extract_lets n
  have h1 : Keeps s n := ⟨fun k => ⟨k.1, k.2.2.1, k.2.2⟩, shedInv_of rfl rfl, partitionLaw_of rfl rfl, queueInv_of rfl rfl⟩
  exact h1.trans (keeps_of (fun _ => rfl) rfl rfl rfl rfl rfl rfl)

theorem keeps_resumePart (s : State) : Keeps s (resumePart s) := by
  unfold resumePart
  extract_lets s1
  have h1 : Keeps s s1 := (keeps_resumePlant s).trans ((keeps_initProfiles _).trans (keeps_resumeLine _))
  exact h1.trans ((keeps_adoptWait s1 _).trans (keeps_accountUpdate _ _ _ _))

theorem keeps_jointRequest (l : Link) (c : JointCmd) (vs : List Int) (s : State) : Keeps s (jointRequest l c vs s).1 := by
  have out (t : State) : Keeps t (carryOut c t).1 := by
    cases c <;> dsimp only [carryOut]
    · exact Keeps.refl t
    · exact keeps_holdPart t
    · exact keeps_resumePart t
    · exact keeps_commit t
  have joint (j : Option Joint) : Keeps s { s with link.joint := j } := keeps_link s _
  unfold jointRequest; split
  · exact Keeps.refl s
  · split
    · unfold jointMeets; split
      · split
        · exact Keeps.refl s
        · exact (joint none).trans (out _)
      · exact (joint _).trans (keeps_notify _ _ _ _)
    · unfold jointAlone; split
      · exact (joint _).trans (keeps_notify _ _ _ _)
      · exact out s

/-! ### Requests -/

/-- A link's own state is no part of the four laws. -/
theorem keeps_updLink (l : Link) (f : LinkRt → LinkRt) (s : State) : Keeps s (updLink l f s) := keeps_link s _

theorem keeps_respond (l : Link) (r : Response) (s : State) : Keeps s (respond l r s) := keeps_updLink l _ s

theorem keeps_validFrame (l : Link) (s : State) : Keeps s (validFrame l s) := by
  unfold validFrame
  extract_lets s1 s2
  have h1 : Keeps s s1 := keeps_updLink l _ s
  have h2 : Keeps s1 s2 := keeps_notify _ _ _ s1
  split
  · exact h1
  · split
    · exact h1.trans h2
    · exact h1.trans (h2.trans (keeps_notify _ _ _ s2))

/-- A request whose owner keeps the laws keeps them. -/
theorem keeps_takeRequest {l : Link} {kind : Nat} {seq : Byte} {owner : State → State × Reply} {s : State}
    (ho : ∀ t, Keeps t (owner t).1) : Keeps s (takeRequest l kind seq owner s) := by
  unfold takeRequest
  split
  · extract_lets s1 r
    have h1 : Keeps s s1 := keeps_validFrame l s
    split
    · exact h1.trans ((ho s1).trans (keeps_respond l _ _))
    · exact h1
  · exact Keeps.refl s

theorem keeps_withFields {ws : List Width} {fields : List Byte} {owner : List Int → State → State × Reply}
    (ho : ∀ vs t, Keeps t (owner vs t).1) (t : State) : Keeps t (withFields ws fields owner t).1 :=
  withFields_ind (P := Keeps t) (fun vs u h => h.trans (ho vs u)) t (Keeps.refl t)

theorem keeps_setModeOf (vs : List Int) (s : State) : Keeps s (setModeOf vs s).1 := by
  unfold setModeOf
  repeat' split
  all_goals first
    | exact Keeps.refl s
    | exact (keeps_prof s _).trans (keeps_updateSetIsland _ _ _)

theorem keeps_setBaseOf (vs : List Int) (s : State) : Keeps s (setBaseOf vs s).1 := by
  unfold setBaseOf
  repeat' split
  all_goals exact Keeps.refl s

theorem keeps_clearTripOf (vs : List Int) (s : State) : Keeps s (clearTripOf vs s).1 := by
  unfold clearTripOf
  repeat' split
  all_goals exact Keeps.refl s

theorem keeps_unloadSet (vs : List Int) (s : State) : Keeps s (unloadSet vs s).1 := by
  unfold unloadSet
  repeat' split
  all_goals first
    | exact Keeps.refl s
    | exact Keeps.trans (keeps_setSetState _ _ s) (Keeps.trans (keeps_updShare_same (f := fun r => { r with unload := .ramping }) fun _ => rfl) (keeps_updateSetIsland _ _ _))

theorem keeps_connectSet (l : Link) (vs : List Int) (s : State) : Keeps s (connectSet l vs s).1 := by
  unfold connectSet
  repeat' split
  all_goals exact Keeps.refl s

theorem keeps_closeTie (l : Link) (vs : List Int) (s : State) : Keeps s (closeTie l vs s).1 := by
  unfold closeTie
  repeat' split
  all_goals exact Keeps.refl s

theorem keeps_cancelSync (vs : List Int) (s : State) : Keeps s (cancelSync vs s).1 := by
  unfold cancelSync
  repeat' split
  all_goals first | exact Keeps.refl s | exact keeps_syncAbort _ s

theorem keeps_groupCommand (v : Int) {own : Fin 32 → State → State × Reply} (h : ∀ g t, Keeps t (own g t).1) (s : State) :
    Keeps s (groupCommand v own s).1 := by
  unfold groupCommand
  repeat' split
  all_goals first | exact Keeps.refl s | exact h _ s

theorem keeps_shedCommand (l : Link) (g : Fin 32) (s : State) : Keeps s (shedCommand l g s).1 := by
  unfold shedCommand
  split
  all_goals first
    | exact Keeps.refl s
    | exact ((keeps_shedAction _ _ s).trans (keeps_notify _ _ _ _))

theorem keeps_restoreCommand (g : Fin 32) (s : State) : Keeps s (restoreCommand g s).1 := by
  unfold restoreCommand
  split
  all_goals first
    | exact Keeps.refl s
    | exact ((keeps_connectGroup _ s).trans (keeps_notify _ _ _ _))

/-- A group moved between the two states in which its output is released. -/
theorem keeps_inhibitMove {g : Fin 32} {st : GroupState} {s : State} (h : s.shed.groups[g].state.isShed = false)
    (hs : st.isShed = false) (v : Int) : Keeps s (inhibitMove g st v s) := by
  have h1 : Keeps s (updGroup g (fun r => { r with state := st }) s) := by
    refine keeps_groups (fun hi => ⟨fun hr j => ?_, fun j => ?_⟩) (fun _ => rfl) rfl rfl rfl rfl rfl
    · have := hi.1 hr j
      simp only [State.shedOut, updGroup] at this ⊢
      rw [get_upd]; split
      · next e => subst e; rw [this, h, ← hs]
      · exact this
    · show ((upd s.shed.groups g _)[j]).confirm.isSome = true → ((upd s.shed.groups g _)[j]).state = .shedPending
      rw [get_upd]; split
      · intro hc; rw [hi.2 g hc] at h; exact nomatch h
      · exact hi.2 j
  exact h1.trans ((keeps_notify _ _ _ _).trans (keeps_testGatesOf _ _))

theorem keeps_inhibitCommand (g : Fin 32) (s : State) : Keeps s (inhibitCommand g s).1 := by
  unfold inhibitCommand
  split
  · next h => exact keeps_inhibitMove (by rw [h]; rfl) rfl 1
  · exact Keeps.refl s

theorem keeps_releaseCommand (g : Fin 32) (s : State) : Keeps s (releaseCommand g s).1 := by
  unfold releaseCommand
  split
  · next h => exact keeps_inhibitMove (by rw [h]; rfl) rfl 0
  · exact Keeps.refl s

theorem keeps_setGroupCommand (a b : Int) (g : Fin 32) (s : State) : Keeps s (setGroupCommand a b g s).1 := by
  unfold setGroupCommand
  split
  · exact Keeps.refl s
  · extract_lets lv kw _ _ s1
    have h1 : Keeps s s1 := keeps_prof s _
    split
    · exact h1
    · exact h1.trans (keeps_testGatesOf g s1)

theorem keeps_cancelReservation (vs : List Int) (s : State) : Keeps s (cancelReservation vs s).1 := by
  unfold cancelReservation
  repeat' split
  all_goals first | exact Keeps.refl s | exact (keeps_removeEntry _ _ s)

theorem keeps_enterProfile (vs : List Int) (s : State) : Keeps s (enterProfile vs s).1 := by
  unfold enterProfile
  repeat' split
  all_goals exact Keeps.refl s

theorem keeps_pushProfile (vs : List Int) (s : State) : Keeps s (pushProfile vs s).1 := by
  unfold pushProfile
  repeat' split
  all_goals exact Keeps.refl s

theorem keeps_popProfile (vs : List Int) (s : State) : Keeps s (popProfile vs s).1 := by
  unfold popProfile
  repeat' split
  all_goals exact Keeps.refl s

theorem keeps_refreshProfile (vs : List Int) (s : State) : Keeps s (refreshProfile vs s).1 := by
  unfold refreshProfile
  repeat' split
  all_goals exact Keeps.refl s

theorem keeps_autoOffCancels (s : State) : Keeps s (autoOffCancels s) := by
  unfold autoOffCancels; split
  · exact Keeps.refl s
  · exact (keeps_cancelRestores s)

theorem keeps_settingEffects (n : Fin 16) (b s : State) : Keeps s (settingEffects n b s) := by
  unfold settingEffects
  split
  · exact (keeps_accountUpdate _ _ _ _)
  · split
    · exact keeps_autoOffCancels s
    · exact Keeps.refl s

theorem keeps_writeSetting (vs : List Int) (s : State) : Keeps s (writeSetting vs s).1 := by
  unfold writeSetting
  split
  · exact Keeps.refl s
  · split
    · exact Keeps.refl s
    · split
      · exact Keeps.refl s
      · extract_lets b w _ s1
        have h : Keeps s s1 := by
          show Keeps s (match s.prof.stack.getLast? with
            | some p => { s with prof.working := put s.prof.working p w.1 }
            | none => s)
          split
          · exact keeps_of (fun _ => rfl) rfl rfl rfl rfl rfl rfl
          · exact Keeps.refl s
        dsimp only
        split
        · exact h
        · exact h.trans (keeps_settingEffects _ _ _)

/-- A profile record written leaves the sets of every image. -/
theorem keeps_updProfile (p : Fin 8) (f : Profile → Profile) (s : State) : Keeps s (updProfile p f s) :=
  keeps_start (fun _ => rfl) id id rfl rfl rfl rfl

theorem keeps_writeProfile (fields : List Byte) (s : State) : Keeps s (writeProfile fields s).1 := by
  have w (p : Fin 8) {own : State → State × Reply} (h : Keeps s (own s).1) : Keeps s (profileWrite p own s).1 := by
    unfold profileWrite
    repeat' split
    all_goals first | exact Keeps.refl s | exact h
  have wi (p : Fin 8) (vs : List Int) : Keeps s (writeInitial p vs s).1 := by
    unfold writeInitial; dsimp only
    split
    · exact keeps_updProfile p _ s
    · exact Keeps.refl s
  have wp (p : Fin 8) (ps : List RawPatch) : Keeps s (writePatches p ps s).1 := by
    unfold writePatches
    split
    · exact keeps_updProfile p _ s
    · exact Keeps.refl s
  unfold writeProfile
  repeat' split
  all_goals first
    | exact Keeps.refl s
    | exact w _ (wi _ _)
    | exact w _ (wp _ _)

/-- An image with the same sets. -/
theorem parksOk_of {img img' : Image} (hs : img'.sets = img.sets) (h : ParksOk img) : ParksOk img' := fun g => by
  rw [hs]; exact h g

theorem parksOk_loadSet {img img' : Image} {g : Fin 8} {vs ws : List Int} (h : ParksOk img)
    (hl : loadSet img g vs = some (img', ws)) : ParksOk img' := by
  unfold loadSet at hl
  split at hl
  · dsimp only at hl
    split at hl
    · obtain ⟨rfl, _⟩ := Prod.mk.inj (Option.some.inj hl)
      exact forall_put (P := fun _ c => -1000 ≤ SetCfg.park c ∧ SetCfg.park c ≤ 1000) h (clamp_range (by decide) _)
    · exact nomatch hl
  · exact nomatch hl

/-- No record takes a park bias of an image out of its range. -/
theorem parksOk_loadFixed {img img' : Image} {kind idx : Int} {vs ws : List Int} (h : ParksOk img)
    (hl : loadFixed img kind idx vs = some (img', ws)) : ParksOk img' := by
  unfold loadFixed at hl
  split at hl
  · split at hl
    · unfold loadGeneral at hl
      split at hl
      · obtain ⟨a, _, hb⟩ := Option.map_eq_some_iff.1 hl
        obtain ⟨rfl, _⟩ := Prod.mk.inj hb
        exact parksOk_of rfl h
      · exact nomatch hl
    · exact nomatch hl
  · obtain ⟨g, _, hb⟩ := Option.bind_eq_some_iff.1 hl
    exact parksOk_loadSet h hb
  · obtain ⟨g, _, hb⟩ := Option.bind_eq_some_iff.1 hl
    obtain ⟨a, _, hc⟩ := Option.map_eq_some_iff.1 hb
    obtain ⟨rfl, _⟩ := Prod.mk.inj hc
    exact parksOk_of rfl h
  · obtain ⟨g, _, hb⟩ := Option.bind_eq_some_iff.1 hl
    obtain ⟨a, _, hc⟩ := Option.map_eq_some_iff.1 hb
    obtain ⟨rfl, _⟩ := Prod.mk.inj hc
    exact parksOk_of rfl h
  · obtain ⟨g, _, hb⟩ := Option.bind_eq_some_iff.1 hl
    unfold loadGroup at hb
    split at hb
    · split at hb
      · split at hb
        · obtain ⟨rfl, _⟩ := Prod.mk.inj (Option.some.inj hb)
          exact parksOk_of rfl h
        · obtain ⟨a, _, hc⟩ := Option.map_eq_some_iff.1 hb
          obtain ⟨rfl, _⟩ := Prod.mk.inj hc
          exact parksOk_of rfl h
      · exact nomatch hb
    · exact nomatch hb
  · split at hl
    · unfold loadSync at hl
      split at hl
      · split at hl
        · obtain ⟨rfl, _⟩ := Prod.mk.inj (Option.some.inj hl)
          exact parksOk_of rfl h
        · exact nomatch hl
      · exact nomatch hl
    · exact nomatch hl
  · split at hl
    · obtain ⟨rfl, _⟩ := Prod.mk.inj (Option.some.inj hl)
      exact parksOk_of rfl h
    · exact nomatch hl
  · split at hl
    · obtain ⟨rfl, _⟩ := Prod.mk.inj (Option.some.inj hl)
      exact parksOk_of rfl h
    · exact nomatch hl
  · split at hl
    · obtain ⟨a, _, hc⟩ := Option.map_eq_some_iff.1 hl
      obtain ⟨rfl, _⟩ := Prod.mk.inj hc
      exact parksOk_of rfl h
    · exact nomatch hl
  · split at hl
    · split at hl
      · obtain ⟨rfl, _⟩ := Prod.mk.inj (Option.some.inj hl)
        exact parksOk_of rfl h
      · exact nomatch hl
    · exact nomatch hl
  · obtain ⟨g, _, hb⟩ := Option.bind_eq_some_iff.1 hl
    obtain ⟨a, _, hc⟩ := Option.map_eq_some_iff.1 hb
    obtain ⟨rfl, _⟩ := Prod.mk.inj hc
    exact parksOk_of rfl h
  · exact nomatch hl

theorem parksOk_loadRecordOf {img img' : Image} {cs held : List Byte} {c : Bool} (h : ParksOk img)
    (hl : loadRecordOf img cs = some (img', held, c)) : ParksOk img' := by
  unfold loadRecordOf at hl
  split at hl
  · split at hl
    · split at hl
      · obtain ⟨rfl, _⟩ := Prod.mk.inj (Option.some.inj hl)
        exact parksOk_of rfl h
      · exact nomatch hl
    · split at hl
      · split at hl
        · obtain ⟨⟨i, ws⟩, ha, hb⟩ := Option.map_eq_some_iff.1 hl
          obtain ⟨rfl, _⟩ := Prod.mk.inj hb
          exact parksOk_loadFixed h ha
        · exact nomatch hl
      · exact nomatch hl
  · exact nomatch hl

theorem keeps_loadRecord (fields : List Byte) (s : State) : Keeps s (loadRecord fields s).1 := by
  unfold loadRecord
  split
  · exact Keeps.refl s
  · split
    · split
      · next h => exact ⟨fun k => ⟨k.1, k.2.1, parksOk_loadRecordOf k.2.2.1 h, k.2.2.2⟩, shedInv_of rfl rfl,
          partitionLaw_of rfl rfl, queueInv_of rfl rfl⟩
      · exact Keeps.refl s
    · exact Keeps.refl s

/-! ### Every request -/

/-- Every request keeps the laws. -/
theorem keeps_requestOwner (l : Link) (kind : Nat) (fields : List Byte) (s : State) :
    Keeps s (requestOwner l kind fields s).1 := by
  have w {ws : List Width} {owner : List Int → State → State × Reply} (ho : ∀ vs t, Keeps t (owner vs t).1) :
      Keeps s (withFields ws fields owner s).1 := keeps_withFields ho s
  unfold requestOwner
  split
  · exact w fun _ t => Keeps.refl t
  · exact w fun _ t => Keeps.refl t
  · exact w fun _ t => Keeps.refl t
  · exact w fun _ t => Keeps.refl t
  · exact w fun _ t => Keeps.refl t
  · exact w fun _ t => keeps_updLink l _ t
  · exact w fun _ t => Keeps.refl t
  · exact w keeps_setModeOf
  · exact w keeps_setBaseOf
  · exact w keeps_unloadSet
  · exact w keeps_clearTripOf
  · exact w (keeps_connectSet l)
  · exact w (keeps_closeTie l)
  · exact w keeps_cancelSync
  · exact w fun _ => keeps_groupCommand _ (keeps_shedCommand l)
  · exact w fun _ => keeps_groupCommand _ keeps_restoreCommand
  · exact w fun _ => keeps_groupCommand _ keeps_inhibitCommand
  · exact w fun _ => keeps_groupCommand _ keeps_releaseCommand
  · exact w fun _ => keeps_groupCommand _ (keeps_setGroupCommand _ _)
  · exact w keeps_cancelReservation
  · exact w keeps_enterProfile
  · exact w keeps_pushProfile
  · exact w keeps_popProfile
  · exact w keeps_refreshProfile
  · exact w keeps_writeSetting
  · exact keeps_writeProfile fields s
  · exact keeps_loadRecord fields s
  · exact w (keeps_jointRequest l _)
  · exact w (keeps_jointRequest l _)
  · exact w (keeps_jointRequest l _)
  · exact w (keeps_jointRequest l _)
  · exact Keeps.refl s

/-- Every request, and every search for frames, keeps the laws. -/
theorem keeps_linkSafe (l : Link) (s : State) : LinkSafe l (Keeps s) where
  frame _ t h := h.trans (keeps_updLink l _ t)
  valid t h := h.trans (keeps_validFrame l t)
  owner kind fields t h := h.trans (keeps_requestOwner l kind fields t)
  response r t h := h.trans (keeps_respond l r t)

/-! ### The Profile Unit and the links -/

theorem keeps_profileBuildEnd (e : EntryOp) (s : State) :
    Keeps s (match e.fail with | some n => entryFails e n s | none => entryCompletes e s) := by
  split
  · exact Keeps.trans (t := { s with prof.standby := e.saved, prof.entry := none }) (keeps_prof s _) (keeps_notify _ _ _ _)
  · unfold entryCompletes
    extract_lets p s1
    have h : Keeps s s1 := Keeps.trans (keeps_prof s p) (keeps_notify _ _ _ _)
    exact h.trans ((keeps_autoOffCancels s1).trans (keeps_accountUpdate _ _ _ _))

theorem keeps_linkSilent (l : Link) (s : State) : Keeps s (linkSilent l s) := by
  unfold linkSilent
  extract_lets s1
  have h0 := keeps_updLink l (fun x => { x with active := false, timer := none }) s
  have h : Keeps s s1 := h0.trans (keeps_notify _ _ _ _)
  split
  · exact h
  · exact h.trans ((keeps_notify _ _ _ _).trans (keeps_cancelRestores _))

theorem keeps_windowEnds (s : State) : Keeps s (windowEnds s) := by
  unfold windowEnds
  split
  · exact Keeps.trans (t := { s with link.joint := none }) (keeps_link s _) (keeps_notify _ _ _ _)
  · exact Keeps.refl s

/-! ### Resets and adoption -/

theorem storeAfterCut_sound {u : Startup} {img : Image} (h : storeAfterCut u = .sound img) : u.store = .sound img := by
  unfold storeAfterCut at h
  split at h
  · exact nomatch h
  · exact h

theorem coldReset_stopped (s : State) : (coldReset s).running = false := rfl

theorem warmReset_stopped (kind : ResetKind) (s : State) : (warmReset kind s).running = false := rfl

theorem warmReset_bias (kind : ResetKind) (s : State) (g : Fin 8) : (warmReset kind s).biasOut g = s.biasOut g := by
  simp [warmReset, State.biasOut]

theorem warmReset_confirm (kind : ResetKind) (s : State) (g : Fin 32) :
    (warmReset kind s).shed.groups[g].confirm = none := by
  simp [warmReset, coldReset, State.reset, Shed.reset]

theorem keeps_coldReset (s : State) : Keeps s (coldReset s) := by
  refine ⟨fun k => ⟨fun g => ?_, parksOk_default, parksOk_default, (by intro i hi; exact nomatch hi),
    fun i hi => k.2.2.2.2 i (storeAfterCut_sound hi)⟩, fun _ => ⟨fun hr => (by rw [coldReset_stopped] at hr; exact nomatch hr), fun g => ?_⟩,
    fun _ => ⟨Nat.zero_le _, fun p hp => nomatch hp⟩,
    fun _ => ⟨⟨Nat.zero_le _, List.Pairwise.nil, List.Pairwise.nil⟩, fun _ _ he => nomatch he⟩⟩
  · show -1000 ≤ (Share.reset.sets[g]).bias ∧ (Share.reset.sets[g]).bias ≤ 1000
    simp [Share.reset]
  · show (Shed.reset.groups[g]).confirm.isSome = true → _
    simp [Shed.reset]

theorem keeps_warmReset (kind : ResetKind) (s : State) : Keeps s (warmReset kind s) := by
  have c := keeps_coldReset s
  refine ⟨fun k => ⟨fun g => ?_, (c.1 k).2⟩, fun _ => ⟨fun hr => ?_, fun g => ?_⟩, c.2.2.1, c.2.2.2⟩
  · rw [warmReset_bias]; exact k.1 g
  · rw [warmReset_stopped] at hr; exact nomatch hr
  · rw [warmReset_confirm]; exact nofun

theorem keeps_adopt (s : State) : Keeps s (adopt s) := by
  unfold adopt
  extract_lets s1 sets _ _ _ _ s2
  have h1 : Keeps s s1 := keeps_adoptPartition s
  have hg : ∀ g : Fin 32, s2.shed.groups[g] = adoptGroup s1 g s1.shed.groups[g] := fun g => get_tab _ _ g
  have hi (t : State) (h : t.shed.groups = s2.shed.groups) : ShedInv t := by
    refine ⟨fun _ g => ?_, fun g => ?_⟩
    · show t.shed.groups[g].out = t.shed.groups[g].state.isShed
      rw [h, hg]; unfold adoptGroup; dsimp only; split <;> rfl
    · rw [h, hg]; unfold adoptGroup; dsimp only; split <;> exact nofun
  have hb (k : BiasInv s1) (g : Fin 8) : -1000 ≤ s2.biasOut g ∧ s2.biasOut g ≤ 1000 := by
    have : s2.share.sets[g] = adoptShare s1 sets g s1.share.sets[g] := get_tab _ _ g
    unfold State.biasOut; rw [this]; unfold adoptShare
    split
    · exact ⟨by show (-1000 : Int) ≤ 0; decide, by show (0 : Int) ≤ 1000; decide⟩
    · split
      · exact k.1 g
      · exact k.1 g
      · exact k.1 g
      · exact k.2.1 g
      · exact k.2.1 g
  have h3 : Keeps s1 (unknownStations s2) :=
    ⟨fun k => ⟨hb k, k.2⟩, fun _ => hi _ rfl, partitionLaw_of rfl rfl, queueInv_of rfl rfl⟩
  have h4 : Keeps s (recompute four (startPolling (unknownStations s2))) :=
    h1.trans (h3.trans ((keeps_startPolling _).trans (keeps_recompute four _)))
  have hs : (startPolling (unknownStations s2)).shed = s2.shed := by unfold startPolling; split <;> rfl
  have h5 : Keeps (recompute four (startPolling (unknownStations s2)))
      (stateChanged .running (recompute four (startPolling (unknownStations s2)))) :=
    ⟨fun k => ⟨k.1, k.2⟩, fun _ => hi _ (by
      show (startPolling (unknownStations s2)).shed.groups = _
      rw [hs]), partitionLaw_of rfl rfl, queueInv_of rfl rfl⟩
  exact h4.trans h5

end Sys2Proof.Machine
end

