-- ==== Sys2Proof/Laws/Moves.lean ====
section
/-! SUPPORT. What an account update does to the sets, to the reservation queue and, outside RUNNING, to the Shed
Controller: an unload in RAMPING may be aborted, offers may move, and outside RUNNING nothing else happens. -/

namespace Sys2Proof.Machine

/-- From `s` to `t` a set stands, or an unload of it in RAMPING was aborted. -/
def SetMoves (s t : State) : Prop :=
  ∀ g : Fin 8, (t.plant.sets[g] = s.plant.sets[g] ∧ t.share.sets[g] = s.share.sets[g]) ∨
    (s.plant.sets[g].state = .unloading ∧ s.share.sets[g].unload = .ramping ∧ t.plant.sets[g].state = .online ∧
      t.share.sets[g].unload = .none)

/-- From `s` to `t`, outside RUNNING, the Shed Controller, the queue and the stations stand. -/
def StandsStopped (s t : State) : Prop :=
  t.start = s.start ∧
  (s.running = false → t.shed = s.shed ∧ t.resv.queue = s.resv.queue ∧ t.line = s.line)

/-- From `s` to `t` entries keep all that they name; a consumer whose entries are all ACTIVE keeps them and its pending
answer, and one that has no ACTIVE entry gets none. -/
def QueueMoves (s t : State) : Prop :=
  ∃ m : Entry → Entry, t.resv.queue = s.resv.queue.map m ∧
    (∀ e, (m e).station = e.station ∧ (m e).consumer = e.consumer ∧ (m e).sect = e.sect ∧ (m e).kw = e.kw ∧
      (m e).level = e.level ∧ (m e).hold = e.hold ∧ (m e).arrival = e.arrival) ∧
    (∀ x c, (∀ e ∈ s.resv.queue, e.isOf x c = true → e.state = .active) →
      (∀ e ∈ s.resv.queue, e.isOf x c = true → m e = e) ∧
      (t.line.stations[x]).answers[c] = (s.line.stations[x]).answers[c]) ∧
    ∀ x c, (∀ e ∈ s.resv.queue, e.isOf x c = true → e.state ≠ .active) →
      ∀ e ∈ s.resv.queue, e.isOf x c = true → (m e).state ≠ .active

/-- The three together. -/
def Moves (s t : State) : Prop := SetMoves s t ∧ StandsStopped s t ∧ QueueMoves s t

theorem setMoves_trans {s t u : State} (h : SetMoves s t) (k : SetMoves t u) : SetMoves s u := fun g => by
  rcases h g with ⟨h1, h2⟩ | ⟨h1, h2, h3, h4⟩
  · rcases k g with ⟨k1, k2⟩ | ⟨k1, k2, k3, k4⟩
    · exact Or.inl ⟨k1.trans h1, k2.trans h2⟩
    · exact Or.inr ⟨h1 ▸ k1, h2 ▸ k2, k3, k4⟩
  · rcases k g with ⟨k1, k2⟩ | ⟨k1, _, _, _⟩
    · exact Or.inr ⟨h1, h2, k1 ▸ h3, k2 ▸ h4⟩
    · rw [h3] at k1; exact nomatch k1

theorem standsStopped_trans {s t u : State} (h : StandsStopped s t) (k : StandsStopped t u) : StandsStopped s u := by
  refine ⟨k.1.trans h.1, fun hr => ?_⟩
  obtain ⟨h1, h2, h3⟩ := h.2 hr
  obtain ⟨k1, k2, k3⟩ := k.2 ((running_of h.1).trans hr)
  exact ⟨k1.trans h1, k2.trans h2, k3.trans h3⟩

theorem queueMoves_trans {s t u : State} (h : QueueMoves s t) (k : QueueMoves t u) : QueueMoves s u := by
  obtain ⟨m, hm, hn, ha, hb⟩ := h
  obtain ⟨m', km, kn, ka, kb⟩ := k
  have iso (x c) (e : Entry) : (m e).isOf x c = e.isOf x c := by simp only [Entry.isOf, hn]
  refine ⟨m' ∘ m, by rw [km, hm, List.map_map], fun e => ?_, fun x c hx => ?_, fun x c hx => ?_⟩
  · obtain ⟨a1, a2, a3, a4, a5, a6, a7⟩ := hn e
    obtain ⟨b1, b2, b3, b4, b5, b6, b7⟩ := kn (m e)
    exact ⟨b1.trans a1, b2.trans a2, b3.trans a3, b4.trans a4, b5.trans a5, b6.trans a6, b7.trans a7⟩
  · obtain ⟨h1, h2⟩ := ha x c hx
    have ht : ∀ e ∈ t.resv.queue, e.isOf x c = true → e.state = .active := by
      intro e he hi
      rw [hm] at he
      obtain ⟨f, hf, rfl⟩ := List.mem_map.1 he
      rw [iso] at hi
      rw [h1 f hf hi]; exact hx f hf hi
    obtain ⟨k1, k2⟩ := ka x c ht
    refine ⟨fun e he hi => ?_, k2.trans h2⟩
    have : m e ∈ t.resv.queue := hm ▸ List.mem_map_of_mem he
    show m' (m e) = e
    rw [k1 (m e) this (by rw [iso]; exact hi), h1 e he hi]
  · have ht : ∀ e ∈ t.resv.queue, e.isOf x c = true → e.state ≠ .active := by
      intro e he hi
      rw [hm] at he
      obtain ⟨f, hf, rfl⟩ := List.mem_map.1 he
      rw [iso] at hi
      exact hb x c hx f hf hi
    intro e he hi
    exact kb x c ht (m e) (hm ▸ List.mem_map_of_mem he) (by rw [iso]; exact hi)

theorem Moves.trans {s t u : State} (h : Moves s t) (k : Moves t u) : Moves s u :=
  ⟨setMoves_trans h.1 k.1, standsStopped_trans h.2.1 k.2.1, queueMoves_trans h.2.2 k.2.2⟩

theorem queueMoves_of {s t : State} (hq : t.resv.queue = s.resv.queue) (hl : t.line = s.line) : QueueMoves s t :=
  ⟨id, by rw [hq, List.map_id], fun _ => ⟨rfl, rfl, rfl, rfl, rfl, rfl, rfl⟩,
    fun x c _ => ⟨fun _ _ _ => rfl, by rw [hl]⟩, fun _ _ h => h⟩

theorem setMoves_of {s t : State} (hp : t.plant.sets = s.plant.sets) (hs : t.share.sets = s.share.sets) : SetMoves s t :=
  fun _ => Or.inl ⟨by rw [hp], by rw [hs]⟩

theorem Moves.refl (s : State) : Moves s s :=
  ⟨setMoves_of rfl rfl, ⟨rfl, fun _ => ⟨rfl, rfl, rfl⟩⟩, queueMoves_of rfl rfl⟩

/-- A change outside the sets, the Shed Controller, the queue and the stations. -/
theorem moves_of {s t : State} (hp : t.plant.sets = s.plant.sets) (hs : t.share.sets = s.share.sets)
    (hst : t.start = s.start) (hd : t.shed = s.shed) (hq : t.resv.queue = s.resv.queue) (hl : t.line = s.line) :
    Moves s t := ⟨setMoves_of hp hs, ⟨hst, fun _ => ⟨hd, hq, hl⟩⟩, queueMoves_of hq hl⟩

/-- A change of the Shed Controller in RUNNING. -/
theorem moves_shed {s t : State} (hp : t.plant.sets = s.plant.sets) (hs : t.share.sets = s.share.sets)
    (hst : t.start = s.start) (hq : t.resv.queue = s.resv.queue) (hl : t.line = s.line) (hr : s.running = true) :
    Moves s t := ⟨setMoves_of hp hs, ⟨hst, fun h => by rw [hr] at h; exact nomatch h⟩, queueMoves_of hq hl⟩

theorem moves_foldl {α : Type} {f : State → α → State} (h : ∀ t a, Moves t (f t a)) (l : List α) (s : State) :
    Moves s (l.foldl f s) := foldl_inv (P := Moves s) (fun _ a hb => hb.trans (h _ a)) l s (Moves.refl s)

theorem moves_notify (k : NoticeKind) (a : Option Nat) (v : Option Int) (s : State) : Moves s (notify k a v s) :=
  moves_of rfl rfl rfl rfl rfl rfl

theorem moves_recompute (is : List (Fin 4)) (s : State) : Moves s (recompute is s) := moves_of rfl rfl rfl rfl rfl rfl

theorem moves_setShortfall (i : Fin 4) (b : Bool) (s : State) : Moves s (setShortfall i b s) :=
  moves_of rfl rfl rfl rfl rfl rfl

/-! ### The Shed Controller's part -/

/-- The blocks a shed action leaves alone. -/
theorem testGatesOf_rest (g : Fin 32) (s : State) :
    (testGatesOf g s).plant = s.plant ∧ (testGatesOf g s).share = s.share ∧ (testGatesOf g s).start = s.start ∧
    (testGatesOf g s).resv = s.resv ∧ (testGatesOf g s).line = s.line ∧ (testGatesOf g s).link = s.link ∧
    (testGatesOf g s).prof = s.prof ∧ (testGatesOf g s).conf = s.conf ∧ (testGatesOf g s).shed.groups = s.shed.groups ∧
    (testGatesOf g s).shed.dwell = s.shed.dwell ∧ (testGatesOf g s).scan = s.scan ∧ (testGatesOf g s).sync = s.sync := by
  unfold testGatesOf testGates
  repeat' split
  all_goals exact ⟨rfl, rfl, rfl, rfl, rfl, rfl, rfl, rfl, rfl, rfl, rfl, rfl⟩

theorem shedAction_rest (c : ShedCause) (gs : List (Fin 32)) (s : State) :
    (shedAction c gs s).plant = s.plant ∧ (shedAction c gs s).share = s.share ∧ (shedAction c gs s).start = s.start ∧
    (shedAction c gs s).resv = s.resv ∧ (shedAction c gs s).line = s.line ∧ (shedAction c gs s).link = s.link ∧
    (shedAction c gs s).prof = s.prof ∧ (shedAction c gs s).conf = s.conf ∧
    (shedAction c gs s).shed.dwell = s.shed.dwell := by
  have h : ∀ {γ : Type} (π : State → γ), (∀ t g, π (shedGroup c g t) = π t) → (∀ t g, π (testGatesOf g t) = π t) →
      π (shedAction c gs s) = π s := fun π h1 h2 =>
    (foldl_same π (f := fun t g => testGatesOf g t) (fun t g => h2 t g) gs _).trans
      (foldl_same π (f := fun t g => shedGroup c g t) (fun t g => h1 t g) gs s)
  exact ⟨h (·.plant) (fun _ _ => rfl) fun t g => (testGatesOf_rest g t).1,
    h (·.share) (fun _ _ => rfl) fun t g => (testGatesOf_rest g t).2.1,
    h (·.start) (fun _ _ => rfl) fun t g => (testGatesOf_rest g t).2.2.1,
    h (·.resv) (fun _ _ => rfl) fun t g => (testGatesOf_rest g t).2.2.2.1,
    h (·.line) (fun _ _ => rfl) fun t g => (testGatesOf_rest g t).2.2.2.2.1,
    h (·.link) (fun _ _ => rfl) fun t g => (testGatesOf_rest g t).2.2.2.2.2.1,
    h (·.prof) (fun _ _ => rfl) fun t g => (testGatesOf_rest g t).2.2.2.2.2.2.1,
    h (·.conf) (fun _ _ => rfl) fun t g => (testGatesOf_rest g t).2.2.2.2.2.2.2.1,
    h (·.shed.dwell) (fun _ _ => rfl) fun t g => (testGatesOf_rest g t).2.2.2.2.2.2.2.2.2.1⟩

/-- A shed action writes the groups it names and no other. -/
theorem shedAction_groups (c : ShedCause) (gs : List (Fin 32)) (s : State) (g : Fin 32) :
    (shedAction c gs s).shed.groups[g] =
      if g ∈ gs then
        { state := if opensAtOnce s g then .shed else .shedPending, cause := some c,
          confirm := if opensAtOnce s g then none else some s.conf.general.confirmTime, out := true }
      else s.shed.groups[g] := by
  have h1 : (shedAction c gs s).shed.groups = (gs.foldl (fun t g => shedGroup c g t) s).shed.groups :=
    foldl_same (·.shed.groups) (f := fun t g => testGatesOf g t) (fun t g => (testGatesOf_rest g t).2.2.2.2.2.2.2.2.1) gs _
  rw [h1]
  clear h1
  induction gs generalizing s with
  | nil => simp
  | cons a gs ih =>
    rw [List.foldl_cons, ih (shedGroup c a s)]
    have e : ∀ j, (shedGroup c a s).shed.groups[j] = if a = j then
        GroupRt.mk (if opensAtOnce s a then .shed else .shedPending) (some c)
          (if opensAtOnce s a then none else some s.conf.general.confirmTime) true
        else s.shed.groups[j] := fun j => get_upd _ _ _ _
    by_cases hg : g ∈ gs
    · rw [if_pos hg, if_pos (List.mem_cons_of_mem _ hg)]; rfl
    · rw [if_neg hg, e]
      by_cases ha : a = g
      · subst ha; simp
      · rw [if_neg ha, if_neg]; simp [hg, Ne.symm ha]

theorem moves_shedAction {c : ShedCause} {gs : List (Fin 32)} {s : State} (hr : s.running = true) :
    Moves s (shedAction c gs s) := by
  obtain ⟨h1, h2, h3, h4, h5, _⟩ := shedAction_rest c gs s
  exact moves_shed (by rw [h1]) (by rw [h2]) h3 (by rw [h4]) h5 hr

theorem moves_shedSelection {k : NoticeKind} {i : Fin 4} {n : Nat} {s : State} (hr : s.running = true) :
    Moves s (shedSelection k i n s) :=
  (moves_shedAction hr).trans ((moves_setShortfall i _ _).trans (moves_notify k _ _ _))

theorem moves_fastShed (i : Fin 4) (n : Nat) (s : State) : Moves s (fastShed i n s) := by
  unfold fastShed; split
  · dsimp only; split
    · next h => exact moves_shedSelection h.1
    · exact Moves.refl s
  · exact Moves.refl s

theorem moves_blackoutIfDead (b : State) (i : Fin 4) (s : State) : Moves s (blackoutIfDead b i s) := by
  unfold blackoutIfDead; split
  · split
    · next h => exact (moves_shedAction h.1).trans (moves_notify _ _ _ _)
    · exact Moves.refl s
  · exact Moves.refl s

theorem moves_shedUpdate (scan : Bool) (i : Fin 4) (s : State) : Moves s (shedUpdate scan i s) := by
  have tg (t : State) : (testGates i t).plant = t.plant ∧ (testGates i t).share = t.share ∧
      (testGates i t).start = t.start ∧ (testGates i t).resv = t.resv ∧ (testGates i t).line = t.line := by
    unfold testGates; split <;> exact ⟨rfl, rfl, rfl, rfl, rfl⟩
  have sr (t : State) : (startRestore i t).plant = t.plant ∧ (startRestore i t).share = t.share ∧
      (startRestore i t).start = t.start ∧ (startRestore i t).resv = t.resv ∧ (startRestore i t).line = t.line := by
    unfold startRestore; split <;> exact ⟨rfl, rfl, rfl, rfl, rfl⟩
  unfold shedUpdate; split
  · next hr =>
    split
    · dsimp only; split
      · obtain ⟨a1, a2, a3, a4, a5⟩ := sr (testGates i (setDwell i (dwellNext (settings s) (Account.overload _)
          (Account.under s _) (activePresent s i) s.shed.dwell[i]) s))
        obtain ⟨b1, b2, b3, b4, b5⟩ := tg (setDwell i (dwellNext (settings s) (Account.overload _)
          (Account.under s _) (activePresent s i) s.shed.dwell[i]) s)
        exact moves_shed (by rw [a1, b1]; rfl) (by rw [a2, b2]; rfl) (by rw [a3, b3]; rfl) (by rw [a4, b4]; rfl)
          (by rw [a5, b5]; rfl) hr
      · obtain ⟨b1, b2, b3, b4, b5⟩ := tg (setDwell i (dwellAllow (activePresent s i) s.shed.dwell[i]) s)
        exact moves_shed (by rw [b1]; rfl) (by rw [b2]; rfl) (by rw [b3]; rfl) (by rw [b4]; rfl) (by rw [b5]; rfl) hr
    · exact Moves.refl s
  · exact Moves.refl s

/-! ### The Sharing Engine's part -/

/-- An abort of an unload that stood in RAMPING at `s`. -/
theorem setMoves_abortUnload {s t : State} {g : Fin 8} {c : Int} (h : SetMoves s t)
    (hs : s.plant.sets[g].state = .unloading) (hu : s.share.sets[g].unload = .ramping) :
    SetMoves s (abortUnload c g t) := fun j => by
  have e1 : (abortUnload c g t).plant.sets[j] = if g = j then { t.plant.sets[g] with state := .online } else t.plant.sets[j] :=
    get_upd _ _ _ _
  have e2 : (abortUnload c g t).share.sets[j] =
      if g = j then { t.share.sets[g] with k := (settings t).rampN, unload := .none, openWait := none }
      else t.share.sets[j] := get_upd _ _ _ _
  rw [e1, e2]
  by_cases e : g = j
  · subst e
    rw [if_pos rfl, if_pos rfl]
    exact Or.inr ⟨hs, hu, rfl, rfl⟩
  · rw [if_neg e, if_neg e]; exact h j

theorem moves_abortUnloadList {s : State} (c : Int) {gs : List (Fin 8)}
    (h : ∀ g ∈ gs, s.plant.sets[g].state = .unloading ∧ s.share.sets[g].unload = .ramping) :
    Moves s (gs.foldl (fun t g => abortUnload c g t) s) := by
  have h1 : ∀ (gs : List (Fin 8)) (t : State), (∀ g ∈ gs, s.plant.sets[g].state = .unloading ∧ s.share.sets[g].unload = .ramping) →
      SetMoves s t → SetMoves s (gs.foldl (fun t g => abortUnload c g t) t) := by
    intro gs
    induction gs with
    | nil => exact fun _ _ h => h
    | cons a gs ih =>
      intro t hg ht
      obtain ⟨h1, h2⟩ := hg a (List.mem_cons_self ..)
      exact ih _ (fun g hm => hg g (List.mem_cons_of_mem _ hm)) (setMoves_abortUnload ht h1 h2)
  have h2 : ∀ {γ : Type} (π : State → γ), (∀ t g, π (abortUnload c g t) = π t) →
      π (gs.foldl (fun t g => abortUnload c g t) s) = π s := fun π hp =>
    foldl_same π (f := fun t g => abortUnload c g t) (fun t g => hp t g) gs s
  exact ⟨h1 gs s h (setMoves_of rfl rfl),
    ⟨h2 (·.start) fun _ _ => rfl, fun _ => ⟨h2 (·.shed) fun _ _ => rfl, h2 (·.resv.queue) fun _ _ => rfl,
      h2 (·.line) fun _ _ => rfl⟩⟩,
    queueMoves_of (h2 (·.resv.queue) fun _ _ => rfl) (h2 (·.line) fun _ _ => rfl)⟩

theorem rampingSets_mem {s : State} {i : Fin 4} {g : Fin 8} (h : g ∈ rampingSets s i) :
    s.plant.sets[g].state = .unloading ∧ s.share.sets[g].unload = .ramping := by
  have := (List.mem_filter.1 h).2
  simpa using this

theorem moves_abortUnloads (i : Fin 4) (s : State) : Moves s (abortUnloads i s) := by
  unfold abortUnloads; split
  · dsimp only
    split
    · exact Moves.refl s
    · split
      · exact (moves_abortUnloadList 2 fun g hg => rampingSets_mem hg).trans (moves_recompute _ _)
      · split
        · exact (moves_abortUnloadList 1 fun g hg => rampingSets_mem hg).trans (moves_recompute _ _)
        · exact Moves.refl s
  · exact Moves.refl s

/-! ### The Arbiter's part -/

/-- The pending answer of a consumer after one is made pending. -/
theorem answer_answers (x y : Fin 12) (c d : Fin 4) (a : Answer) (s : State) :
    ((answer x c a s).line.stations[y]).answers[d] =
      if x = y ∧ c = d then some { answer := a, delivered := false } else (s.line.stations[y]).answers[d] := by
  have e : (answer x c a s).line.stations[y] =
      if x = y then { s.line.stations[x] with answers := put s.line.stations[x].answers c (some { answer := a, delivered := false }) }
      else s.line.stations[y] := get_upd _ _ _ _
  rw [e]
  by_cases h : x = y
  · subst h
    rw [if_pos rfl]
    show (put s.line.stations[x].answers c _)[d] = _
    rw [get_put]
    by_cases hc : c = d
    · rw [if_pos hc, if_pos ⟨rfl, hc⟩]
    · rw [if_neg hc, if_neg fun hn => hc hn.2]
  · rw [if_neg h, if_neg fun hn => h hn.1]

/-- A consumer's entry moved between WAITING and OFFERED, with an answer. -/
theorem moves_offer {e : Entry} {s : State} {f : Entry → Entry} {a : Answer} (hr : s.running = true) (he : e ∈ s.resv.queue)
    (hw : e.state ≠ .active)
    (hf : ∀ e, (f e).station = e.station ∧ (f e).consumer = e.consumer ∧ (f e).sect = e.sect ∧ (f e).kw = e.kw ∧
      (f e).level = e.level ∧ (f e).hold = e.hold ∧ (f e).arrival = e.arrival ∧ (f e).state ≠ .active) :
    Moves s (answer e.station e.consumer a (updEntry e.station e.consumer f s)) := by
  refine ⟨setMoves_of rfl rfl, ⟨rfl, fun h => by rw [hr] at h; exact nomatch h⟩,
    fun y => if y.isOf e.station e.consumer then f y else y, rfl, fun y => ?_, fun x c hx => ⟨fun y hy hi => ?_, ?_⟩,
    fun x c hx y hy hi => ?_⟩
  · dsimp only
    split
    · obtain ⟨h1, h2, h3, h4, h5, h6, h7, _⟩ := hf y
      exact ⟨h1, h2, h3, h4, h5, h6, h7⟩
    · exact ⟨rfl, rfl, rfl, rfl, rfl, rfl, rfl⟩
  · dsimp only
    rw [if_neg]
    intro ho
    have hxc : e.isOf x c = true := by
      simp only [Entry.isOf, Bool.and_eq_true, decide_eq_true_eq] at hi ho ⊢
      exact ⟨ho.1.symm.trans hi.1, ho.2.symm.trans hi.2⟩
    exact hw (hx e he hxc)
  · rw [answer_answers, if_neg]
    · rfl
    · intro ⟨h1, h2⟩
      exact hw (hx e he (by simp [Entry.isOf, h1, h2]))
  · dsimp only
    split
    · exact (hf y).2.2.2.2.2.2.2
    · exact hx y hy hi

theorem moves_makeOffer {e : Entry} {s : State} (hr : s.running = true) (he : e ∈ s.resv.queue) (hw : e.state ≠ .active) :
    Moves s (makeOffer e s) :=
  moves_offer (f := fun x => { x with state := .offered, remaining := (settings s).acceptTime }) hr he hw
    fun _ => ⟨rfl, rfl, rfl, rfl, rfl, rfl, rfl, nofun⟩

theorem moves_returnOffer {e : Entry} {s : State} (hr : s.running = true) (he : e ∈ s.resv.queue) (hw : e.state ≠ .active) :
    Moves s (returnOffer e s) :=
  moves_offer (f := fun x => { x with state := .waiting, remaining := (settings s).waitLimit * 1000 }) hr he hw
    fun _ => ⟨rfl, rfl, rfl, rfl, rfl, rfl, rfl, nofun⟩

theorem moves_offerTest {i : Fin 4} {s t : State} (hr : s.running = true) (h : offerTest i s = some t) : Moves s t := by
  unfold offerTest at h
  split at h
  · next a e ha hc =>
    obtain ⟨c1, c2, c3⟩ := candidate_mem hc
    have cw : e.state ≠ .active := by rw [c2]; nofun
    split at h
    · split at h
      · exact Option.some.inj h ▸ moves_makeOffer hr c1 cw
      · exact nomatch h
    · next o ho =>
      obtain ⟨o1, o2, o3⟩ := offeredEntry_mem ho
      split at h
      · rw [← Option.some.inj h]
        have ow : o.state ≠ .active := by rw [o2]; nofun
        refine (moves_returnOffer hr o1 ow).trans ?_
        -- the candidate stands in the queue as it is, or it is the entry that was returned
        have hm : ∃ e' ∈ (returnOffer o s).resv.queue, e'.station = e.station ∧ e'.consumer = e.consumer ∧ e'.state ≠ .active := by
          by_cases hio : e.isOf o.station o.consumer = true
          · refine ⟨{ e with state := .waiting, remaining := (settings s).waitLimit * 1000 }, ?_, rfl, rfl, nofun⟩
            exact List.mem_map.2 ⟨e, c1, if_pos hio⟩
          · exact ⟨e, List.mem_map.2 ⟨e, c1, if_neg hio⟩, rfl, rfl, cw⟩
        obtain ⟨e', m1, m2, m3, m4⟩ := hm
        have := moves_offer (e := e') (s := returnOffer o s) (a := .offer)
          (f := fun x => { x with state := .offered, remaining := (settings (returnOffer o s)).acceptTime }) hr m1 m4
          fun _ => ⟨rfl, rfl, rfl, rfl, rfl, rfl, rfl, nofun⟩
        rw [m2, m3] at this
        exact this
      · exact nomatch h
  · exact nomatch h

theorem moves_seeWanted (i : Fin 4) (s : State) : Moves s (seeWanted i s) := by
  unfold seeWanted; split
  · dsimp only; split <;> exact moves_of rfl rfl rfl rfl rfl rfl
  · exact Moves.refl s

theorem moves_reUpdate (i : Fin 4) (s : State) : Moves s (reUpdate i s) :=
  (moves_recompute _ s).trans
    ((moves_abortUnloads i _).trans ((moves_shedUpdate false i _).trans (moves_seeWanted i _)))

theorem moves_arbiterUpdate (i : Fin 4) (s : State) : Moves s (arbiterUpdate i s) := by
  unfold arbiterUpdate
  dsimp only
  split
  · next hr =>
    split
    · next h => exact (moves_seeWanted i s).trans ((moves_offerTest hr h).trans (moves_reUpdate i _))
    · exact moves_seeWanted i s
  · exact moves_seeWanted i s

/-! ### The account update -/

theorem moves_eachIsland {f : Fin 4 → State → State} (h : ∀ i t, Moves t (f i t)) (is : List (Fin 4)) (s : State) :
    Moves s (eachIsland is f s) := moves_foldl (fun t i => h i t) is s

theorem moves_handOn (scan : Bool) (b : State) (is : List (Fin 4)) (s : State) : Moves s (handOn scan b is s) :=
  (moves_eachIsland moves_abortUnloads is s).trans
    ((moves_eachIsland (moves_blackoutIfDead b) is _).trans
      ((moves_eachIsland (moves_shedUpdate scan) is _).trans (moves_eachIsland moves_arbiterUpdate is _)))

/-- What an account update does to the sets, to the queue and outside RUNNING. -/
theorem moves_accountUpdate (scan : Bool) (b : State) (is : List (Fin 4)) (s : State) :
    Moves s (accountUpdate scan b is s) := (moves_recompute is s).trans (moves_handOn scan b is _)

theorem moves_updateAt (b : State) (x : Fin 4) (s : State) : Moves s (updateAt b x s) := by
  unfold updateAt; split
  · exact moves_accountUpdate false b _ s
  · exact Moves.refl s

theorem moves_updateSetIsland (b : State) (g : Fin 8) (s : State) : Moves s (updateSetIsland b g s) :=
  moves_updateAt b _ s

/-- A set that no unload in RAMPING holds stands through an account update. -/
theorem Moves.set {s t : State} (h : Moves s t) {g : Fin 8}
    (hn : s.plant.sets[g].state ≠ .unloading ∨ s.share.sets[g].unload ≠ .ramping) :
    t.plant.sets[g] = s.plant.sets[g] ∧ t.share.sets[g] = s.share.sets[g] := by
  rcases h.1 g with hl | ⟨h1, h2, _⟩
  · exact hl
  · exact (hn.elim (absurd h1) (absurd h2))

/-- A consumer that the queue names nowhere is named nowhere, and its pending answer stands. -/
theorem Moves.absent {s t : State} (h : Moves s t) {x : Fin 12} {c : Fin 4}
    (hn : ∀ e ∈ s.resv.queue, e.isOf x c = false) :
    (∀ e ∈ t.resv.queue, e.isOf x c = false) ∧
    (t.line.stations[x]).answers[c] = (s.line.stations[x]).answers[c] := by
  obtain ⟨m, hm, hk, ha, _⟩ := h.2.2
  refine ⟨fun e he => ?_, (ha x c fun e he hi => by rw [hn e he] at hi; exact nomatch hi).2⟩
  rw [hm] at he
  obtain ⟨f, hf, rfl⟩ := List.mem_map.1 he
  have := hn f hf
  simpa only [Entry.isOf, hk] using this

end Sys2Proof.Machine
end

