-- ==== Sys2Proof/Laws/Gates.lean ====
section
/-! SUPPORT. What an account update and a shed action do to the dwell timers and the restore delays, and the blackout
shed (06 R108, R110 to R115). -/

namespace Sys2Proof.Machine

/-! ### Restore gates and delays (06 R114, R115) -/

/-- The gates, one by one. -/
theorem gatesHold_iff (s : State) (i : Fin 4) :
    gatesHold s i = true ↔
      s.running = true ∧ s.supervised = true ∧ (settings s).autoRestore = true ∧ ∃ a g,
        s.plant.accounts[i] = some a ∧ restoreCandidate s i = some g ∧ a.isOver = false ∧ a.dead = false ∧
        s.shed.dwell[i].state = .idle ∧ (groupLoad s g : Int) + ((settings s).restoreMargin : Int) ≤ a.spare := by
  unfold gatesHold
  simp only [Bool.and_eq_true, and_assoc]
  refine and_congr_right fun _ => and_congr_right fun _ => and_congr_right fun _ => ?_
  cases ha : s.plant.accounts[i] with
  | none => simp
  | some a =>
    cases hg : restoreCandidate s i with
    | none => simp
    | some g => simp [and_assoc, -Fin.getElem_fin]

/-- The gates read no restore delay. -/
@[simp] theorem gatesHold_delay (s : State) (r : Vector Timer 4) (i : Fin 4) :
    gatesHold { s with shed.restore := r } i = gatesHold s i := rfl

/-- A gate test changes the restore delays alone. -/
theorem testGates_eq (i : Fin 4) (s : State) :
    testGates i s = { s with shed.restore := if gatesHold s i then s.shed.restore else put s.shed.restore i none } := by
  unfold testGates cancelRestore
  split <;> rfl

theorem testGates_restore (i j : Fin 4) (s : State) :
    (testGates i s).shed.restore[j] = if i = j ∧ gatesHold s i = false then none else s.shed.restore[j] := by
  rw [testGates_eq]
  by_cases h : gatesHold s i = true
  · simp [h, -Fin.getElem_fin]
  · have h' : gatesHold s i = false := by simpa using h
    simp only [h', Bool.false_eq_true, if_false, and_true]
    exact get_put _ _ _ _

/-- The gate test of a group's island changes the restore delays alone. -/
theorem testGatesOf_eq (g : Fin 32) (s : State) :
    testGatesOf g s = { s with shed.restore := (testGatesOf g s).shed.restore } := by
  unfold testGatesOf
  split
  · rw [testGates_eq]
  · rfl

theorem testGatesOf_restore (g : Fin 32) (i : Fin 4) (s : State) :
    (testGatesOf g s).shed.restore[i] =
      if groupIsland s g = some i ∧ gatesHold s i = false then none else s.shed.restore[i] := by
  unfold testGatesOf
  split
  · next j hj =>
    rw [testGates_restore, hj]
    by_cases e : j = i
    · subst e; simp
    · rw [if_neg (by tauto), if_neg (by simp [e])]
  · next hj => simp [hj]

/-- The gate tests of several groups. -/
theorem testGatesOfs_eq (gs : List (Fin 32)) (s : State) :
    gs.foldl (fun t g => testGatesOf g t) s =
      { s with shed.restore := (gs.foldl (fun t g => testGatesOf g t) s).shed.restore } := by
  induction gs generalizing s with
  | nil => rfl
  | cons g gs ih =>
    simp only [List.foldl_cons]
    rw [ih (testGatesOf g s), testGatesOf_eq]

theorem testGatesOfs_restore (gs : List (Fin 32)) (i : Fin 4) (s : State) :
    (gs.foldl (fun t g => testGatesOf g t) s).shed.restore[i] =
      if (∃ g ∈ gs, groupIsland s g = some i) ∧ gatesHold s i = false then none else s.shed.restore[i] := by
  induction gs generalizing s with
  | nil => simp
  | cons g gs ih =>
    have hi (h : Fin 32) : groupIsland (testGatesOf g s) h = groupIsland s h := by rw [testGatesOf_eq]; rfl
    have hg : gatesHold (testGatesOf g s) i = gatesHold s i := by rw [testGatesOf_eq]; rfl
    simp only [List.foldl_cons]
    rw [ih (testGatesOf g s), testGatesOf_restore]
    simp only [hi, hg, List.mem_cons, exists_eq_or_imp]
    by_cases h0 : gatesHold s i = false
    · by_cases h1 : groupIsland s g = some i <;> simp [h0, h1]
    · simp [h0]

/-- A shed action cancels the restore delay of each island of its groups at which a gate fails. -/
theorem shedAction_restore (c : ShedCause) (gs : List (Fin 32)) (i : Fin 4) (s : State) :
    (shedAction c gs s).shed.restore[i] =
      if (∃ g ∈ gs, groupIsland s g = some i) ∧ gatesHold (shedAction c gs s) i = false then none
      else s.shed.restore[i] := by
  have h0 : ∀ (xs : List (Fin 32)) (u : State), (xs.foldl (fun t g => shedGroup c g t) u).shed.restore = u.shed.restore ∧
      ∀ g, groupIsland (xs.foldl (fun t g => shedGroup c g t) u) g = groupIsland u g := by
    intro xs
    induction xs with
    | nil => exact fun u => ⟨rfl, fun _ => rfl⟩
    | cons x xs ih => exact fun u => ⟨(ih _).1, fun g => (ih _).2 g⟩
  obtain ⟨hr, hi⟩ := h0 gs s
  unfold shedAction
  rw [testGatesOfs_restore]
  have hg : gatesHold (gs.foldl (fun t g => testGatesOf g t) (gs.foldl (fun t g => shedGroup c g t) s)) i =
      gatesHold (gs.foldl (fun t g => shedGroup c g t) s) i := by rw [testGatesOfs_eq]; rfl
  rw [hg, hr]
  simp only [hi]

/-- A group connected cancels the restore delay of its island where a gate fails. -/
theorem connectGroup_restore (g : Fin 32) (i : Fin 4) (s : State) :
    (connectGroup g s).shed.restore[i] =
      if groupIsland s g = some i ∧ gatesHold (connectGroup g s) i = false then none else s.shed.restore[i] := by
  unfold connectGroup
  rw [testGatesOf_restore]
  have hg : ∀ t : State, gatesHold (testGatesOf g t) i = gatesHold t i := fun t => by rw [testGatesOf_eq]; rfl
  rw [hg]
  rfl

/-- The gate tests of an island leave the other islands' restore delays. -/
theorem testGates_other {i j : Fin 4} (h : j ≠ i) (s : State) :
    (testGates i s).shed.restore[j] = s.shed.restore[j] := by
  rw [testGates_restore, if_neg (by rintro ⟨e, _⟩; exact h e.symm)]

/-- Testing the gates of an island starts no restore delay. -/
theorem testGates_delay (i : Fin 4) (s : State) :
    (testGates i s).shed.restore[i] = if gatesHold (testGates i s) i then s.shed.restore[i] else none := by
  have hg : gatesHold (testGates i s) i = gatesHold s i := by rw [testGates_eq]; rfl
  rw [testGates_restore, hg]
  cases gatesHold s i <;> simp

/-- The gate tests of a scan round start the restore delay of an island where every gate holds and none runs. -/
theorem startRestore_delay (i : Fin 4) (s : State) :
    (startRestore i (testGates i s)).shed.restore[i] =
      (if gatesHold (startRestore i (testGates i s)) i then
        match s.shed.restore[i] with
        | some r => some r
        | none => some (settings s).restoreDelay
      else none) ∧
    ∀ j : Fin 4, j ≠ i → (startRestore i (testGates i s)).shed.restore[j] = s.shed.restore[j] := by
  have hg : gatesHold (testGates i s) i = gatesHold s i := by rw [testGates_eq]; rfl
  have hs : settings (testGates i s) = settings s := by rw [testGates_eq]; rfl
  have hd := testGates_delay i s
  rw [hg] at hd
  unfold startRestore
  cases hh : gatesHold s i
  · rw [hh] at hd
    simp only [hg, hh, Bool.false_eq_true, false_and, if_false] at hd ⊢
    exact ⟨hd, fun j hj => testGates_other hj s⟩
  · rw [hh] at hd
    simp only [if_true] at hd
    cases hr : s.shed.restore[i] with
    | some r => simpa only [hg, hd, hr, hh, true_and, reduceCtorEq, if_false, if_true] using fun j hj => testGates_other hj s
    | none =>
      simp only [hg, hd, hr, hh, true_and, if_true, gatesHold_delay]
      refine ⟨by rw [get_put, if_pos rfl, hs], fun j hj => ?_⟩
      rw [get_put_ne _ (Ne.symm hj), testGates_other hj]

/-- A restore delay at an account update in RUNNING: it starts at a scan round where every gate holds, and is cancelled
where one fails (06 R115). -/
theorem shedUpdate_restore {scan : Bool} {i : Fin 4} {s : State} (hr : s.running = true)
    (ha : (s.plant.accounts[i]).isSome = true) :
    (shedUpdate scan i s).shed.restore[i] =
      (if gatesHold (shedUpdate scan i s) i then
        match s.shed.restore[i] with
        | some r => some r
        | none => if scan then some (settings s).restoreDelay else none
      else none) ∧
    ∀ j : Fin 4, j ≠ i → (shedUpdate scan i s).shed.restore[j] = s.shed.restore[j] := by
  obtain ⟨a, ha⟩ := Option.isSome_iff_exists.1 ha
  simp only [shedUpdate, hr, if_true, ha]
  cases scan
  · simp only [Bool.false_eq_true, if_false]
    refine ⟨(testGates_delay i _).trans ?_, fun j hj => testGates_other hj _⟩

    show (if _ then s.shed.restore[i] else none) = _
    cases s.shed.restore[i] <;> rfl
  · simp only [if_true]
    exact startRestore_delay i _

/-- The dwell timer at an account update in RUNNING (06 R110 to R112), and what the Shed Controller leaves alone there. -/
theorem shedUpdate_dwell {scan : Bool} {i : Fin 4} {a : Account} {s : State} (hr : s.running = true)
    (ha : s.plant.accounts[i] = some a) :
    (shedUpdate scan i s).shed.dwell = put s.shed.dwell i
      (if scan then dwellNext (settings s) a.overload (a.under s) (activePresent s i) s.shed.dwell[i]
       else dwellAllow (activePresent s i) s.shed.dwell[i]) ∧ (shedUpdate scan i s).shed.groups = s.shed.groups ∧
      (shedUpdate scan i s).plant = s.plant ∧ (shedUpdate scan i s).resv = s.resv ∧ (shedUpdate scan i s).link = s.link := by
  simp only [shedUpdate, hr, if_true, ha]
  cases scan
  · simp only [Bool.false_eq_true, if_false]
    rw [testGates_eq]; exact ⟨rfl, rfl, rfl, rfl, rfl⟩
  · simp only [if_true]
    have h (u : State) : startRestore i (testGates i u) =
        { u with shed.restore := (startRestore i (testGates i u)).shed.restore } := by
      unfold startRestore
      split <;> rw [testGates_eq]
    rw [h]
    exact ⟨rfl, rfl, rfl, rfl, rfl⟩

end Sys2Proof.Machine
end

