-- ==== Sys2Proof/Laws/Updates.lean ====
section
/-! SUPPORT. What the parts of an account update write: a notice that reached the queues, the unloads aborted, the offers
returned, the account as a part leaves it. -/

namespace Sys2Proof.Machine

/-! ### Notices that were sent -/

/-- A notice just sent stands in each queue that dropped none. -/
theorem sent_notify_self (k : NoticeKind) (a : Option Nat) (v : Option Int) (s : State) :
    Sent (newNotice k a v s) (notify k a v s) := by
  intro l
  rw [notify_get]
  unfold LinkRt.append
  split
  · intro _; simp
  · intro h; simp at h

/-- A later notice removes none. -/
theorem sent_notify {n : Notice} {s : State} (h : Sent n s) (k : NoticeKind) (a : Option Nat) (v : Option Int) :
    Sent n (notify k a v s) := by
  intro l
  have := h l
  rw [notify_get]
  unfold LinkRt.append
  split
  · intro ho; simp; exact Or.inl (this ho)
  · intro h; simp at h

theorem sent_link {n : Notice} {s t : State} (h : Sent n s) (e : t.link = s.link) : Sent n t := by
  intro l; rw [e]; exact h l

/-! ### Accounts -/

/-- A recomputed account is the account of the state it stands in. -/
theorem recompute_accountOf {X : State} {i : Fin 4} {b : Account}
    (h : (recompute [i] X).plant.accounts[i] = some b) : AccountOf (recompute [i] X) i b := by
  rw [show recompute [i] X = { X with plant.accounts := (recompute [i] X).plant.accounts } from rfl]
  change AccountOf X i b
  cases hp : X.plant.partition with
  | none => rw [recompute_vacant (by simp) (by simp [hp])] at h; cases h
  | some p =>
    by_cases h1 : p[i] = i ∧ ∃ x : Fin 4, p[x] = i ∧ sectPresent X x = true
    · obtain ⟨a, ha, hb, _⟩ := recompute_account (is := [i]) hp (by simp) h1.1 h1.2
      rw [ha] at h; cases h; exact hb
    · rw [recompute_vacant (by simp)] at h
      · cases h
      · intro q hq hi x hx
        rw [hp] at hq; cases hq
        by_contra hc
        exact h1 ⟨hi, x, hx, by simpa using hc⟩

/-! ### Unloads aborted (03 R59) -/

/-- The unloads of several sets aborted: those sets are ONLINE with k = N and their bias, the others as they were. -/
theorem abortUnload_list (c : Int) (gs : List (Fin 8)) (hn : gs.Nodup) (s : State) :
    let t := gs.foldl (fun t g => abortUnload c g t) s
    (∀ g ∈ gs, t.plant.sets[g].state = .online ∧ t.share.sets[g].k = (settings s).rampN ∧
      t.share.sets[g].unload = .none ∧ t.biasOut g = s.biasOut g ∧
      Sent (newNotice .unloadAborted (some g.val) (some c) s) t) ∧
    (∀ g, g ∉ gs → t.plant.sets[g] = s.plant.sets[g] ∧ t.share.sets[g] = s.share.sets[g]) ∧
    (∀ n, Sent n s → Sent n t) ∧ t.plant.accounts = s.plant.accounts ∧ t.plant.partition = s.plant.partition := by
  induction gs generalizing s with
  | nil => exact ⟨by simp, fun _ _ => ⟨rfl, rfl⟩, fun _ h => h, rfl, rfl⟩
  | cons a gs ih =>
    obtain ⟨ha, hn⟩ := List.nodup_cons.1 hn
    obtain ⟨h1, h2, h3, h4, h5⟩ := ih hn (abortUnload c a s)
    have e1 : ∀ j, (abortUnload c a s).plant.sets[j] = if a = j then { s.plant.sets[a] with state := .online } else s.plant.sets[j] :=
      fun j => get_upd _ _ _ _
    have e2 : ∀ j : Fin 8, (abortUnload c a s).share.sets[j] =
      if a = j then { s.share.sets[a] with k := (settings s).rampN, unload := .none, openWait := none }
      else s.share.sets[j] := fun j => get_upd _ _ _ _
    intro t
    refine ⟨fun g hg => ?_, fun g hg => ?_, fun n hs => h3 n (sent_notify (sent_link (s := s) hs rfl) _ _ _), h4, h5⟩
    · rcases List.mem_cons.1 hg with rfl | hg
      · obtain ⟨p, q⟩ := h2 g ha
        have q' : t.share.sets[g] = _ := q
        have p' : t.plant.sets[g] = _ := p
        rw [e1, if_pos rfl] at p'; rw [e2, if_pos rfl] at q'
        refine ⟨by rw [p'], by rw [q'], by rw [q'], ?_, ?_⟩
        · show t.share.sets[g].bias = s.share.sets[g].bias
          rw [q']
        · exact h3 _ (sent_notify_self _ _ _ _)
      · obtain ⟨x1, x2, x3, x4, x5⟩ := h1 g hg
        have : a ≠ g := by rintro rfl; exact ha hg
        refine ⟨x1, x2, x3, x4.trans ?_, x5⟩
        show (abortUnload c a s).share.sets[g].bias = s.share.sets[g].bias
        rw [e2, if_neg this]
    · have hga : a ≠ g := by rintro rfl; simp at hg
      obtain ⟨p, q⟩ := h2 g (by simp at hg; exact hg.2)
      have q' : t.share.sets[g] = _ := q
      have p' : t.plant.sets[g] = _ := p
      rw [e1, if_neg hga] at p'; rw [e2, if_neg hga] at q'
      exact ⟨p', q'⟩

/-! ### Offers returned (07 R129, R132) -/

/-- Two entries of one consumer are one entry. -/
theorem QueueLaw.unique {s : State} (h : QueueLaw s) {e f : Entry} (he : e ∈ s.resv.queue)
    (hf : f ∈ s.resv.queue) (h1 : e.station = f.station) (h2 : e.consumer = f.consumer) : e = f := by
  have := h.2.1
  generalize s.resv.queue = l at he hf this
  induction l with
  | nil => cases he
  | cons x xs ih =>
    obtain ⟨k1, k2⟩ := List.pairwise_cons.1 this
    rcases List.mem_cons.1 he with rfl | he' <;> rcases List.mem_cons.1 hf with rfl | hf'
    · rfl
    · exact absurd ⟨h1, h2⟩ (k1 f hf')
    · exact absurd ⟨h1.symm, h2.symm⟩ (k1 e he')
    · exact ih he' hf' k2

/-- The listed entries returned to WAITING with WITHDRAWN; nothing of the plant moves. -/
theorem returnOffers_writes (es : List Entry) (s : State) :
    let t := returnOffers es s
    t.resv.queue = s.resv.queue.map (fun e =>
      if es.any (fun f => e.isOf f.station f.consumer) then
        { e with state := .waiting, remaining := (settings s).waitLimit * 1000 }
      else e) ∧
    (∀ x c, (t.line.stations[x]).answers[c] =
      if es.any (fun f => f.isOf x c) then some { answer := .withdrawn, delivered := false }
      else (s.line.stations[x]).answers[c]) ∧ t.plant = s.plant ∧ t.conf = s.conf := by
  induction es generalizing s with
  | nil => simp [returnOffers]
  | cons a es ih =>
    obtain ⟨h1, h2, h3, h4⟩ := ih (returnOffer a s)
    have hs : settings (returnOffer a s) = settings s := rfl
    intro t
    have ht : t = returnOffers es (returnOffer a s) := rfl
    refine ⟨?_, fun x c => ?_, h3, h4⟩
    · rw [ht, h1, hs]
      show ((s.resv.queue.map _).map _) = _
      rw [List.map_map]
      refine List.map_congr_left fun e he => ?_
      simp only [Function.comp, List.any_cons]
      by_cases hx : e.isOf a.station a.consumer = true
      · have hy := hx
        simp only [Entry.isOf, Bool.and_eq_true, decide_eq_true_eq] at hy
        simp [hy.1, hy.2, Entry.isOf]
      · simp [hx]
    · rw [ht, h2]
      have : ((returnOffer a s).line.stations[x]).answers[c] =
          if a.isOf x c then some { answer := .withdrawn, delivered := false }
          else (s.line.stations[x]).answers[c] := by
        unfold returnOffer
        rw [answer_answers]
        simp only [Entry.isOf]
        simp [updEntry]
      rw [this]
      simp only [List.any_cons]
      by_cases q : Entry.isOf x c a = true <;> simp [q]

/-! ### Entries removed or renumbered (07 R126, R134) -/

/-- Entries removed with one answer: each has it pending, every other pending answer standing. -/
theorem removeAll_answers (keep : Entry → Bool) (a : Answer) (s : State) (x : Fin 12) (c : Fin 4) :
    ((removeAll keep a s).line.stations[x]).answers[c] =
      if ∃ e ∈ s.resv.queue, keep e = false ∧ e.station = x ∧ e.consumer = c then some { answer := a, delivered := false }
      else (s.line.stations[x]).answers[c] := by
  have key : ∀ (es : List Entry) (s : State),
      ((es.foldl (fun t e => answer e.station e.consumer a t) s).line.stations[x]).answers[c] =
        if ∃ e ∈ es, e.station = x ∧ e.consumer = c then some { answer := a, delivered := false }
        else (s.line.stations[x]).answers[c] := by
    intro es; induction es with
    | nil => intro s; simp
    | cons e es ih =>
      intro s
      rw [List.foldl_cons, ih, answer_answers]
      by_cases h : ∃ f ∈ es, f.station = x ∧ f.consumer = c
      · rw [if_pos h, if_pos]; obtain ⟨f, hf, h⟩ := h; exact ⟨f, List.mem_cons_of_mem _ hf, h⟩
      · rw [if_neg h]
        refine if_congr ?_ rfl rfl
        simp only [List.mem_cons, exists_eq_or_imp]
        exact ⟨Or.inl, fun k => k.resolve_right h⟩
  refine (key _ s).trans (if_congr ?_ rfl rfl)
  simp [List.mem_filter, and_assoc]

/-- The arrival numbers of a renumbered queue, from `n` on. -/
theorem renumber_eq (q : List Entry) (n : Nat) : renumber n q = q.mapIdx fun k e => { e with arrival := k + n } := by
  induction q generalizing n with
  | nil => rfl
  | cons e q ih =>
    rw [renumber, ih, List.mapIdx_cons]
    simp only [Nat.zero_add, List.cons.injEq, true_and]
    congr; funext k f; congr 1; omega

end Sys2Proof.Machine
end

