-- ==== Sys2Proof/WellFormed.lean ====
section
/-! DEFINITION. Which operands a command may carry: what the rows' rules admit beyond the operands' types. -/

namespace Sys2Proof

/-- The request kinds of 11 section 11.2. -/
def knownKinds : List Nat :=
  [1, 2, 3, 4, 5, 6, 7, 16, 17, 18, 19, 24, 25, 26, 32, 33, 34, 35, 36, 40, 48, 49, 50, 51, 52, 53, 56, 64, 65, 66, 67]

/-- Every code is one of a 12-bit conversion (02 sections 2.2 and 2.4). -/
def Samples.wf (smp : Samples) : Bool :=
  smp.kw.toList.all (· ≤ 4095) && smp.secv.toList.all (· ≤ 4095) && decide (smp.vin ≤ 4095) && decide (smp.vref ≤ 4095)

/-- The field characters of a frame whose length field lies in 2 to 300 (11 R172): kind and sequence number are two
of them. -/
def fieldsWf (fields : List Byte) : Bool := decide (fields.length ≤ 298)

/-- A command whose operands its row admits. -/
def Instr.wf : Instr → Bool
  | .powerOnReset => true
  | .resetLineAsserted => true
  | .resetLineReleased => true
  | .imageCheck => true
  | .adoption => true
  | .rawInputChange _ _ => true
  | .filterTimerExpiry _ => true
  | .roundTimerExpiry smp => smp.wf
  | .sectionCrossing _ _ => true
  | .sectionLossTimerExpiry _ => true
  | .syncInCrossing _ => true
  | .syncRefCrossing _ => true
  | .syncLossTimerExpiry _ => true
  | .sharingPeriodExpiry => true
  | .gcbOpenPulseExpiry _ => true
  | .openConfirmWaitExpiry _ => true
  | .selectorSettleExpiry => true
  | .syncPass => true
  | .syncTimeLimitExpiry => true
  | .closePulseExpiry => true
  | .closeConfirmExpiry => true
  | .confirmTimerExpiry _ => true
  | .dwellExpiry _ => true
  | .restoreDelayExpiry _ => true
  | .pollSlotExpiry => true
  | .pollFrameSent => true
  | .replyFrame _ => true
  | .replyBadAddress => true
  | .replyWindowExpiry => true
  | .waitTimerExpiry _ _ => true
  | .acceptDeadlineExpiry _ _ => true
  | .holdDeadlineExpiry _ _ => true
  | .profileBuildEnd => true
  | .storeWriteEnd _ => true
  -- a frame holds at most 2 length characters, 300 and 2 CRC characters after its start character (11 R172)
  | .frameTimerExpiry _ following => decide (following.length ≤ 304)
  | .frameDiscarded _ following => decide (following.length ≤ 304)
  | .unknownKind _ kind _ => decide (kind.toNat ∉ knownKinds)
  | .responseSent _ => true
  | .warmResetBegin => true
  | .linkTimerExpiry _ => true
  | .jointWindowExpiry => true
  | .readAccounts _ _ f => fieldsWf f
  | .readSets _ _ f => fieldsWf f
  | .readGroups _ _ f => fieldsWf f
  | .readQueue _ _ f => fieldsWf f
  | .readProfiles _ _ f => fieldsWf f
  | .readNotices _ _ f => fieldsWf f
  | .readState _ _ f => fieldsWf f
  | .setMode _ _ f => fieldsWf f
  | .setBasePoint _ _ f => fieldsWf f
  | .unload _ _ f => fieldsWf f
  | .clearTrip _ _ f => fieldsWf f
  | .connectSet _ _ f => fieldsWf f
  | .closeTie _ _ f => fieldsWf f
  | .cancelSync _ _ f => fieldsWf f
  | .shed _ _ f => fieldsWf f
  | .restore _ _ f => fieldsWf f
  | .inhibit _ _ f => fieldsWf f
  | .releaseInhibit _ _ f => fieldsWf f
  | .setGroup _ _ f => fieldsWf f
  | .cancelReservation _ _ f => fieldsWf f
  | .enter _ _ f => fieldsWf f
  | .push _ _ f => fieldsWf f
  | .pop _ _ f => fieldsWf f
  | .refresh _ _ f => fieldsWf f
  | .writeSetting _ _ f => fieldsWf f
  | .writeProfile _ _ f => fieldsWf f
  | .loadRecord _ _ f => fieldsWf f
  | .reset _ _ f => fieldsWf f
  | .hold _ _ f => fieldsWf f
  | .resume _ _ f => fieldsWf f
  | .configCommit _ _ f => fieldsWf f
  | .startCharacter _ => true
  | .lossOfPower => true

end Sys2Proof
end

