-- ==== Sys2Proof/Tests/Slice0.lean ====
section
/-! SUPPORT. The model's own tests: ill-formed commands, worked examples of the manual, and for every statement states
and operands that meet its hypotheses, clause by clause. -/

namespace Sys2Proof.Tests

set_option Elab.async false

open Sys2Proof Sys2Proof.Machine

/-! ### States for the tests -/

/-- Four sets on S0 and S1 joined by T0, 32 groups, three stations, profiles 0 and 1. -/
def img : Image :=
  { Image.default with
    sets := Vector.ofFn fun i =>
      { present := decide (i.val < 4), sect := if i.val < 2 then 0 else 1, rating := if i.val < 2 then 12000 else 8000,
        fs := 15000, park := 10, sense := if i.val = 0 then .level else .edge }
    sections := Vector.ofFn fun i => { present := decide (i.val < 2), deadClose := true }
    ties := Vector.ofFn fun i => { present := decide (i.val < 1), deadClose := true }
    groups := Vector.ofFn fun i =>
      { present := decide (i.val < 31), sect := 0, confirm := if i.val % 2 = 0 then some ⟨i.val / 2, by omega⟩ else none }
    stations := Vector.ofFn fun i => decide (i.val < 3)
    base := { Bank.blank with groups := Vector.ofFn fun i => { level := i.val % 8, load := 100 * i.val } }
    profiles := Vector.ofFn fun i => { Profile.blank with present := decide (i.val < 2) } }

/-- A settled input. -/
def settled (b : Bool) : Filter := { raw := b, filtered := some b, timer := none }

/-- A RUNNING part: G0, G1 and G2 ONLINE, G3 OFFLINE and ready, T0 open, both links SILENT, Profile 0 active. -/
def run0 : State :=
  { State.reset with
    conf := img
    start :=
      { Startup.reset with op := .running, checked := true, adopted := true, store := .sound img, ram := img }
    plant :=
      { Plant.reset with
        gcb := Vector.ofFn fun i => settled (decide (i.val < 3))
        ready := Vector.replicate 8 (settled true)
        trip := Vector.replicate 8 (settled false)
        tie := Vector.replicate 4 (settled false)
        confirm := Vector.replicate 16 (settled false)
        sets := Vector.ofFn fun i => { state := if i.val < 3 then .online else .offline, latch := false }
        partition := some (Vector.ofFn fun x => x)
        freq := Vector.replicate 4 none }
    scan :=
      { Scan.reset with
        round := some 20
        kw := Vector.replicate 8 { window := [6000], validity := .valid, value := 6000, overrange := false }
        sect := Vector.replicate 4
          { volt := 1000, live := .live, record := [], value := 0, valid := false, loss := some 100 } }
    share := { Share.reset with period := some 200 }
    line := { Line.reset with slot := some 25, next := some 0 }
    prof := { Prof.reset with active := img.base, stack := [0] } }

/-- `run0` with its accounts. -/
def run : State := recompute four run0

/-- `s` in another operating state. -/
def inState (o : OpState) (s : State) : State := { s with start.op := o }

/-- `s` with set `g` in another state and its latch as given. -/
def withSet (g : Fin 8) (st : SetState) (latch : Bool) (s : State) : State :=
  updSet g (fun _ => { state := st, latch := latch }) s

/-- `s` with group `g` in another state. -/
def withGroup (g : Fin 32) (st : GroupState) (s : State) : State := updGroup g (fun r => { r with state := st }) s

/-- A request for G3, or for T0, in the given stage. -/
def req (o : SyncObj) (st : SyncStage) : SyncReq :=
  { newReq SyncCfg.default o .a 0 none none false with stage := st, pass := some 100, confirm := some 1000, pulse := some 300 }

/-- `s` with that request in flight. -/
def withReq (o : SyncObj) (st : SyncStage) (s : State) : State := { s with sync.req := some (req o st) }

/-- `s` with link B ACTIVE. -/
def withB (s : State) : State := { s with link.b.active := true, link.b.timer := some 3000 }

/-- `s` with an entry in flight to profile 1. -/
def entering (fail : Option Nat) (s : State) : State :=
  { s with prof.entry := some { command := .enter, target := 1, block := Settings.default, fail := fail, saved := Bank.blank } }

/-- An entry of station 1, consumer 2 on S0. -/
def entry (st : EntryState) : Entry where
  station := 0
  consumer := 2
  sect := 0
  kw := 100
  level := 3
  hold := 60
  state := st
  arrival := 1
  remaining := 1000

/-- `s` with that entry in its queue. -/
def withEntry (st : EntryState) (s : State) : State := { s with resv.queue := [entry st], resv.counter := 2 }

/-- A response waiting on no reset. -/
def resp : Response := { kind := 1, seq := 0#8, status := .done, mark := 0, data := [], resets := false }

/-- A round of equal codes. -/
def codes (c : Nat) : Samples where
  kw := Vector.replicate 8 c
  secv := Vector.replicate 4 c
  vin := c
  vref := c

/-- The state a command answers, or the state it was given. -/
def after (c : Instr) (s : State) : State :=
  match exec c s with
  | .next t => t
  | .fault _ => s
  | .refused _ => s

/-! ### Ill-formed commands are refused by the check -/

theorem test_wf_code_above_12_bits :
    (Instr.roundTimerExpiry (codes 4096)).wf = false ∧ (Instr.roundTimerExpiry (codes 4095)).wf = true := by
  decide +kernel

theorem test_wf_too_many_fields :
    (Instr.shed .a 0#8 (List.replicate 299 0#8)).wf = false ∧ (Instr.shed .a 0#8 (List.replicate 298 0#8)).wf = true := by
  decide +kernel

theorem test_wf_too_many_following :
    (Instr.frameDiscarded .a (List.replicate 305 0#8)).wf = false ∧
    (Instr.frameTimerExpiry .a (List.replicate 305 0#8)).wf = false ∧
    (Instr.frameDiscarded .a (List.replicate 304 0#8)).wf = true := by decide +kernel

theorem test_wf_known_kind :
    (Instr.unknownKind .a 16#8 0#8).wf = false ∧ (Instr.unknownKind .a 15#8 0#8).wf = true := by decide +kernel

theorem test_no_row_has_bits : Sys2Proof.decodeTableWord 8 0 = none ∧ run.withFetchWord 8 0 = run := ⟨rfl, rfl⟩

/-! ### Worked examples of the manual -/

/-- 11 section 11.1: the CRC-16 of the nine characters "123456789". -/
theorem test_crc16 :
    crc16 [0x31#8, 0x32#8, 0x33#8, 0x34#8, 0x35#8, 0x36#8, 0x37#8, 0x38#8, 0x39#8] = 0x29B1#16 := by decide +kernel

/-- 02 R28: the table of samples for a full scale of 15,000 kW. -/
theorem test_kw_samples :
    [700, 780, 819, 1000, 2457, 3276, 4049, 4050].map (kwSample 15000) =
      [none, some 0, some 0, some 828, some 7500, some 11250, some 14789, some 15000] := by decide +kernel

/-- 02 section 2.3: the readings of rounds 1 to 9. -/
theorem test_wire_break_and_recovery :
    let c0 : KwChan := { window := [6200, 6200, 6196, 6204], validity := .valid, value := 6200, overrange := false }
    let run9 := [2375, 512, 2380, 600, 2381, 2379, 2384, 2382, 4060].foldl (fun c code => c.take 13104 code) c0
    run9 = { window := [6240, 6260, 6252, 13104], validity := .valid, value := 7964, overrange := true } := by
  decide +kernel

/-- 02 R34: nine crossings over 133,333 µs are 60,000 mHz. -/
theorem test_frequency : freqOf 133333 = 60000 := by decide +kernel

/-- 05 section 5.6: level first, then the highest number; a group of level 0 in no order. -/
theorem test_shed_order_head : (shedOrder run 0).take 3 = [25, 17, 9] ∧ (24 : Fin 32) ∉ shedOrder run 0 := by decide +kernel

/-- 01 R20: the account of island 0 with G0 and G1 at 6,000 kW each. -/
theorem test_account :
    (run.plant.accounts[(0 : Fin 4)]).map (fun a => (a.load, a.cap, a.fast, a.spare, a.dead)) =
      some (12000, 21600, 26400, 9600, false) := by decide +kernel

/-- 11 R173: a reply is classified by its length, its code and its CRC. -/
theorem test_reply_classes :
    classify ([0x22#8] ++ crcChars [0x00#8, 0x22#8]) = some (.accept 2) ∧
    classify ([0x22#8] ++ crcChars [0x01#8, 0x22#8]) = none ∧ classify [] = none := by decide +kernel

/-! ### One step of a few commands -/

theorem test_shed_command :
    let t := after (.shed .a 7#8 [24#8]) (withGroup 24 .connected run)
    t.shedOut 24 = true ∧ t.shed.groups[(24 : Fin 32)].confirm = some 1000 ∧
      t.link.b.notices.map (·.kind) = [.linkActive, .supervisionMode, .manualShed] := by decide +kernel

theorem test_set_loss_sheds :
    let s := { run with plant.trip := put run.plant.trip 0 { raw := true, filtered := some false, timer := some 0 } }
    let t := after (.filterTimerExpiry (.setTrip 0)) s
    t.plant.sets[(0 : Fin 8)] = { state := .tripped, latch := true } ∧ t.biasOut 0 = 10 ∧
      t.link.a.notices.map (·.kind) = [.setTripped] := by decide +kernel

theorem test_connect_set :
    let t := after (.connectSet .b 1#8 [3#8, 0#8, 0#8]) run
    t.selector = 3 ∧ t.plant.sets[(3 : Fin 8)].state = .incoming := by decide +kernel

theorem test_hold_then_reset :
    let t := after (.hold .a 1#8 [0#8, 5#8]) run
    t.start.op = .held ∧ t.share.period = none ∧ (after .powerOnReset t).start.op = .starting := by decide +kernel

theorem test_start_from_the_store :
    let s := { State.reset with start.store := .sound img }
    let t := after .imageCheck s
    t.conf = img ∧ t.link.a.notices.map (·.kind) = [.started] ∧ t.scan.round = some 20 := by decide +kernel

/-! ### States and operands that meet the hypotheses of the statements, clause by clause -/

/-- The link takes requests. -/
theorem takes_run : Takes .a run ∧ Takes .b (withB run) := ⟨⟨by decide +kernel, by decide +kernel⟩, by decide +kernel, by decide +kernel⟩

theorem hyp_StepTakesFrontCommand :
    ({ run with pending := [.lossOfPower, .adoption] } : State).pending = .lossOfPower :: [.adoption] := rfl

theorem hyp_IdleStepPassesOneMs :
    State.reset.pending = [] ∧ State.reset.alive = true ∧ (after .lossOfPower State.reset).alive = false ∧
    (after .lossOfPower State.reset).pending = [] := by decide +kernel

/-- `s` with the DONE of a joint RESET being sent on link A. -/
def sendingReset (s : State) : State := { s with link.a.sending := some { resp with resets := true } }

theorem hyp_WarmResetKeepsSheddingAndBiases :
    (run.start.power = true ∧ run.start.resetLine = false) ∧
    ((sendingReset run).link.get .a).sending = some { resp with resets := true } ∧
    (after .resetLineAsserted run).start.resetLine = true ∧
    (after .lossOfPower run).start.resetLine = false ∧ (after .lossOfPower run).start.power = false := by decide +kernel

theorem hyp_LossOfPowerCutsStoreWrite :
    ({ run with start.storeOp := some img } : State).start.storeOp.isSome = true ∧ run.start.storeOp = none := by
  decide +kernel

/-- A part in STARTING before its image check, with a sound store. -/
def booting : State := { State.reset with start.store := .sound img }

theorem hyp_ImageCheckOutcomes :
    (booting.alive = true ∧ booting.start.op = .starting ∧ booting.start.checked = false ∧
      booting.start.store = .sound img) ∧
    (State.reset.alive = true ∧ State.reset.start.op = .starting ∧ State.reset.start.checked = false ∧
      State.reset.start.store = .broken ∧ State.reset.start.adoptWait = none) := by decide +kernel

/-- A part whose adoption is ready: in HELD after a RESUME, with G1 TRIPPED and G0 and G2 ONLINE. -/
def adopting : State :=
  { withSet 1 .tripped true (inState .held run) with
    start.adoptWait := some 0, shed.groups := upd run.shed.groups 5 fun r => { r with out := true } }

theorem hyp_AdoptionTakesThePlant :
    adoptReady adopting = true ∧ setPresent adopting 7 = false ∧
    (setPresent adopting 1 = true ∧ keepsState adopting 1 = true) ∧
    (setPresent adopting 0 = true ∧ keepsState adopting 0 = false) ∧
    ((after .adoption adopting).plant.sets[(0 : Fin 8)].state = .online ∧
      (after .adoption adopting).plant.sets[(3 : Fin 8)].state = .offline) ∧
    (groupPresent (after .adoption adopting) 5 = true ∧ adopting.shedOut 5 = true) ∧
    groupPresent (after .adoption adopting) 31 = false ∧ adopting.shedOut 4 = false := by decide +kernel

theorem hyp_AdoptionTakesThePlant_polling :
    listedStations adopting = [0, 1, 2] ∧
    adoptReady { adopting with conf.stations := Vector.replicate 12 false } = true ∧
    listedStations { adopting with conf.stations := Vector.replicate 12 false } = [] := by decide +kernel

/-- An INCOMING set whose request is in CLOSE and an UNLOADING set in OPENING, kept at the adoption. -/
theorem hyp_AdoptionTakesThePlant_kept :
    let s := withReq (.set 3) .close (withSet 3 .incoming false
      (updShare 0 (fun r => { r with unload := .opening, k := 3 }) (withSet 0 .unloading false adopting)))
    adoptReady s = true ∧ setPresent s 3 = true ∧ setPresent s 0 = true ∧ keepsState s 3 = true ∧ keepsState s 0 = true ∧
    (after .adoption s).plant.sets[(3 : Fin 8)].state = .incoming ∧
    (after .adoption s).plant.sets[(0 : Fin 8)].state = .unloading := by decide +kernel

/-- Adoptions that are not due: a round still to come, an entry in flight, no entry completed, an input unsettled, and none
awaited; and sets that RESUME does not keep, an INCOMING one without a request in CLOSE and an UNLOADING one in RAMPING. -/
theorem hyp_AdoptionTakesThePlant_due :
    (∀ s ∈ [{ adopting with start.adoptWait := some 1 }, entering none adopting, { adopting with prof.stack := [] },
        setFilter (.confirm 15) { raw := true, filtered := none, timer := some 1 } adopting, run], adoptReady s = false) ∧
    adopting.start.op = .held ∧
    keepsState (withReq (.set 3) .phase (withSet 3 .incoming false adopting)) 3 = false ∧
    keepsState (updShare 0 (fun r => { r with unload := .ramping }) (withSet 0 .unloading false adopting)) 0 = false ∧
    keepsState (withSet 1 .tripped true run) 1 = false := by decide +kernel

/-- `s` with `n` responses waiting on link A. -/
def withWaiting (n : Nat) (s : State) : State :=
  { s with link.a.sending := some resp, link.a.waiting := List.replicate n resp }

theorem hyp_RequestsTurnedAwayAtTheLink :
    let form : RequestForm := { link := .a, kind := 32, seq := 0#8, fields := [], widths := some [.w1] }
    requestForm (.shed .a 0#8 []) = some form ∧ State.reset.started = false ∧
    (run.started = true ∧ 4 ≤ ((withWaiting 4 run).link.get .a).waiting.length) ∧
    ((withWaiting 3 run).link.get .a).waiting.length < Config.responseCap ∧
    form.fields.length ≠ widthSum [.w1] := by decide +kernel

/-- The lengths 300 and 301 on either side of the range (09 R153), and a start character among a long request's length
characters, which the search takes up. -/
theorem hyp_RequestsTurnedAwayAtTheLink_length :
    (¬ 300 < (List.replicate 298 (0#8 : Byte)).length + 2 ∧ 300 < (List.replicate 299 (0#8 : Byte)).length + 2) ∧
    (requestForm (.shed .a 0#8 (List.replicate 299 0#8))).isSome = true ∧
    ((0xA5#8 : Byte) ∉ writeField .w2 (301 : Nat) ∧ (0xA5#8 : Byte) ∈ writeField .w2 (421 : Nat)) := by decide +kernel

/-- `s` with a frame being gathered on link A. -/
def gathering (s : State) : State := { s with link.a.frame := some 20 }

/-- A request of the longest length that its two length characters can say. -/
theorem hyp_RequestsTurnedAwayAtTheLink_longest :
    ∃ fields : List Byte, ∃ r, requestForm (.shed .a 0#8 fields) = some r ∧ 300 < r.fields.length + 2 ∧
      r.fields.length + 2 = 65535 := by
  obtain ⟨fields, h⟩ : ∃ fields : List Byte, fields.length = 65533 := ⟨List.replicate 65533 0#8, List.length_replicate⟩
  exact ⟨fields, _, rfl, by dsimp only; omega, by dsimp only; omega⟩

/-- A start character kept for a further frame whose length is then found out of range is discarded in its turn: the next
start character opens a frame. One that its characters do not complete goes on being gathered. -/
theorem test_search_drops_a_bad_length :
    let crc := crcChars [0#8, 5#8, 1#8, 1#8, 0xA5#8, 0#8, 0#8]
    ((after (.frameDiscarded .a ([0#8, 5#8, 1#8, 1#8, 0xA5#8, 0#8, 0#8] ++ crc.map (· + 1#8))) (gathering run)).link.get .a).frame
      = none ∧
    ((after (.frameDiscarded .a [0#8, 0#8, 0xA5#8, 0#8]) (gathering run)).link.get .a).frame = some 20 := by decide +kernel

theorem hyp_ValidFrameLiveness :
    ((withB run).link.get .b).active = true ∧
    (((withB run).link.get .a).active = false ∧ ((withB run).link.get Link.a.other).active = true) ∧
    ((run.link.get .a).active = false ∧ (run.link.get Link.a.other).active = false) := by decide +kernel

theorem hyp_ResponsesInOrder :
    (run.link.get .a).sending = none ∧
    (((withWaiting 1 run).link.get .a).sending = some resp ∧ resp.resets = false ∧
      ((withWaiting 1 run).link.get .a).waiting = resp :: []) ∧
    ((withWaiting 0 run).link.get .a).waiting = [] := by decide +kernel

theorem hyp_FramesOpenAndAreDiscarded :
    (run.started = true ∧ (run.link.get .a).frame = none) ∧ State.reset.started = false ∧
    ((gathering run).link.get .a).frame = some 20 := by decide +kernel

/-- The gathering of a frame at the ends of the length range: 1 and 301 discard, 2 and 300 do not; a frame one character
short is incomplete, a whole one is valid or discarded by its CRC-16. -/
theorem hyp_FramesOpenAndAreDiscarded_lengths :
    (((0#8 : Byte) ++ (1#8 : Byte)).toNat < 2 ∧ ((0#8 : Byte) ++ (2#8 : Byte)).toNat = 2 ∧
      ((1#8 : Byte) ++ (44#8 : Byte)).toNat = 300 ∧ 300 < ((1#8 : Byte) ++ (45#8 : Byte)).toNat) ∧
    (gathered [0#8, 1#8] = some .discarded ∧ gathered [1#8, 45#8] = some .discarded) ∧
    (gathered [0#8, 2#8, 1#8, 0#8, 0#8] = some .incomplete ∧ [1#8, 0#8, (0#8 : Byte)].length < 2 + 2) ∧
    gathered (requestChars 1#8 0#8 []) = some .valid ∧
    gathered [0#8, 2#8, 1#8, 0#8, 0#8, 0#8] = some .discarded ∧
    ([0#8, (0#8 : Byte)].length = 2 ∧ [1#8, (0#8 : Byte)].length = 2) ∧ (0xA5#8 : Byte) ∉ [0#8, 1#8] := by decide +kernel

/-- The search for frames: characters without a start character, a frame that they do not complete, one whose length is out
of range, and a whole one with a good and with a bad CRC-16. -/
theorem hyp_FramesOpenAndAreDiscarded_search :
    (0xA5#8 : Byte) ∉ [0#8, 1#8] ∧ gathered [0#8, 2#8, 1#8] = some .incomplete ∧
    (((0#8 : Byte) ++ (1#8 : Byte)).toNat < 2 ∧ 300 < ((1#8 : Byte) ++ (45#8 : Byte)).toNat) ∧
    (((0#8 : Byte) ++ (3#8 : Byte)).toNat = [7#8].length + 2 ∧ [(7#8 : Byte)].length + 2 ≤ 300 ∧
      (crcChars [0#8, 3#8, 32#8, 0#8, 7#8]).length = 2 ∧
      [0#8, 0#8] ≠ crcChars [0#8, 3#8, 32#8, 0#8, 7#8] ∧ [(0#8 : Byte), 0#8].length = 2) := by decide +kernel

theorem hyp_LinkTimerExpirySilences :
    let one := after (.unknownKind .a 0#8 0#8) run
    let both := after (.unknownKind .b 0#8 0#8) one
    (one.link.get .a).timer = some 3000 ∧ (one.link.get Link.a.other).active = false ∧
    (both.link.get .a).timer = some 3000 ∧ (both.link.get Link.a.other).active = true := by decide +kernel

theorem hyp_AttnFollowsQueues :
    (run.start.power = true ∧ run.start.resetLine = false) ∧
    (State.reset.alive = true ∧ State.reset.start.op = .starting ∧ State.reset.start.checked = false ∧
      (State.reset.link.get .a).notices = [] ∧ (State.reset.link.get .b).notices = []) := by decide +kernel

theorem hyp_AttnFollowsQueues_joint_reset : SendsReset .a (sendingReset run) :=
  ⟨{ resp with resets := true }, by decide +kernel, rfl⟩

theorem hyp_ReadNoticesRemovesEight : Takes .a run ∧ Takes .a (withWaiting 3 run) :=
  ⟨⟨by decide +kernel, by decide +kernel⟩, by decide +kernel, by decide +kernel⟩

theorem hyp_ReadsChangeNothing : Takes .b (withB (inState .unconfigured run)) := ⟨by decide +kernel, by decide +kernel⟩

/-- A part in HELD with a store write in flight. -/
def writing : State := { inState .held run with start.storeOp := some img }

theorem hyp_JointStateChecks :
    (inState .held run).running = false ∧ (run.running = true ∧ (entering none run).entering = true) ∧
    run.start.op ≠ .held ∧ ({ inState .held run with start.ram.general.nominal := 0 } : State).start.ram.check = some 1 ∧
    (inState .starting run).start.op = .starting ∧ (writing.start.op ≠ .starting ∧ writing.start.storeOp.isSome = true) ∧
    (run.link.joint = none ∧ (run.link.get Link.a.other).active = false) ∧
    (run.running = true ∧ run.entering = false) ∧
    ((inState .held run).start.op = .held ∧ (inState .held run).start.ram.check = none) ∧
    (run.start.op ≠ .starting ∧ run.start.storeOp = none) := by decide +kernel

/-- `run` with a joint HOLD of tag 5 pending from link A. -/
def pendingHold : State := { run with link.joint := some { cmd := .hold, tag := 5, origin := .a, window := 2000 } }

theorem hyp_JointAgreement :
    (jointCheck run .hold = none ∧ run.link.joint = none ∧ ((withB run).link.get Link.a.other).active = true) ∧
    (jointCheck pendingHold .hold = none ∧ jointCheck pendingHold .reset = none ∧
      pendingHold.link.joint = some { cmd := .hold, tag := 5, origin := .a, window := 2000 }) ∧
    JointCmd.reset ≠ .hold ∧ Link.b ≠ .a := by decide +kernel

theorem hyp_HoldAndResume :
    (withReq (.set 3) .select run).sync.req = some (req (.set 3) .select) ∧ (req (.set 3) .select).stage ≠ .close ∧
    (withReq (.set 3) .close run).sync.req = some (req (.set 3) .close) ∧ (req (.set 3) .close).stage = .close ∧
    run.start.ram.stations[(3 : Fin 12)] = false := by decide +kernel

theorem hyp_HoldAndResume_unloads_and_polling :
    (let s := updShare 0 (fun r => { r with unload := .ramping }) (withSet 0 .unloading false run)
     s.plant.sets[(0 : Fin 8)].state = .unloading ∧ s.share.sets[(0 : Fin 8)].unload = .ramping) ∧
    run.start.ram.stations[(0 : Fin 12)] = true ∧
    (∀ x : Fin 12, ({ run with start.ram.stations := Vector.replicate 12 false } : State).start.ram.stations[x] = false) ∧
    (resumePart run).line.next = some 0 := by decide +kernel

/-- HOLD with an entry of each state and of another consumer, and with a request before CLOSE; RESUME with an entry of a
listed station and of one that is not. -/
theorem hyp_HoldAndResume_answers :
    let other : Entry := { entry .active with consumer := 1, arrival := 2 }
    let far : Entry := { entry .active with station := 11, arrival := 3 }
    let s : State := { withReq (.set 3) .select run with resv.queue := [entry .offered, other, far] }
    (entry .offered ∈ s.resv.queue ∧ (entry .offered).state ≠ .active ∧ other.state = .active) ∧
    (((holdPart s).line.stations[(0 : Fin 12)]).answers[(2 : Fin 4)] = some { answer := .held, delivered := false } ∧
      ((holdPart s).line.stations[(0 : Fin 12)]).answers[(1 : Fin 4)] = none) ∧
    ((holdPart s).link.a.notices.map fun n => (n.kind, n.value)) = [(.stateChanged, some 2), (.syncAborted, some 6)] ∧
    ((holdPart s).link.get .a).overflow = false ∧
    (s.start.ram.stations[(0 : Fin 12)] = true ∧ other ∈ s.resv.queue ∧ s.start.ram.stations[(11 : Fin 12)] = false) ∧
    ∀ e ∈ s.resv.queue, ¬ (e.station = 1 ∧ e.consumer = 0) := by decide +kernel

theorem hyp_StoreWrites :
    ({ run with start.ram.general.deadThr := 801 } : State).start.ram.check = some 1 ∧ run.start.ram.check = none ∧
    writing.start.storeOp = some img ∧ run.start.storeOp = none := by decide +kernel

/-- Images that fail a check first, at a value just beyond its bound, and ones that pass them all. Check 2 is no first failure:
the ranges of check 1 keep the thresholds 100 apart. -/
theorem hyp_StoreWrites_checks :
    ({ img with general.agreeWindow := 999 }).check = some 1 ∧
    (img.check = none ∧ ({ img with general.liveThr := 500, general.deadThr := 400 }).check = none ∧
      ({ img with general.liveThr := 450, general.deadThr := 400 }).check = some 1) ∧
    (({ img with base.sets := upd img.base.sets 2 fun b => { b with base := 8000 } }).check = none ∧
      ({ img with base.sets := upd img.base.sets 2 fun b => { b with base := 8001 } }).check = some 3) ∧
    ({ img with general.initialProfile := 2 }).check = some 4 ∧
    ({ img with profiles := upd img.profiles 1 fun r => { r with initial.underDwell := 10000, initial.overDwell := 9999 } }).check
      = some 5 ∧
    (let patched (on : Bool) (first : Nat) : Image :=
      { img with
        profiles := upd img.profiles 1 fun r => { r with patch := on, patches := [.sets first (List.replicate 2 { mode := .base, base := 8001 })] } }
     (patched true 7).check = some 6 ∧ (patched true 6).check = some 6 ∧ (patched false 7).check = none ∧
       (patched true 0).check = none) := by decide +kernel

theorem hyp_RawInputRunsItsFilter :
    (getFilter State.reset (.setTrip 7)).filtered = none ∧ run.started = true ∧
    (getFilter run (.confirm 15)).filtered = some false ∧ PlantInput.confirm 14 ≠ .confirm 15 := by decide +kernel

/-- `s` with the filter of an input about to end. -/
def ending (i : PlantInput) (raw : Bool) (f : Option Bool) (s : State) : State :=
  setFilter i { raw := raw, filtered := f, timer := some 1 } s

theorem hyp_FilterExpiryTakesRawLevel :
    (getFilter (ending (.setTrip 0) true none run) (.setTrip 0)).timer = some 1 ∧
    (getFilter (ending (.setTrip 0) true none run) (.setTrip 0)).filtered = none ∧
    (getFilter (ending (.tieStatus 3) true (some true) run) (.tieStatus 3)).filtered = some true ∧
    (getFilter (ending (.gcbStatus 0) false (some true) run) (.gcbStatus 0)).filtered = some true := by decide +kernel

/-- The other inputs: SET-READY of a set with a request before and in its CLOSE, CONFIRM of group 30 in both of its states,
in RUNNING and HELD, and TIE-STATUS of T0 and of T3, which is not usable. -/
theorem hyp_FilterExpiryTakesRawLevel_owners :
    (let s := withReq (.set 3) .select run
     s.sync.req = some (req (.set 3) .select) ∧ (req (.set 3) .select).obj = .set 3 ∧ (req (.set 3) .select).stage ≠ .close ∧
      (req (.set 3) .close).stage = .close) ∧
    ((img.groups[(30 : Fin 32)]).confirm = some 15 ∧ groupPresent run 30 = true ∧
      (withGroup 30 .shedPending run).shed.groups[(30 : Fin 32)].state = .shedPending ∧
      (withGroup 30 .shed run).shed.groups[(30 : Fin 32)].state = .shed ∧ run.running = true ∧
      (inState .held run).running = false) ∧
    (tieUsable run 3 = false ∧ tieUsable run 0 = true ∧ State.reset.plant.partition = none) := by decide +kernel

/-- T0 closing as a tie close, as a ring close and by another hand: the partition changes or stands, the request is for T0
in CLOSE or earlier, or for a set whose island moves or stands. -/
theorem hyp_FilterExpiryTakesRawLevel_partition :
    let shut := setFilter (.tieStatus 0) (settled true) run
    let joined : State := { shut with plant.partition := some (computePartition shut) }
    (shut.plant.partition = some (computePartition run) ∧ computePartition shut ≠ computePartition run) ∧
    (joined.plant.partition = some (computePartition joined) ∧ shut.plant.tie[(0 : Fin 4)].filtered = some true ∧
      run.plant.tie[(0 : Fin 4)].filtered ≠ some true ∧ (req (.tie 0) .close).obj = .tie 0) ∧
    ((req (.tie 0) .close).sections.any (movesIsland (computePartition run) (computePartition shut)) = true ∧
      (req (.tie 0) .close).stage = .close ∧ (req (.tie 0) .matching).stage ≠ .close) ∧
    { req (.set 3) .matching with refSect := 3 }.sections.any
      (movesIsland (computePartition run) (computePartition shut)) = false := by decide +kernel

/-- The partitions of a plant of four sections whose ring is open at `k`, whole, and all open; and of one whose S1 is not
present, which a closed tie does not join. -/
theorem test_partitions :
    let ring (open' : Fin 4 → Bool) : State :=
      { run with
        conf.sections := Vector.replicate 4 { present := true, deadClose := true },
        conf.ties := Vector.replicate 4 { present := true, deadClose := true },
        plant.tie := Vector.ofFn fun k => settled (!open' k) }
    let less (s : State) : State := { s with conf.sections := upd s.conf.sections 1 fun c => { c with present := false } }
    (∀ k : Fin 4, (computePartition (ring fun j => decide (j = k))).toList = [0, 0, 0, 0]) ∧
    (computePartition (ring fun _ => false)).toList = [0, 0, 0, 0] ∧
    (computePartition (ring fun _ => true)).toList = [0, 1, 2, 3] ∧
    (computePartition (ring fun j => decide (j = 0 ∨ j = 2))).toList = [0, 1, 1, 0] ∧
    (computePartition (less (ring fun j => decide (j = 3)))).toList = [0, 1, 2, 2] := by decide +kernel

/-- The queue law holds with an OFFERED entry, so the clauses on returned offers are not empty. -/
theorem hyp_offers_return :
    QueueLaw (withEntry .offered run) ∧ (entry .offered).state = .offered ∧
    (entry .offered).island (withEntry .offered run) = some 0 :=
  ⟨⟨by decide +kernel, List.pairwise_singleton _ _, List.pairwise_singleton _ _⟩, rfl, by decide +kernel⟩

theorem hyp_BreakerMovesSet :
    (setPresent run 3 = true ∧ run.operating = true ∧ run.plant.sets[(3 : Fin 8)].state = .offline) ∧
    ((withSet 3 .incoming false run).plant.sets[(3 : Fin 8)].state = .incoming ∧
      (withReq (.set 3) .close run).sync.req = some (req (.set 3) .close) ∧
      (withReq (.set 3) .phase run).sync.req = some (req (.set 3) .phase)) ∧
    (withSet 3 .tripped true run).plant.sets[(3 : Fin 8)].state = .tripped ∧
    run.plant.sets[(0 : Fin 8)].state = .online ∧
    ((withSet 0 .unloading false run).plant.sets[(0 : Fin 8)].state = .unloading ∧
      (withSet 0 .unloading false run).share.sets[(0 : Fin 8)].openWait = none ∧
      (updShare 0 (fun r => { r with openWait := some 5 }) run).share.sets[(0 : Fin 8)].openWait.isSome = true) := by
  decide +kernel

theorem hyp_TripMovesSet :
    (setPresent run 0 = true ∧ run.operating = true ∧ run.plant.sets[(0 : Fin 8)].latch = false ∧
      run.plant.sets[(0 : Fin 8)].state.isOnline = true) ∧
    run.plant.sets[(3 : Fin 8)].state = .offline ∧
    ((withReq (.set 3) .select (withSet 3 .incoming false run)).plant.sets[(3 : Fin 8)].state = .incoming ∧
      (req (.set 3) .select).obj = .set 3) ∧
    (withSet 3 .tripped false run).plant.sets[(3 : Fin 8)].state = .tripped ∧
    ((run.conf.sets[(0 : Fin 8)]).sense = .level ∧ (withSet 0 .tripped true run).plant.sets[(0 : Fin 8)].latch = true) ∧
    (run.conf.sets[(1 : Fin 8)]).sense = .edge := by decide +kernel

theorem hyp_SetLossParksTheSet : (SetState.tripped = .offline ∨ SetState.tripped = .tripped) ∧ (1 : Fin 8) ≠ 0 := by decide

/-- A set whose section has an island, and one before the first partition. -/
theorem hyp_SetLossParksTheSet_island :
    setIsland run 0 = some 0 ∧ setIsland State.reset 0 = none ∧
    (setPresent run 1 = true ∧ setIsland run 1 = some 0 ∧ run.plant.sets[(1 : Fin 8)].state = .online) := by decide +kernel

/-- The account of an island, where it has one. -/
def acct (i : Fin 4) (s : State) : Account := ((recompute four s).plant.accounts[i]).getD (computeAccount s (computePartition s) i false)

/-- `run` with no set online on S1: island 1 is DEAD. -/
def deadOne : State := recompute four (withSet 2 .offline false run0)

theorem hyp_FastShedTakesTheDeficit :
    (walk (fun _ => 100) 101 [3] = ([3], true) ∧ walk (fun _ => 100) 100 [3, 4] = ([3], false)) ∧
    (run.plant.accounts[(0 : Fin 4)] = some (acct 0 run) ∧ run.running = true ∧ (acct 0 run).dead = false ∧
      (26400 : Int) - (acct 0 run).fast - pendingCredit run 0 ≤ 0 ∧
      0 < (26401 : Int) - (acct 0 run).fast - pendingCredit run 0) ∧
    (deadOne.plant.accounts[(1 : Fin 4)] = some (acct 1 deadOne) ∧ (acct 1 deadOne).dead = true) ∧
    (inState .held run).running = false := by decide +kernel

theorem hyp_FastShedTakesTheDeficit_blackout :
    deadOne.running = true ∧ deadOne.plant.accounts[(1 : Fin 4)] = some (acct 1 deadOne) ∧
    (1 : Fin 4) ∈ (acct 1 deadOne).sections ∧ islandOf run 1 = some 1 ∧
    run.plant.accounts[(1 : Fin 4)] = some (acct 1 run) ∧ (acct 1 run).dead = false ∧
    run.plant.accounts[(3 : Fin 4)] = none ∧ islandOf deadOne 1 = some 1 := by decide +kernel

/-- The ways a group opens: no confirm input, one filtered OPEN and one not; and a pending credit of one group, whose island
is 0 alone. -/
theorem hyp_FastShedTakesTheDeficit_credit :
    let shut := setFilter (.confirm 15) (Tests.settled true) run
    ((img.groups[(29 : Fin 32)]).confirm = none ∧ opensAtOnce run 29 = true) ∧
    ((img.groups[(30 : Fin 32)]).confirm = some 15 ∧ opensAtOnce run 30 = false ∧ opensAtOnce shut 30 = true) ∧
    (pendingCredit run 0 = 0 ∧ pendingCredit (withGroup 30 .shedPending run) 0 = 3000 ∧
      pendingCredit (withGroup 30 .shedPending run) 1 = 0 ∧ pendingCredit (withGroup 31 .shedPending run) 0 = 0) := by
  decide +kernel

theorem hyp_ShedAndRestoreCommands :
    Takes .a run ∧ 32 ≤ (32#8 : Byte).toNat ∧ (inState .held run).running = false ∧ groupPresent run 31 = false ∧
    (groupPresent run 30 = true ∧ run.running = true ∧ run.shed.groups[(30 : Fin 32)].state = .connected) ∧
    (∀ st, (withGroup 30 st run).shed.groups[(30 : Fin 32)].state = st ∧ groupPresent (withGroup 30 st run) 30 = true) :=
  ⟨takes_run.1, by decide, by decide +kernel, by decide +kernel, by decide +kernel, fun st => by cases st <;> decide +kernel⟩

theorem hyp_InhibitAndRelease :
    32 ≤ (32#8 : Byte).toNat ∧ (inState .held run).running = false ∧ groupPresent run 31 = false ∧
    (groupPresent run 0 = true ∧ run.shed.groups[(0 : Fin 32)].state = .connected ∧
      run.shed.groups[(0 : Fin 32)].state ≠ .inhibited) ∧
    ((withGroup 0 .inhibited run).shed.groups[(0 : Fin 32)].state = .inhibited ∧
      (withGroup 0 .inhibited run).shed.groups[(0 : Fin 32)].state ≠ .connected) := by decide +kernel

/-- Group 30 in SHED_PENDING with cause `c`, its confirm time about to end. -/
def pendingGroup (c : ShedCause) (s : State) : State :=
  updGroup 30 (fun _ => { state := .shedPending, cause := some c, confirm := some 1, out := true }) s

/-- Group 30 SHED by a fast shed, the restore delay of island 0 running, link B ACTIVE. -/
def restoring : State :=
  let s := updGroup 30 (fun _ => { state := .shed, cause := some .autoFast, confirm := none, out := true }) (withB run)
  { s with shed.restore := put s.shed.restore 0 (some 1) }

theorem hyp_ConfirmAndRestoreTimers :
    (pendingGroup .manual run).shed.groups[(30 : Fin 32)].confirm = some 1 ∧
    (pendingGroup .manual run).shed.groups[(30 : Fin 32)].cause ≠ some .autoFast ∧
    ((pendingGroup .autoFast run).running = true ∧
      (pendingGroup .autoFast run).shed.groups[(30 : Fin 32)].cause = some .autoFast ∧
      groupIsland (pendingGroup .autoFast run) 30 = some 0) ∧
    (restoring.shed.restore[(0 : Fin 4)] = some 1 ∧ gatesHold (elapse 1 restoring) 0 = true ∧
      restoreCandidate (elapse 1 restoring) 0 = some 30) ∧
    gatesHold (elapse 1 (inState .held restoring)) 0 = false := by decide +kernel

/-- A restore order whose first group was shed by command: the candidate is the one after it; and an order without any. -/
theorem hyp_ConfirmAndRestoreTimers_candidate :
    let s := updGroup 23 (fun _ => { state := .shed, cause := some .manual, confirm := none, out := true }) restoring
    (restoreOrder s 0 = [23, 30] ∧ restoreCandidate s 0 = some 30) ∧
    (restoreOrder (withGroup 23 .shed run) 0 = [23] ∧ restoreCandidate (withGroup 23 .shed run) 0 = none) ∧
    restoreOrder run 0 = [] := by decide +kernel

theorem hyp_ConfirmAndRestoreTimers_gates :
    (restoring.running = true ∧ (restoring.plant.accounts[(0 : Fin 4)]).isSome = true ∧
      gatesHold (shedUpdate true 0 restoring) 0 = true) ∧
    (gatesHold (shedUpdate true 0 run) 0 = false ∧ (1 : Fin 4) ≠ 0) ∧
    (groupIsland run 30 = some 0 ∧ gatesHold (shedAction .manual [30] run) 0 = false ∧
      gatesHold (connectGroup 30 restoring) 0 = false) := by decide +kernel

/-- Island 0's dwell about to end, with its account as given. -/
def dwelling (load : Nat) (s : State) : State :=
  { s with
    shed.dwell := put s.shed.dwell 0 { state := .running, kind := some .overload, remaining := 1 },
    plant.accounts := upd s.plant.accounts 0 fun a => a.map fun a => { a with load := load } }

theorem hyp_DwellExpirySheds :
    let calm := dwelling 21600 run
    let laden := dwelling 21601 run
    let none' := dwelling 21601 (inState .running { run with start.adopted := false })
    (calm.shed.dwell[(0 : Fin 4)].state = .running ∧
      calm.plant.accounts[(0 : Fin 4)] = some { acct 0 run with load := 21600 } ∧
      ¬ (acct 0 run).cap < 21600 ∧ Account.under calm { acct 0 run with load := 21600 } = false) ∧
    ((acct 0 run).cap < 21601 ∧ laden.plant.accounts[(0 : Fin 4)] = some { acct 0 run with load := 21601 } ∧
      (shedOrder laden 0).head? = some 25) ∧
    (shedOrder none' 0 = [] ∧ none'.plant.accounts[(0 : Fin 4)] = some { acct 0 run with load := 21601 }) := by
  decide +kernel

/-- Each case of an account update: overload at the load just above the capacity, underfrequency just below the offset,
both and none, with an idle, a running and a frozen timer, and with and without an ACTIVE entry. -/
theorem hyp_DwellExpirySheds_updates :
    let a := acct 0 run
    let under := (50000 - (settings run).underOffset)
    (¬ a.cap < a.load ∧ a.cap < 21601 ∧ ¬ a.cap < 21600) ∧
    (((under - 1 : Nat) : Int) < (run.conf.general.nominal : Int) - ((settings run).underOffset : Int) ∧
      ¬ ((under : Nat) : Int) < (run.conf.general.nominal : Int) - ((settings run).underOffset : Int)) ∧
    (run.shed.dwell[(0 : Fin 4)].state = .idle ∧ (dwelling 0 run).shed.dwell[(0 : Fin 4)].kind = some .overload) ∧
    ((entry .active).island (withEntry .active run) = some 0 ∧ entry .active ∈ (withEntry .active run).resv.queue ∧
      run.resv.queue = []) ∧
    (inState .held run).running = false ∧ run.running = true := by decide +kernel

theorem hyp_KwCodeMovesReading :
    let chan (v : Validity) (n : Nat) : KwChan :=
      { window := List.replicate n 0, validity := v, value := 0, overrange := false }
    (chan .pending 0).validity ≠ .unused ∧ (736 : Nat) ≤ 736 ∧ ¬ (737 : Nat) ≤ 736 ∧ 737 ≤ (737 : Nat) ∧
    (chan .valid 4).validity = .valid ∧ ((chan .invalid 3).take 500 737).window.length = 4 ∧
    ((chan .invalid 2).take 500 737).window.length ≠ 4 := by decide +kernel

theorem hyp_RoundCompletes :
    run.scan.round = some 20 ∧ run.sync.req = none ∧ ({ run with scan.converting := true } : State).scan.converting = true ∧
    State.reset.scan.round = none ∧ (setPresent run 3 = true ∧ setPresent run 4 = false) ∧
    (let g := run.conf.general
     voltOf 656 = 200 ∧ 200 ≤ g.deadThr ∧ (g.deadThr < 201 ∧ 201 < g.liveThr) ∧ (g.deadThr < 800 ∧ g.liveThr ≤ 800) ∧
      (g.deadThr < 750 ∧ g.liveThr ≤ 750 + 50) ∧ 749 + 50 < g.liveThr) := by decide +kernel

theorem hyp_RoundCompletes_accounts :
    (0 : Fin 4) ∈ four ∧ (0 : Fin 4) ∉ ([1] : List (Fin 4)) ∧ State.reset.plant.partition = none ∧
    (let p := computePartition run
     run.plant.partition = some p ∧ (p[(0 : Fin 4)] = 0 ∧ sectPresent run 0 = true) ∧
      (p[(2 : Fin 4)] = 2 ∧ ∀ x : Fin 4, p[x] = 2 → sectPresent run x = false)) ∧
    (let s := setFilter (.tieStatus 0) (settled true) run
     computePartition s = #v[0, 0, 2, 3] ∧ (computePartition s)[(1 : Fin 4)] ≠ 1) := by decide +kernel

/-- VREF at DEAD after a round that began with the selector SETTLED and VREF LIVE, with a request in each stage. -/
theorem hyp_RoundCompletes_reference :
    let s (st : SyncStage) : State :=
      { withReq (.set 3) st (withSet 3 .incoming false run) with
        scan.selector := .settled, scan.converting := true, scan.vref := { volt := 1000, live := .live } }
    ((elapse 20 (s .matching)).sync.req.map (·.stage) = some .matching ∧
      (elapse 20 (s .phase)).sync.req.map (·.stage) = some .phase ∧
      (elapse 20 (s .select)).sync.req.map (·.stage) = some .select ∧
      (elapse 20 (s .close)).sync.req.map (·.stage) = some .close) ∧
    (s .matching).scan.round = some 20 ∧ (elapse 20 run).sync.req = none ∧
    (after (.roundTimerExpiry (codes 0)) (s .select)).scan.vref.live = .dead ∧
    (after (.roundTimerExpiry (codes 0)) (s .matching)).sync.lastAbort = some .lostReference ∧
    (after (.roundTimerExpiry (codes 4000)) (s .matching)).scan.vref.live = .live ∧
    (let v : VoltChan := { volt := 0, live := .live }
     v.live = (run.scan.sect[(0 : Fin 4)]).live) := by decide +kernel

/-- The notices of a round: a wire break of a valid reading, and a full-scale one. -/
theorem test_round_sends :
    let t := after (.roundTimerExpiry (codes 0)) run
    let u := after (.roundTimerExpiry (codes 4095)) run
    (t.link.a.notices.map (·.kind)).take 4 =
      [.readingInvalid, .readingInvalid, .readingInvalid, .readingInvalid] ∧
    (u.link.a.notices.map (·.kind)).take 4 =
      [.readingOverrange, .readingOverrange, .readingOverrange, .readingOverrange] := by decide +kernel

/-- A section channel with `n` crossings recorded 20,000 µs apart, LIVE and valid as given. -/
def sectWith (n : Nat) (valid : Bool) (x : Fin 4) (s : State) : State :=
  { s with scan.sect := upd s.scan.sect x fun c => { c with record := (List.range n).map (20000 * ·), value := 50000, valid := valid } }

theorem hyp_SectionFrequencies :
    (run.started = true ∧ sectPresent run 0 = true) ∧ State.reset.started = false ∧ sectPresent run 3 = false ∧
    ((sectWith 7 false 0 run).scan.sect[(0 : Fin 4)].crossing 100 140000).record.length ≠ 9 ∧
    (let d := (sectWith 8 false 0 run).scan.sect[(0 : Fin 4)].crossing 100 160000
     d.record.length = 9 ∧ d.valid = true ∧ freqOf (spanOf d.record) = 50000) ∧
    (freqOf 200000 = 40000 ∧ freqOf 114285 = 70000 ∧ freqOf 200006 < 40000 ∧ 70000 < freqOf 114284) ∧
    (let d := (sectWith 8 true 0 run).scan.sect[(0 : Fin 4)].crossing 100 400000
     (sectWith 8 true 0 run).scan.sect[(0 : Fin 4)].valid = true ∧ d.valid = false) ∧
    ((sectWith 0 true 1 run).scan.sect[(1 : Fin 4)].loss = some 100 ∧
      (sectWith 0 true 1 run).scan.sect[(1 : Fin 4)].valid = true ∧ run.scan.sect[(1 : Fin 4)].valid = false) := by
  decide +kernel

/-- A synchronising pair in SETTLED with nine reference crossings 20,000 µs apart and a valid f_ref. -/
def measuring (s : State) : State :=
  let c : SyncChan := { record := (List.range 9).map (20000 * ·), freq := some 50000, loss := some 100 }
  { s with scan.selector := .settled, scan.chanIn := c, scan.chanRef := c }

theorem hyp_SyncMeasurements :
    (run.scan.selector = .released ∧ State.reset.started = false) ∧
    ((measuring run).started = true ∧ (measuring run).scan.selector ≠ .released ∧
      ((measuring run).scan.chanRef.crossing 100 180000).freq.isSome = true) ∧
    (let s := measuring (withReq (.set 3) .matching run)
     (fRef s).isSome = true ∧ (s.scan.chanRef.crossing 100 400000).freq = none ∧
      s.sync.req = some (req (.set 3) .matching) ∧ s.scan.chanRef.loss = some 100 ∧ s.scan.chanIn.loss = some 100) ∧
    (fRef { measuring run with scan.selector := .settling }).isNone = true ∧ (measuring run).sync.req = none ∧
    0 < ((List.range 9).map (20000 * ·)).getLastD 0 / 8 := by decide +kernel

theorem hyp_SyncMeasurements_lost_reference :
    let s (st : SyncStage) := measuring (withReq (.set 3) st run)
    ((s .matching).scan.chanRef.loss = some 100 ∧ (fRef (s .matching)).isSome = true ∧
      (s .matching).sync.req = some (req (.set 3) .matching) ∧ (req (.set 3) .phase).stage = .phase) ∧
    ((req (.set 3) .select).stage = .select ∧ (req (.set 3) .close).stage = .close) ∧
    (run.scan.chanIn.loss = none ∧ run.scan.chanRef.loss = none) := by decide +kernel

theorem hyp_ShareTargetsFillThePool :
    let s := { run with share.sets := upd run.share.sets 0 fun r => { r with k := 25 } }
    0 < (figures s 0 none (onlineSets s 0)).prop := by decide +kernel

/-- G0 UNLOADING in RAMPING with a ramp counter of `k`. -/
def ramping (k : Nat) (s : State) : State :=
  updShare 0 (fun r => { r with k := k, unload := .ramping }) (withSet 0 .unloading false s)

theorem hyp_SharingPassSteps :
    run.share.period = some 200 ∧
    (run.plant.accounts[(0 : Fin 4)] = some (acct 0 run) ∧ (acct 0 run).dead = false ∧ (0 : Fin 8) ∈ onlineSets run 0) ∧
    ((ramping 1 run).plant.sets[(0 : Fin 8)].state = .unloading ∧
      (ramping 1 run).share.sets[(0 : Fin 8)].unload = .ramping ∧ rampNext (ramping 1 run) 25 0 = 0 ∧
      rampNext (ramping 2 run) 25 0 ≠ 0) ∧
    run.plant.sets[(3 : Fin 8)].state.isOnline = false := by decide +kernel

/-- The roles, the base target's two cases, share sets with and without a rating to share by, an island with and without
share sets, and the incoming island of a tie request. -/
theorem hyp_SharingPassSteps_figures :
    let full := updShare 0 (fun r => { r with k := 25 }) run
    let modes (m : Mode) : State := { run with prof.active.sets := Vector.replicate 8 { mode := m, base := 4000 } }
    (roleOf run 0 = .share ∧ 0 < (figures full 0 none [0]).prop ∧ (figures run 0 none [0]).prop = 0) ∧
    (roleOf (modes .base) 0 = .base ∧ (figures (modes .base) 0 none [0]).hasShare = false ∧
      (figures { modes .base with prof.active.sets := upd (modes .base).prof.active.sets 1 fun b => { b with mode := .share } }
        0 none [0, 1]).hasShare = true) ∧
    (roleOf (modes .hold) 0 = .held ∧ roleOf (updShare 0 (fun r => { r with unload := .opening })
      (withSet 0 .unloading false run)) 0 = .held) ∧
    (let r : SyncReq := { req (.tie 0) .matching with inIsland := some 1 }
     r.inIsland = some 1 ∧ r.inIsland ≠ some 0) := by decide +kernel

/-- The rows of the ramp counter's table. -/
theorem hyp_SharingPassSteps_ramps :
    (run.plant.sets[(0 : Fin 8)].state = .online ∧ run.prof.active.sets[(0 : Fin 8)].mode = .share ∧
      run.scan.kw[(0 : Fin 8)].validity = .valid ∧ run.share.sets[(0 : Fin 8)].k ≤ 25) ∧
    rampNext (updShare 0 (fun r => { r with k := 24 }) run) 25 0 = 25 ∧
    rampNext (updShare 0 (fun r => { r with k := 25 }) run) 25 0 = 25 ∧
    ({ run with scan.kw := upd run.scan.kw 0 fun c => { c with validity := .invalid } } : State).scan.kw[(0 : Fin 8)].validity
      ≠ .valid ∧
    (updShare 0 (fun r => { r with unload := .opening }) (withSet 0 .unloading false run)).share.sets[(0 : Fin 8)].unload =
      .opening := by decide +kernel

theorem hyp_StepSaturates :
    let at' (b : Int) (c : Sat) : State := updShare 0 (fun r => { r with bias := b, sat := c }) run
    (1000 < (at' 1000 .clear).biasOut 0 + 1 ∧ (at' 1000 .clear).share.sets[(0 : Fin 8)].sat = .clear) ∧
    (at' (-1000) .clear).biasOut 0 - 1 < -1000 ∧
    (-1000 ≤ (at' 1000 .atMax).biasOut 0 + 0 ∧ (at' 1000 .atMax).biasOut 0 + 0 ≤ 1000) ∧
    (at' 0 .atMin).share.sets[(0 : Fin 8)].sat ≠ .clear ∧ (1 : Fin 8) ≠ 0 := by decide +kernel

theorem hyp_UnloadRuns :
    8 ≤ (8#8 : Byte).toNat ∧ setPresent run 7 = false ∧ (setPresent run 0 = true ∧ (inState .held run).running = false) ∧
    (ramping 1 run).share.sets[(0 : Fin 8)].unload ≠ .none ∧
    (run.share.sets[(3 : Fin 8)].unload = .none ∧ run.plant.sets[(3 : Fin 8)].state ≠ .online) ∧
    (run.plant.sets[(2 : Fin 8)].state = .online ∧ setIsland run 2 = some 1 ∧
      run.plant.accounts[(1 : Fin 4)] = some (acct 1 run) ∧ capacitySets run 1 = [2]) ∧
    (setIsland run 0 = some 0 ∧ capacitySets run 0 = [0, 1] ∧ (acct 0 run).isOver = false ∧
      (acct 0 run).cap < (acct 0 run).load + (acct 0 run).resv + 12000 * 900 / 1000) ∧
    (let s := recompute four { run0 with scan.kw := upd run0.scan.kw 0 fun c => { c with value := 4800 } }
     s.plant.accounts[(0 : Fin 4)] = some (acct 0 s) ∧ (acct 0 s).isOver = false ∧
      (acct 0 s).load + (acct 0 s).resv + 12000 * 900 / 1000 = (acct 0 s).cap) ∧
    ((updShare 0 (fun r => { r with openPulse := some 1, openWait := some 1 }) run).share.sets[(0 : Fin 8)].openPulse = some 1 ∧
      (updShare 0 (fun r => { r with openWait := some 1 }) (ramping 1 run)).plant.sets[(0 : Fin 8)].state = .unloading ∧
      (updShare 0 (fun r => { r with openWait := some 1 }) (ramping 1 run)).share.sets[(0 : Fin 8)].openWait = some 1) := by
  decide +kernel

/-- R59: a RAMPING unload in an island that is OVER with a set ONLINE, and in one with none ONLINE; and one in an island
that is neither. -/
theorem hyp_UnloadRuns_aborts :
    let over' := recompute four (ramping 1 { run0 with scan.kw := upd run0.scan.kw 0 fun c => { c with value := 15000 } })
    let alone := recompute four (withSet 1 .offline false (ramping 1 run0))
    let calm := recompute four (ramping 1 { run0 with scan.kw := Vector.replicate 8 (KwChan.mk [] .valid 0 false) })
    ((0 : Fin 8) ∈ onlineSets over' 0 ∧ over'.plant.sets[(0 : Fin 8)].state = .unloading ∧
      over'.share.sets[(0 : Fin 8)].unload = .ramping) ∧
    (over'.plant.accounts[(0 : Fin 4)] = some (acct 0 over') ∧ capacitySets over' 0 = [1] ∧ (acct 0 over').isOver = true) ∧
    (alone.plant.accounts[(0 : Fin 4)] = some (acct 0 alone) ∧ capacitySets alone 0 = [] ∧ (0 : Fin 8) ∈ onlineSets alone 0) ∧
    (calm.plant.accounts[(0 : Fin 4)] = some (acct 0 calm) ∧ capacitySets calm 0 = [1] ∧ (acct 0 calm).isOver = false) ∧
    (3 : Fin 8) ∉ onlineSets over' 0 ∧ (1 : Fin 4) ≠ 0 := by decide +kernel

theorem hyp_ConnectSetChecks :
    8 ≤ (8#8 : Byte).toNat ∧ (inState .held run).running = false ∧
    (run.running = true ∧ (withReq (.tie 0) .select run).sync.req.isSome = true) ∧
    (run.sync.req = none ∧ ((0#8 : Byte) ++ (1#8 : Byte)).toNat ≠ run.plant.generation ∧
      ((0#8 : Byte) ++ (0#8 : Byte)).toNat = run.plant.generation) ∧
    setPresent run 7 = false ∧ (withSet 3 .tripped true run).plant.sets[(3 : Fin 8)].state = .tripped ∧
    (run.plant.sets[(0 : Fin 8)].state ≠ .tripped ∧ run.plant.sets[(0 : Fin 8)].state ≠ .offline) ∧
    (setPresent run 3 = true ∧ run.plant.sets[(3 : Fin 8)].state = .offline ∧
      run.plant.ready[(3 : Fin 8)].filtered = some true ∧ run.gcbOpen 3 = false) := by decide +kernel

theorem hyp_CloseTieChecks :
    4 ≤ (4#8 : Byte).toNat ∧ (inState .held run).running = false ∧
    (withReq (.set 3) .close run).sync.req.isSome = true ∧ ((0#8 : Byte) ++ (1#8 : Byte)).toNat ≠ run.plant.generation ∧
    (((0#8 : Byte) ++ (0#8 : Byte)).toNat = run.plant.generation ∧ tieUsable run 3 = false ∧ tieUsable run 0 = true ∧
      run.plant.tie[(0 : Fin 4)].filtered = some false) ∧
    (setFilter (.tieStatus 0) (settled true) run).plant.tie[(0 : Fin 4)].filtered ≠ some false := by decide +kernel

theorem hyp_SyncRequestEnds :
    (let s := withReq (.set 3) .matching (withSet 3 .incoming false run)
     s.sync.req = some (req (.set 3) .matching) ∧ (req (.set 3) .matching).obj = .set 3 ∧
      s.plant.sets[(3 : Fin 8)].state = .incoming ∧ (req (.set 3) .matching).limit = some 60000 ∧
      (req (.set 3) .phase).stage = .phase) ∧
    ((inState .starting run).operating = false ∧ (run.operating = true ∧ run.sync.req = none) ∧
      (withReq (.tie 0) .select run).sync.req.isSome = true) ∧
    ((req (.tie 0) .close).confirm = some 1000 ∧ (req (.tie 0) .close).pulse = some 300) := by decide +kernel

/-- `run` with live states of the sections and of VIN. -/
def lives (a b v : Live) (s : State) : State :=
  { s with
    scan.sect := upd (upd s.scan.sect 0 fun c => { c with live := a }) 1 fun c => { c with live := b },
    scan.vin.live := v }

theorem hyp_DeadBusTest :
    (withReq (.set 3) .select run).sync.req.bind (·.settle) = some 200 ∧
    busTest (lives .live .live .uncertain run) (.set 3) = .toMatch ∧
    busTest (lives .live .dead .dead run) (.set 3) = .abort .bothDead ∧
    busTest (lives .live .dead .live deadOne) (.set 3) = .toClose ∧
    busTest (lives .live .dead .live run) (.set 3) = .abort .noDeadBus ∧
    busTest (lives .live .live .dead run) (.tie 0) = .toMatch ∧
    busTest (lives .live .dead .dead deadOne) (.tie 0) = .toClose ∧
    busTest (lives .live .uncertain .dead deadOne) (.tie 0) = .abort .noDeadBus := by decide +kernel

theorem hyp_SyncPassActs :
    let s := measuring (withReq (.set 3) .matching (withSet 3 .incoming false run))
    let c := { s with scan.vin := { volt := 1000, live := .live }, scan.vref := { volt := 1000, live := .live } }
    (s.sync.req.bind (·.pass) = some 100 ∧ (elapse 100 s).sync.req = some ((req (.set 3) .matching).elapse 100)) ∧
    (coarseHolds s (req (.set 3) .matching) = false ∧ coarseHolds c (req (.set 3) .matching) = true) ∧
    ((coarseStep c { req (.set 3) .phase with qual := 2 }).coarse = true ∧
      (coarseStep c { req (.set 3) .phase with qual := 1 }).coarse = false) ∧
    (req (.set 3) .close).stage = .close := by decide +kernel

/-- The fine lock's conditions: an angle nearing zero inside the window, and for a ring close an angle at the window's edge
and one degree past it. -/
theorem hyp_SyncPassActs_fine_lock :
    let s (a : Int) : State := { measuring run with scan.phi := some a }
    let r := { req (.set 3) .phase with prev := some (-30) }
    let ring : SyncReq := { r with ringClose := true }
    (r.ringClose = false ∧ (fineStep (s (-10)) r).fine = true ∧ (fineStep (s (-30)) r).fine = false) ∧
    ((fineStep (s r.par.phaseWindow) ring).ringQual = 1 ∧ (fineStep (s (r.par.phaseWindow + 1)) ring).ringQual = 0 ∧
      ring.ringClose = true) := by decide +kernel

/-- The closing pass of a set, and the edges of both locks under each setting that sends them. -/
theorem hyp_SyncPassActs_close :
    let s : State := { measuring (withReq (.set 3) .phase (withSet 3 .incoming false run)) with
      scan.phi := some (-10), scan.vin := { volt := 1000, live := .live }, scan.vref := { volt := 1000, live := .live },
      sync.req := some { req (.set 3) .phase with
        qual := 2, prev := some (-30), par := { SyncCfg.default with coarseEdges := .both, fineEdges := .rise } } }
    let t := after .syncPass s
    (s.sync.req.bind (·.pass) = some 100 ∧ t.sync.req.map (·.stage) = some .close ∧ t.gcbClose 3 = true) ∧
    (t.link.a.notices.map fun n => (n.kind, n.subject, n.value)) =
      [(.syncLock, some 0, some 1), (.syncLock, some 1, some 1)] ∧
    slipOf run = none ∧ (slipOf s).isSome = true ∧ (req (.set 3) .phase).ringClose = false := by decide +kernel

/-- 04 section 4.7: φ of −10 degrees at a slip of 55 mHz, 80 ms ahead; and an angle brought back into range. -/
theorem test_predicted_angle : predicted (-10) 55 80 = -8 ∧ predicted 179 50 80 = -180 := by decide +kernel

theorem hyp_ClearTripChecks :
    8 ≤ (8#8 : Byte).toNat ∧ setPresent run 7 = false ∧ (setPresent run 0 = true ∧ (inState .held run).running = false) ∧
    run.plant.sets[(0 : Fin 8)].state ≠ .tripped ∧
    ((withSet 0 .tripped true run).plant.sets[(0 : Fin 8)].state = .tripped ∧
      run.plant.gcb[(0 : Fin 8)].filtered ≠ some false) ∧
    ((withSet 3 .tripped true run).plant.sets[(3 : Fin 8)].state = .tripped ∧
      run.plant.gcb[(3 : Fin 8)].filtered = some false ∧ (run.conf.sets[(3 : Fin 8)]).sense = .edge) ∧
    ((run.conf.sets[(0 : Fin 8)]).sense = .level ∧
      (setFilter (.gcbStatus 0) (settled false) run).plant.gcb[(0 : Fin 8)].filtered = some false ∧
      (setFilter (.setTrip 0) (settled true) run).plant.trip[(0 : Fin 8)].filtered = some true ∧
      run.plant.trip[(0 : Fin 8)].filtered ≠ some true) := by decide +kernel

theorem hyp_BankedWrites :
    (8 ≤ (8#8 : Byte).toNat ∧ 3 ≤ (3#8 : Byte).toNat ∧ 32 ≤ (32#8 : Byte).toNat) ∧
    ((7#8 : Byte).toNat = (7 : Fin 8).val ∧ (2#8 : Byte).toNat = Mode.hold.code ∧ setPresent run 7 = false) ∧
    (setPresent run 3 = true ∧ (inState .held run).running = false ∧ run.running = true ∧ run.entering = false ∧
      (entering none run).entering = true) ∧
    ((31#8 : Byte).toNat = (31 : Fin 32).val ∧ groupPresent run 31 = false ∧ groupPresent run 30 = true) := by
  decide +kernel

theorem hyp_BankedWrites_level : groupLevel run 30 = 6 ∧ (6 : Nat) = min 7 (6#8 : Byte).toNat ∧
    groupLevel run 30 ≠ min 7 (5#8 : Byte).toNat ∧ groupIsland run 30 = some 0 := by decide +kernel

theorem hyp_PollSlotsRun :
    (run.line.slot = some 25 ∧ run.line.next = some 0) ∧ (stationAfter run 2 = some 0 ∧ stationAfter run 0 = some 1) ∧
    stationAfter State.reset 0 = none ∧ (({ run with line.poll := some [] } : State).line.poll = some [] ∧ run.line.poll = none) := by
  decide +kernel

/-- A poll frame with an OFFER, which carries the entry's figures, and a REFUSED FULL. -/
theorem hyp_PollSlotsRun_answers :
    let s := answer 0 3 (.refused .full) (answer 0 2 .offer (withEntry .offered run))
    (findEntry s 0 2 = some (entry .offered) ∧ findEntry s 0 3 = none) ∧
    pendingAnswers s 0 = [[0x22#8, 0#8, 100#8, 3#8, 232#8], [0xD3#8, 1#8]] := by decide +kernel

/-- `s` with the reply window of station 1 open. -/
def listening (s : State) : State := { s with line.window := some 15, line.current := some 0 }

/-- `s` with station 1 in the given state and miss count. -/
def station (st : StationState) (m : Nat) (s : State) : State :=
  { s with line.stations := upd s.line.stations 0 fun r => { r with state := st, miss := m } }

theorem hyp_RepliesMoveStations :
    ((listening run).line.window = some 15 ∧ (listening run).line.current = some 0) ∧ run.line.window = none ∧
    classify ([0x00#8] ++ crcChars [0x00#8, 0x00#8]) = some .idle ∧
    ((station .lost 3 run).line.stations[(0 : Fin 12)].state = .lost) ∧
    (run.line.stations[(0 : Fin 12)].state ≠ .lost ∧ (station .present 1 run).line.stations[(0 : Fin 12)].miss < 2 ∧
      2 ≤ (station .present 2 run).line.stations[(0 : Fin 12)].miss) ∧
    (∀ e ∈ (withEntry .waiting run).resv.queue, e.station = 0 ∧ e.state ≠ .active) := by decide +kernel

/-- The message codes at their bounds, with bits 3 and 2 set, and bodies of another code, of another length and of a wrong
CRC. -/
theorem hyp_RepliesMoveStations_messages :
    (messageOf [0x0F#8] = some .idle ∧ messageOf [0x1D#8, 3#8, 1#8, 2#8, 7#8, 4#8, 0#8] = some (.start 1 3 258 7 1024) ∧
      messageOf [0x2F#8] = some (.accept 3) ∧ messageOf [0x30#8] = some (.done 0) ∧
      messageOf [0x4A#8] = some (.withdraw 2)) ∧
    (messageOf [0x50#8] = none ∧ messageOf [0xF0#8] = none ∧ messageOf [0x1D#8, 3#8, 1#8, 2#8, 7#8, 4#8] = none ∧
      messageOf [0x00#8, 0#8] = none ∧ messageOf [0x5F#8, 0#8] = none) ∧
    ((0x1D#8 : Byte).toNat / 16 = 1 ∧ (0x1D#8 : Byte).toNat % 4 = (1 : Fin 4).val ∧ (0x50#8 : Byte).toNat / 16 = 5) ∧
    ([0#8, (0#8 : Byte)].length = 2 ∧ [0#8, 0#8] ≠ crcChars [0x00#8, 0x00#8] ∧ [(0#8 : Byte)].length < 2) := by decide +kernel

theorem hyp_StationMessagesAreTaken :
    (inState .held run).running = false ∧
    (run.running = true ∧ 16 ≤ ({ run with resv.queue := List.replicate 16 (entry .waiting) } : State).resv.queue.length ∧
      ({ run with resv.queue := List.replicate 15 (entry .waiting) } : State).resv.queue.length < 16) ∧
    (∃ e ∈ (withEntry .waiting run).resv.queue, e.station = 0 ∧ e.consumer = 2) ∧ run.resv.queue = [] ∧
    (4 ≤ (4 : Nat) ∧ (3 : Nat) = (3 : Fin 4).val ∧ sectPresent run 3 = false ∧ sectPresent run 1 = true) ∧
    (findEntry (withEntry .waiting run) 0 2 = some (entry .waiting) ∧
      findEntry (withEntry .offered run) 0 2 = some (entry .offered) ∧
      findEntry (withEntry .active run) 0 2 = some (entry .active)) := by decide +kernel

/-- START REQUEST on an empty queue, on another one, and where the counter stands at its last number. -/
theorem hyp_StationMessagesAreTaken_arrivals :
    let busy : State := { withEntry .active run with resv.counter := 4294967295 }
    ((takeMessage 1 (.start 0 1 60001 0 4) run).resv.queue.map fun e => (e.kw, e.level, e.hold, e.arrival)) =
      [(60000, 1, 5, 1)] ∧
    ((takeMessage 1 (.start 0 1 1 1 5) run).resv.counter = 2 ∧ islandOf run 1 = some 1) ∧
    (((takeMessage 1 (.start 0 1 1 1 5) busy).resv.queue.map fun e => (e.station, e.arrival)) = [(0, 1), (1, 2)] ∧
      (takeMessage 1 (.start 0 1 1 1 5) busy).resv.counter = 3 ∧ 4294967295 ≤ busy.resv.counter) ∧
    ((withEntry .active run).resv.counter < 4294967295 ∧
      (takeMessage 1 (.start 0 1 1 1 5) (withEntry .active run)).resv.counter = 3) ∧
    sectPresent run 1 = true := by decide +kernel

/-- DONE and WITHDRAW with and without an entry; the entry of another station stands. -/
theorem hyp_StationMessagesAreTaken_done :
    let other : Entry := { entry .active with station := 1, arrival := 2 }
    let s : State := { run with resv.queue := [entry .active, other] }
    (findEntry s 0 2 = some (entry .active) ∧ (takeMessage 0 (.done 2) s).resv.queue = [other]) ∧
    (findEntry run 0 2 = none ∧ ∀ e ∈ run.resv.queue, ¬ (e.station = 0 ∧ e.consumer = 2)) ∧
    islandOf s 0 = some 0 ∧ islandOf State.reset 0 = none := by decide +kernel

theorem hyp_EntriesEnd :
    (findEntry (withEntry .waiting run) 0 2 = some (entry .waiting) ∧
      findEntry (withEntry .offered run) 0 2 = some (entry .offered) ∧
      findEntry (withEntry .active run) 0 2 = some (entry .active)) ∧
    ((0#8 : Byte).toNat = 0 ∧ 12 < (13#8 : Byte).toNat ∧ 3 < (4#8 : Byte).toNat) ∧
    ((1#8 : Byte).toNat = (0 : Fin 12).val + 1 ∧ (12#8 : Byte).toNat = (11 : Fin 12).val + 1) ∧
    (inState .starting run).operating = false ∧ (run.operating = true ∧ findEntry run 0 2 = none) ∧
    (findEntry (withEntry .active run) 0 2).isSome = true := by decide +kernel

theorem hyp_OfferTestDecides :
    let s := withEntry .waiting run
    let low : Entry := { entry .offered with consumer := 0, level := 2, arrival := 2 }
    let q := { run with resv.queue := [entry .waiting, low] }
    (s.plant.accounts[(0 : Fin 4)] = some (acct 0 run) ∧ candidate s 0 = some (entry .waiting) ∧ offeredEntry s 0 = none) ∧
    (q.plant.accounts[(0 : Fin 4)] = some (acct 0 run) ∧ candidate q 0 = some (entry .waiting) ∧
      offeredEntry q 0 = some low) := by decide +kernel

/-- CAPACITY_WANTED: wanted at 0 and above it with a last wanted of 0 and another; spare at 0 and below it at a set loss. -/
theorem hyp_OfferTestDecides_updates :
    let big := recompute four { run0 with resv.queue := [{ entry .waiting with kw := 60000 }] }
    let short := recompute four { run0 with scan.kw := upd run0.scan.kw 0 fun c => { c with value := 15601 } }
    let even := recompute four { run0 with scan.kw := upd run0.scan.kw 0 fun c => { c with value := 15600 } }
    (big.plant.accounts[(0 : Fin 4)] = some (acct 0 big) ∧ (acct 0 big).wanted ≠ 0 ∧
      big.resv.lastWanted[(0 : Fin 4)] = 0 ∧ (acct 0 run).wanted = 0) ∧
    (run.running = true ∧ (inState .held run).running = false ∧ offerTest 0 (seeWanted 0 run) = none ∧
      (offerTest 0 (seeWanted 0 (withEntry .waiting run))).isSome = true) ∧
    (short.plant.accounts[(0 : Fin 4)] = some (acct 0 short) ∧ (acct 0 short).spare = -1) ∧
    (even.plant.accounts[(0 : Fin 4)] = some (acct 0 even) ∧ (acct 0 even).spare = 0) := by decide +kernel

theorem test_offer_and_return :
    let s := withEntry .waiting run
    let o := makeOffer (entry .waiting) s
    o.resv.queue = [{ entry .offered with remaining := 5000 }] ∧
    (o.line.stations[(0 : Fin 12)]).answers[(2 : Fin 4)] = some { answer := .offer, delivered := false } ∧
    (returnOffer (entry .offered) o).resv.queue = [{ entry .waiting with remaining := 120000 }] := by decide +kernel

theorem hyp_EntriesBegin :
    8 ≤ (8#8 : Byte).toNat ∧ ((7#8 : Byte).toNat < 8 ∧ (inState .held run).running = false) ∧
    (run.running = true ∧ (entering none run).entering = true ∧ run.entering = false) ∧
    ((7#8 : Byte).toNat = (7 : Fin 8).val ∧ profilePresent run 7 = false ∧ profilePresent run 1 = true) ∧
    (let s := { run with prof.stack := [0, 1] }
     ((0 : Fin 8) ∈ s.prof.stack ∧ s.prof.stack.getLast? ≠ some 0) ∧ s.prof.stack.getLast? = some 1 ∧
      s.prof.stack = [] ++ [0, 1] ∧ profilePresent s 0 = true) ∧
    ({ run with prof.stack := [7, 0] } : State).prof.stack = [] ++ [7, 0] ∧
    4 ≤ ({ run with prof.stack := [0, 1, 2, 3] } : State).prof.stack.length ∧
    (run.prof.stack.length < 4 ∧ (0 : Fin 8) ∈ run.prof.stack ∧ (1 : Fin 8) ∉ run.prof.stack ∧ run.prof.stack.length ≤ 1) := by
  decide +kernel

/-- The build: PATCH clear and set, a valid and an invalid patch, a block in use that is consistent and one that is not. -/
theorem hyp_EntriesBegin_build :
    let good : Patch := .groups 30 [{ level := 7, load := 20000 }, { level := 0, load := 0 }]
    let long : Patch := .groups 31 [{ level := 7, load := 20000 }, { level := 0, load := 0 }]
    let heavy : Patch := .sets 0 [{ mode := .base, base := 12001 }]
    let rated : Patch := .sets 7 [{ mode := .base, base := 8000 }]
    let s (ps : List Patch) : State :=
      { run with conf.profiles := upd run.conf.profiles 1 fun r => { r with patch := true, patches := ps } }
    (run.conf.profiles[(1 : Fin 8)]).patch = false ∧ ((s [good]).conf.profiles[(1 : Fin 8)]).patch = true ∧
    (buildBank (s [good, rated]) 1).2 = none ∧ (buildBank (s [good, long]) 1).2 = some 2 ∧
    (buildBank (s [heavy]) 1).2 = some 1 ∧ (buildBank (s [.groups 0 [], long]) 1).2 = none ∧
    (Settings.default.consistent = true ∧ { Settings.default with underDwell := 10001 }.consistent = false) ∧
    { Settings.default with overDwell := 1999 }.consistent = false := by decide +kernel

theorem hyp_BuildEndCompletesOrFails :
    ((entering (some 3) run).prof.entry.bind (·.fail) = some 3) ∧
    ((entering none run).prof.entry.isSome = true ∧ (entering none run).prof.entry.bind (·.fail) = none) ∧
    run.prof.entry = none ∧ (0 : Fin 8) ≠ 1 ∧
    (let s := { run with prof.working := upd run.prof.working 0 fun b => { b with autoRestore := false } }
     (settings s).autoRestore = false) := by decide +kernel

theorem hyp_BuildEndCompletesOrFails_accounts :
    ((recompute four (entering none run)).plant.accounts[(0 : Fin 4)]).isSome = true ∧
    (settings run).autoRestore = true := by decide +kernel

theorem hyp_RefreshSetsFresh :
    8 ≤ (8#8 : Byte).toNat ∧ (inState .held run).running = false ∧ (run.running = true ∧ profilePresent run 7 = false) ∧
    profilePresent run 1 = true ∧ isTarget (entering none run) 1 = true ∧ isTarget (entering none run) 0 = false ∧
    run.prof.entry = none := by decide +kernel

theorem hyp_SettingsAndRecordsAreWritten :
    (16 ≤ (16#8 : Byte).toNat ∧ (15#8 : Byte).toNat = (15 : Fin 16).val ∧ run.prof.stack.getLast? = some 0 ∧
      run.running = true ∧ run.entering = false ∧ (settings run).consistent = true ∧ (settings run).autoRestore = true) ∧
    ((readFields blockWidths (blockBytes Settings.default)) = some Settings.default.toList ∧
      (7#8 : Byte).toNat = (7 : Fin 8).val ∧ (run.start.ram.profiles[(7 : Fin 8)]).present = false ∧
      (run.start.ram.profiles[(1 : Fin 8)]).present = true ∧ (1 : Fin 8) ∉ run.prof.stack ∧ isTarget run 1 = false ∧
      isTarget (entering none run) 1 = true ∧ (0 : Fin 8) ∈ run.prof.stack) ∧
    (recordFits [2#8, 0#8, 1#8, 2#8] = false ∧ recordFits [2#8, 3#8, 1#8, 1#8] = true ∧
      recordFits [2#8, 4#8, 1#8, 1#8] = true ∧ loadRecordOf img [2#8, 4#8, 1#8, 1#8] = none ∧
      (loadRecordOf img [2#8, 3#8, 1#8, 1#8]).isSome = true) ∧
    (run.start.op ≠ .unconfigured ∧ run.start.op ≠ .held ∧ (inState .held run).start.op = .held) := by decide +kernel

/-- WRITE PROFILE's patch list: well formed, cut short, of an unknown table, with 8 and 9 patches, 48 and 49 entries, a
count of 32 and 33, and a patch of count 0 last and before another; a part code of 1 and of 2. -/
theorem hyp_SettingsAndRecordsAreWritten_patches :
    let two : List Byte := [0#8, 2#8, 0#8, 5#8, 0#8, 1#8, 3#8, 0#8, 0#8, 1#8, 44#8, 1#8, 0#8, 0#8, 0#8]
    let p (n : Nat) : RawPatch := { table := 0, first := 0, count := n, entries := List.replicate n (1, 100) }
    (readPatchList two).isSome = true ∧ readPatchList two.dropLast = none ∧
    (readPatchList two).map tablesKnown = some true ∧ tablesKnown [{ p 1 with table := 2 }] = false ∧
    ((readyPatches (List.replicate 8 (p 1))).isSome = true ∧ readyPatches (List.replicate 9 (p 1)) = none) ∧
    ((readyPatches [p 32, p 16]).isSome = true ∧ readyPatches [p 32, p 17] = none ∧ readyPatches [p 33] = none) ∧
    ((readyPatches [p 1, p 0]).isSome = true ∧ readyPatches [p 0, p 1] = none) ∧
    (2 ≤ (2#8 : Byte).toNat ∧ ¬ 2 ≤ (1#8 : Byte).toNat) ∧ (p 1).table = 0 ∧ { p 1 with table := 1 }.table = 1 ∧
    readFields blockWidths two = none := by decide +kernel

/-- The fields of WRITE SETTING that bring an account update or cancel the restore delays, one that does neither, and an
Initial block whose auto restore LOAD RECORD clamps to 1 with the CLAMPED mark. -/
theorem hyp_SettingsAndRecordsAreWritten_fields :
    ((5 : Fin 16) = 5 ∧ (8 : Fin 16) = 8 ∧ ¬ ((7 : Fin 16) = 5 ∨ (7 : Fin 16) = 6 ∨ (7 : Fin 16) = 8)) ∧
    ((recompute four run).plant.accounts[(0 : Fin 4)]).isSome = true ∧
    (let cs := (blockBytes Settings.default).set 48 2#8
     readFields blockWidths cs = some (Settings.default.toList.set 12 2) ∧
      clampBlock (Settings.default.toList.set 12 2) = Settings.default.toList ∧
      (loadRecordOf img (0x0A#8 :: 1#8 :: cs)).map (·.2.2) = some true) ∧
    (List.replicate 298 (0#8 : Byte)).length ≤ 298 ∧ (List.replicate 296 (0#8 : Byte)).length ≤ 296 := by decide +kernel

/-- The image records at the ends of their numberings, a whole record of each form as characters, and patch lists that R148
refuses and takes. -/
theorem hyp_SettingsAndRecordsAreWritten_records :
    ((8 : Int) ≤ 8 ∧ (4 : Int) ≤ 4 ∧ (32 : Int) ≤ 32 ∧ (16 : Int) ≤ 254 ∧ (254 : Int) ≠ 255 ∧ (1 : Int) ≠ 0) ∧
    (12 ≤ (12#8 : Byte).toNat ∧ (10#8 : Byte).toNat ≤ 10 ∧ recordWidths (2#8 : Byte).toNat = some [.w1, .w1] ∧
      readFields [.w1, .w1] [1#8, 0#8] = some [1, 0]) ∧
    (readPatchList [0#8, 0#8] = some [] ∧ tablesKnown [] = true ∧ (8#8 : Byte).toNat = 8 ∧ (0#8 : Byte).toNat = 0) ∧
    (let zero : RawPatch := { table := 0, first := 0, count := 0, entries := [] }
     tablesKnown [zero, zero] = true ∧ [zero, zero] = [] ++ zero :: [zero] ∧ zero.count = 0 ∧
      8 < (List.replicate 9 zero).length) ∧
    ((54999 : Int) < 55000 ∧ ¬ (55000 : Int) < 55000) := by decide +kernel

/-- The DONE of a patch list carries the list as held: one that needs no change exactly as carried, and a level of 8 with a
mode of 3 as 7 and SHARE, with the CLAMPED mark (09 R155). -/
theorem test_patch_list_answer :
    let groups : List Byte := [0#8, 1#8, 0#8, 5#8, 0#8, 2#8, 3#8, 0#8, 0#8, 1#8, 44#8, 1#8, 0#8, 0#8, 0#8, 0#8]
    let high : List Byte := groups.set 6 8#8
    let sets (m : Byte) : List Byte := [0#8, 1#8, 1#8, 0#8, 0#8, 1#8, m, 0#8, 0#8, 1#8, 44#8]
    let answer (cs : List Byte) : Reply := (writeProfile (1#8 :: 1#8 :: cs) run).2
    answer groups = .done false groups ∧ answer high = .done true (groups.set 6 7#8) ∧
    answer (sets 3#8) = .done true (sets 0#8) ∧ answer [0#8, 0#8] = .done false [0#8, 0#8] := by decide +kernel

/-- LOAD RECORD of a SET record as characters: a rating above its range is clamped, with the CLAMPED mark. -/
theorem test_load_set :
    (loadRecordOf img ([1#8, 3#8, 1#8, 1#8] ++ writeField .w4 20001 ++ writeField .w4 600 ++ writeField .w4 (-1001) ++ [1#8])).map
      (fun r => ((r.1.sets[(3 : Fin 8)]), r.2.2)) =
    some ({ present := true, sect := 1, rating := 20000, fs := 600, park := -1000, sense := .level }, true) := by
  decide +kernel

/-- The five laws hold in `run`, so the statements about a step are not empty. -/
theorem hyp_StepKeeps :
    NoticeLaw run ∧ BiasInv run ∧ ShedInv run ∧ PartitionLaw run ∧ QueueInv run ∧
      ∃ t, step { run with pending := [.lossOfPower] } = .next t := by
  have parks : ParksOk img := by unfold ParksOk; decide +kernel
  refine ⟨?_, ⟨?_, parks, parks, fun i h => ?_, fun i h => ?_⟩, ⟨fun _ => ?_, ?_⟩, ⟨?_, fun p h => ?_⟩,
    ⟨⟨?_, .nil, .nil⟩, fun h => ?_⟩, _, rfl⟩
  · unfold NoticeLaw; decide +kernel
  · unfold BiasLaw; decide +kernel
  · exact nomatch h
  · cases h; exact parks
  · decide +kernel
  · unfold ConfirmLaw; decide +kernel
  · decide +kernel
  · cases h; decide +kernel
  · decide +kernel
  · exact nomatch h

end Sys2Proof.Tests
end

/-! The shed and restore orders of an island, and the commands that move a group in and out of the shed order (05 R93, R95,
R96). -/

namespace Sys2Proof.Machine

/-! ### The orders of an island: groups by level, and by number within a level -/

theorem mem_thirtyTwo (g : Fin 32) : g ∈ thirtyTwo := by revert g; decide

theorem thirtyTwo_ascending : thirtyTwo.Pairwise (· < ·) := by decide

theorem groupAt_iff (s : State) (i : Fin 4) (st : GroupState) (lv : Nat) (g : Fin 32) :
    groupAt s i st lv g = true ↔
      groupPresent s g = true ∧ groupIsland s g = some i ∧ s.shed.groups[g].state = st ∧ groupLevel s g = lv := by
  simp only [groupAt, Bool.and_eq_true, decide_eq_true_eq, and_assoc]

/-- The groups of the listed levels, level after level, stand in the list where their own level is listed. -/
theorem mem_levels (s : State) (i : Fin 4) (st : GroupState) {levels : List Nat} {gs : List (Fin 32)} {g : Fin 32} :
    g ∈ levels.flatMap (fun lv => gs.filter (groupAt s i st lv)) ↔
      g ∈ gs ∧ groupPresent s g = true ∧ groupIsland s g = some i ∧ s.shed.groups[g].state = st ∧
        groupLevel s g ∈ levels := by
  simp only [List.mem_flatMap, List.mem_filter, groupAt_iff]
  constructor
  · rintro ⟨lv, hlv, hg, hp, hi, hst, rfl⟩
    exact ⟨hg, hp, hi, hst, hlv⟩
  · rintro ⟨hg, hp, hi, hst, hlv⟩
    exact ⟨_, hlv, hg, hp, hi, hst, rfl⟩

/-- Levels sorted by `R` and groups sorted by `Q` give a list sorted by `R` on the levels and, within one level, by `Q`. -/
theorem levels_sorted (s : State) (i : Fin 4) (st : GroupState) {levels : List Nat} {gs : List (Fin 32)}
    {R : Nat → Nat → Prop} {Q : Fin 32 → Fin 32 → Prop} (hl : levels.Pairwise R) (hg : gs.Pairwise Q) :
    (levels.flatMap fun lv => gs.filter (groupAt s i st lv)).Pairwise fun g h =>
      R (groupLevel s g) (groupLevel s h) ∨ groupLevel s g = groupLevel s h ∧ Q g h := by
  have level {lv : Nat} {g : Fin 32} (h : g ∈ gs.filter (groupAt s i st lv)) : groupLevel s g = lv := by
    obtain ⟨_, _, _, hlv⟩ := (groupAt_iff s i st lv g).1 (List.mem_filter.1 h).2
    exact hlv
  refine List.pairwise_flatMap.2 ⟨fun lv _ => ?within, hl.imp fun hR g hg h hh => ?across⟩
  case within =>
    exact (hg.filter _).imp_of_mem fun hg hh hQ => Or.inr ⟨(level hg).trans (level hh).symm, hQ⟩
  case across =>
    rw [level hg, level hh]
    exact Or.inl hR

theorem mem_shedOrder (s : State) (i : Fin 4) (g : Fin 32) :
    g ∈ shedOrder s i ↔
      groupPresent s g = true ∧ groupIsland s g = some i ∧ s.shed.groups[g].state = .connected ∧
        1 ≤ groupLevel s g ∧ groupLevel s g ≤ 7 := by
  have levels (n : Nat) : n ∈ [1, 2, 3, 4, 5, 6, 7] ↔ 1 ≤ n ∧ n ≤ 7 := by simp; omega
  simp only [shedOrder, mem_levels, List.mem_reverse, mem_thirtyTwo, true_and, levels]

theorem mem_restoreOrder (s : State) (i : Fin 4) (g : Fin 32) :
    g ∈ restoreOrder s i ↔
      groupPresent s g = true ∧ groupIsland s g = some i ∧ s.shed.groups[g].state = .shed ∧
        1 ≤ groupLevel s g ∧ groupLevel s g ≤ 7 := by
  have levels (n : Nat) : n ∈ [7, 6, 5, 4, 3, 2, 1] ↔ 1 ≤ n ∧ n ≤ 7 := by simp; omega
  simp only [restoreOrder, mem_levels, mem_thirtyTwo, true_and, levels]

theorem shedOrder_sorted (s : State) (i : Fin 4) :
    (shedOrder s i).Pairwise fun g h =>
      groupLevel s g < groupLevel s h ∨ groupLevel s g = groupLevel s h ∧ h < g :=
  levels_sorted s i .connected (by decide) (List.pairwise_reverse.2 thirtyTwo_ascending)

theorem restoreOrder_sorted (s : State) (i : Fin 4) :
    (restoreOrder s i).Pairwise fun g h =>
      groupLevel s h < groupLevel s g ∨ groupLevel s g = groupLevel s h ∧ g < h :=
  levels_sorted s i .shed (R := fun a b => b < a) (by decide) thirtyTwo_ascending

/-- Settles O25: both orders list levels in order and, within each, the groups in order. -/
theorem shedAndRestoreOrders : Obligations.ShedAndRestoreOrders := fun s i =>
  ⟨mem_shedOrder s i, shedOrder_sorted s i, mem_restoreOrder s i, restoreOrder_sorted s i⟩

/-! ### The common checks of the group commands (05 section 5.4) -/

theorem groupCommand_badField {v : Nat} (h : 32 ≤ v) (own : Fin 32 → State → State × Reply) (s : State) :
    groupCommand v own s = (s, .refused .badField) := by
  simp only [groupCommand, index_none h, refuse]

theorem groupCommand_index (g : Fin 32) (own : Fin 32 → State → State × Reply) (s : State) :
    groupCommand (g.val : Int) own s =
      if s.running = false then (s, .refused .wrongState)
      else if groupPresent s g = false then (s, .refused .notPresent)
      else own g s := by
  simp only [groupCommand, index_nat, refuse, Bool.not_eq_true]

/-- The request `kind` is a group command: one group number of one byte, the common checks, then `own`. -/
def GroupKind (l : Link) (kind : Nat) (own : Fin 32 → State → State × Reply) : Prop :=
  ∀ fields, requestOwner l kind fields = withFields [.w1] fields fun vs => groupCommand (arg vs 0) own

theorem groupKind_inhibit (l : Link) : GroupKind l 34 inhibitCommand := fun _ => rfl

theorem groupKind_releaseInhibit (l : Link) : GroupKind l 35 releaseCommand := fun _ => rfl

theorem validFrame_running (l : Link) (s : State) : (validFrame l s).running = s.running :=
  running_of (validFrame_start l s)

theorem validFrame_groupPresent (l : Link) (s : State) (g : Fin 32) :
    groupPresent (validFrame l s) g = groupPresent s g :=
  groupPresent_of (validFrame_conf l s) (by rw [validFrame_start]) g

section

variable {l : Link} {kind : Nat} {own : Fin 32 → State → State × Reply} {s : State}

theorem GroupKind.answer (hk : GroupKind l kind own) (ht : Takes l s) (seq n : Byte) :
    requestFrame l kind seq [n] s =
      answerTo l kind seq (groupCommand n.toNat own (validFrame l s)).2 (groupCommand n.toNat own (validFrame l s)).1 :=
  request_taken (hk [n]) (readFields_one n) (by decide) ht

theorem GroupKind.badField (hk : GroupKind l kind own) (ht : Takes l s) (seq : Byte) {n : Byte} (hn : 32 ≤ n.toNat) :
    requestFrame l kind seq [n] s = turnedAway l kind seq (.refused .badField) s := by
  rw [hk.answer ht, groupCommand_badField hn, turnedAway]

theorem GroupKind.wrongState (hk : GroupKind l kind own) (ht : Takes l s) (seq : Byte) (g : Fin 32)
    (hr : s.running = false) :
    requestFrame l kind seq [BitVec.ofNat 8 g.val] s = turnedAway l kind seq (.refused .wrongState) s := by
  rw [hk.answer ht, toNat_ofNat g (by decide), groupCommand_index, validFrame_running, if_pos hr, turnedAway]

theorem GroupKind.notPresent (hk : GroupKind l kind own) (ht : Takes l s) (seq : Byte) (g : Fin 32)
    (hr : s.running = true) (hp : groupPresent s g = false) :
    requestFrame l kind seq [BitVec.ofNat 8 g.val] s = turnedAway l kind seq (.refused .notPresent) s := by
  rw [hk.answer ht, toNat_ofNat g (by decide), groupCommand_index, validFrame_running, validFrame_groupPresent,
    if_neg (by simp [hr]), if_pos hp, turnedAway]

/-- In RUNNING a command on a present group is answered with its own part. -/
theorem GroupKind.present (hk : GroupKind l kind own) (ht : Takes l s) (seq : Byte) (g : Fin 32)
    (hr : s.running = true) (hp : groupPresent s g = true) :
    requestFrame l kind seq [BitVec.ofNat 8 g.val] s =
      answerTo l kind seq (own g (validFrame l s)).2 (own g (validFrame l s)).1 := by
  rw [hk.answer ht, toNat_ofNat g (by decide), groupCommand_index, validFrame_running, validFrame_groupPresent,
    if_neg (by simp [hr]), if_neg (by simp [hp])]

end

/-! ### INHIBIT and RELEASE INHIBIT (05 R93) -/

theorem exec_inhibit (l : Link) (seq : Byte) (fields : List Byte) (s : State) :
    exec (.inhibit l seq fields) s = .next (requestFrame l 34 seq fields s) := rfl

theorem exec_releaseInhibit (l : Link) (seq : Byte) (fields : List Byte) (s : State) :
    exec (.releaseInhibit l seq fields) s = .next (requestFrame l 35 seq fields s) := rfl

theorem inhibitCommand_connected {g : Fin 32} {s : State} (h : s.shed.groups[g].state = .connected) :
    inhibitCommand g s = (inhibitMove g .inhibited 1 s, .ok) := if_pos h

theorem inhibitCommand_refused {g : Fin 32} {s : State} (h : s.shed.groups[g].state ≠ .connected) :
    inhibitCommand g s = (s, .refused .wrongState) := if_neg h

theorem releaseCommand_inhibited {g : Fin 32} {s : State} (h : s.shed.groups[g].state = .inhibited) :
    releaseCommand g s = (inhibitMove g .connected 0 s, .ok) := if_pos h

theorem releaseCommand_refused {g : Fin 32} {s : State} (h : s.shed.groups[g].state ≠ .inhibited) :
    releaseCommand g s = (s, .refused .wrongState) := if_neg h

/-- The move writes the state of its group alone; the gate test after it touches no group. -/
theorem inhibitMove_groups (g : Fin 32) (dest : GroupState) (value : Int) (s : State) :
    (inhibitMove g dest value s).shed.groups = upd s.shed.groups g fun r => { r with state := dest } := by
  rw [inhibitMove, testGatesOf_eq]
  rfl

theorem inhibitMove_self (g : Fin 32) (dest : GroupState) (value : Int) (s : State) :
    (inhibitMove g dest value s).shed.groups[g] = { s.shed.groups[g] with state := dest } := by
  rw [inhibitMove_groups, get_upd, if_pos rfl]

theorem inhibitMove_other {g h : Fin 32} (hne : h ≠ g) (dest : GroupState) (value : Int) (s : State) :
    (inhibitMove g dest value s).shed.groups[h] = s.shed.groups[h] := by
  rw [inhibitMove_groups, get_upd_ne _ hne.symm]

theorem sends_inhibitMove (g : Fin 32) (dest : GroupState) (value : Int) (s : State) :
    Sends (newNotice .groupInhibit (some g.val) (some value) s) s (inhibitMove g dest value s) :=
  sends_of_grows (s := updGroup g (fun r => { r with state := dest }) s) (updates_testGatesOf g _).grows

theorem inhibitMove_rest (g : Fin 32) (dest : GroupState) (value : Int) (s : State) :
    (inhibitMove g dest value s).prof = s.prof ∧ (inhibitMove g dest value s).plant = s.plant ∧
      (inhibitMove g dest value s).share = s.share := by
  rw [inhibitMove, testGatesOf_eq]
  exact ⟨rfl, rfl, rfl⟩

/-- A group moved to INHIBITED stands in no shed order. -/
theorem not_mem_shedOrder_inhibitMove (g : Fin 32) (value : Int) (s : State) (i : Fin 4) :
    g ∉ shedOrder (inhibitMove g .inhibited value s) i := by
  intro hm
  obtain ⟨_, _, hstate, _⟩ := (mem_shedOrder _ i g).1 hm
  rw [inhibitMove_self] at hstate
  cases hstate

/-- What the move does to a state that a valid frame alone has changed. -/
theorem inhibitMove_validFrame (l : Link) (g : Fin 32) (dest : GroupState) (value : Int) (s : State) :
    let t := inhibitMove g dest value (validFrame l s)
    t.shed.groups[g] = { s.shed.groups[g] with state := dest } ∧
      (∀ h : Fin 32, h ≠ g → t.shed.groups[h] = s.shed.groups[h]) ∧ t.prof = s.prof ∧ t.plant = s.plant ∧
      t.share = s.share := by
  obtain ⟨hprof, hplant, hshare⟩ := inhibitMove_rest g dest value (validFrame l s)
  refine ⟨?_, fun h hne => ?_, by simpa using hprof, by simpa using hplant, by simpa using hshare⟩
  · rw [inhibitMove_self, validFrame_shed]
  · rw [inhibitMove_other hne, validFrame_shed]

/-- Settles O28: both are group commands, each with the one state in which it moves its group. -/
theorem inhibitAndRelease : Obligations.InhibitAndRelease := by
  intro l seq s ht v
  have inhibits := groupKind_inhibit l
  have releases := groupKind_releaseInhibit l
  refine ⟨fun n hn => ?badField, fun g => ?_⟩
  case badField =>
    rw [exec_inhibit, exec_releaseInhibit, inhibits.badField ht seq hn, releases.badField ht seq hn]
    exact ⟨rfl, rfl⟩
  intro n
  rw [exec_inhibit, exec_releaseInhibit]
  refine ⟨fun hr => ?stopped, fun hr hp => ?notPresent, fun hr hp => ?present⟩
  case stopped =>
    rw [inhibits.wrongState ht seq g hr, releases.wrongState ht seq g hr]
    exact ⟨rfl, rfl⟩
  case notPresent =>
    rw [inhibits.notPresent ht seq g hr hp, releases.notPresent ht seq g hr hp]
    exact ⟨rfl, rfl⟩
  case present =>
    have hstate : v.shed.groups[g].state = s.shed.groups[g].state := by rw [validFrame_shed]
    rw [inhibits.present ht seq g hr hp, releases.present ht seq g hr hp]
    refine ⟨fun h => ?notConnected, fun h => ?notInhibited, fun h => ?connected, fun h => ?inhibited⟩
    case notConnected => rw [inhibitCommand_refused (hstate ▸ h), turnedAway]
    case notInhibited => rw [releaseCommand_refused (hstate ▸ h), turnedAway]
    case connected =>
      obtain ⟨hself, hother, hrest⟩ := inhibitMove_validFrame l g .inhibited 1 s
      rw [inhibitCommand_connected (hstate.trans h)]
      exact ⟨_, rfl, hself, hother, not_mem_shedOrder_inhibitMove g 1 v, sends_inhibitMove g .inhibited 1 v, hrest⟩
    case inhibited =>
      obtain ⟨hself, hother, hrest⟩ := inhibitMove_validFrame l g .connected 0 s
      rw [releaseCommand_inhibited (hstate.trans h)]
      exact ⟨_, rfl, hself, hother, sends_inhibitMove g .connected 0 v, hrest⟩

end Sys2Proof.Machine

/-! Every command, and every step, keeps the laws of the notice queues, the biases, the SHED outputs, the partition and the
reservation queue (09 R161, 03 R41, 05 R87, 01 R17, R18, 07 R126). -/

namespace Sys2Proof.Machine

/-! ### The command of a request -/

/-- A request's command is its frame on its link. -/
theorem exec_request {c : Instr} {r : RequestForm} (h : requestForm c = some r) (hk : ∀ l k q, c ≠ .unknownKind l k q)
    (s : State) : exec c s = .next (requestFrame r.link r.kind r.seq r.fields s) := by
  cases c
  case unknownKind l k q => exact absurd rfl (hk l k q)
  all_goals cases h <;> rfl

/-! ### The five laws together -/

/-- From `s` to `t` the law of the notice queues and the four laws of `Keeps` are kept. -/
def LawsKept (s t : State) : Prop := (NoticeLaw s → NoticeLaw t) ∧ Keeps s t

theorem LawsKept.refl (s : State) : LawsKept s s := ⟨id, Keeps.refl s⟩

theorem LawsKept.trans {s t u : State} (h : LawsKept s t) (k : LawsKept t u) : LawsKept s u :=
  ⟨fun n => k.1 (h.1 n), h.2.trans k.2⟩

/-- An operation that only adds notices. -/
theorem lawsKept_of {s t : State} (g : Grows s t) (k : Keeps s t) : LawsKept s t := ⟨g.noticeLaw, k⟩

/-- A change outside the links and outside what the four laws read. -/
theorem lawsKept_of_link {s t : State} (hl : t.link = s.link) (k : Keeps s t) : LawsKept s t :=
  lawsKept_of (grows_of_link hl) k

/-- An event that may not arise. -/
theorem lawsKept_ite {s t : State} {p : Prop} [Decidable p] (h : LawsKept s t) : LawsKept s (if p then t else s) := by
  split
  · exact h
  · exact LawsKept.refl s

theorem lawsKept_elapse (n : Nat) (s : State) : LawsKept s (elapse n s) := lawsKept_of (grows_elapse n s) (keeps_elapse n s)

theorem lawsKept_onExpiry {act : State → State} (hg : ∀ t, Grows t (act t)) (hk : ∀ t, Keeps t (act t)) (x : Timer)
    (s : State) : LawsKept s (onExpiry x s act) :=
  lawsKept_of (grows_onExpiry hg x s) (keeps_onExpiry hk x s)

theorem noticeLaw_empty {s : State} (ha : s.link.a = LinkRt.reset) (hb : s.link.b = LinkRt.reset) : NoticeLaw s := by
  unfold NoticeLaw
  rw [ha, hb]
  exact ⟨Nat.zero_le _, Nat.zero_le _⟩

/-- A reset empties the notice queues. -/
theorem lawsKept_coldReset (s : State) : LawsKept s (coldReset s) :=
  ⟨fun _ => noticeLaw_empty rfl rfl, keeps_coldReset s⟩

theorem lawsKept_warmReset (k : ResetKind) (s : State) : LawsKept s (warmReset k s) :=
  ⟨fun _ => noticeLaw_empty rfl rfl, keeps_warmReset k s⟩

/-- A change of the power and of the RESET line alone. -/
theorem lawsKept_lines (s : State) (power line : Bool) :
    LawsKept s { s with start.power := power, start.resetLine := line } :=
  lawsKept_of_link rfl (keeps_start (fun _ => rfl) id id rfl rfl rfl rfl)

theorem lawsKept_updLink (l : Link) {f : LinkRt → LinkRt} (h : ∀ x, (f x).notices = x.notices) (s : State) :
    LawsKept s (updLink l f s) :=
  lawsKept_of (grows_updLink l h s) (keeps_updLink l f s)

/-! ### Requests -/

theorem lawsKept_requestFrame (l : Link) (kind : Nat) (seq : Byte) (fields : List Byte) (s : State) :
    LawsKept s (requestFrame l kind seq fields s) :=
  ⟨fun h => (noticeLaw_linkSafe l).requestFrame h, (keeps_linkSafe l s).requestFrame (Keeps.refl s)⟩

theorem lawsKept_searchFrames (l : Link) (n : Nat) (cs : List Byte) (s : State) : LawsKept s (searchFrames l n cs s) :=
  ⟨fun h => (noticeLaw_linkSafe l).search cs n h, (keeps_linkSafe l s).search cs n (Keeps.refl s)⟩

/-- A command that is a request keeps the laws. -/
theorem exec_request_lawsKept {c : Instr} {r : RequestForm} (h : requestForm c = some r) (s : State) :
    ∃ t, exec c s = .next t ∧ LawsKept s t := by
  by_cases hk : ∃ l k q, c = .unknownKind l k q
  · obtain ⟨l, k, q, rfl⟩ := hk
    exact ⟨_, rfl, lawsKept_of (grows_takeRequest Grows.refl) (keeps_takeRequest Keeps.refl)⟩
  · exact ⟨_, exec_request h (fun l k q e => hk ⟨l, k, q, e⟩) s, lawsKept_requestFrame _ _ _ _ s⟩

/-! ### Commands that an `if` or a timer of their own decides -/

theorem lawsKept_resetLineAsserted (s : State) : ∃ t, exec .resetLineAsserted s = .next t ∧ LawsKept s t := by
  refine ⟨_, rfl, ?_⟩
  have line : LawsKept s { s with start.resetLine := true } := lawsKept_lines s s.start.power true
  dsimp only
  split
  · exact LawsKept.refl s
  · split
    · exact line.trans (lawsKept_warmReset .resetLine _)
    · exact line

/-- A confirm timer that runs is one of a SHED_PENDING group, also after the ms that remained. -/
theorem lawsKept_confirmTimerExpiry (g : Fin 32) (s : State) :
    LawsKept s (onExpiry s.shed.groups[g].confirm s (confirmFails g)) := by
  cases hc : s.shed.groups[g].confirm with
  | none => exact LawsKept.refl s
  | some r =>
    obtain ⟨-, -, -, hconfirm⟩ := elapse_group r s g
    exact (lawsKept_elapse r s).trans
      (lawsKept_of (grows_confirmFails g _) (keeps_confirmFails (by rw [hconfirm, hc]; rfl)))

theorem lawsKept_pollFrameSent (s : State) : ∃ t, exec .pollFrameSent s = .next t ∧ LawsKept s t := by
  refine ⟨_, rfl, ?_⟩
  split
  · exact lawsKept_of_link rfl (keeps_line s _)
  · exact LawsKept.refl s

theorem lawsKept_pollSlot (t : State) : LawsKept t (pollSlot t) := by
  unfold pollSlot
  split
  · exact lawsKept_of_link rfl (keeps_line t _)
  · exact LawsKept.refl t

/-- A reply, whatever its body, is taken in the reply window alone. -/
theorem lawsKept_reply (body : List Byte) (x : Fin 12) (t : State) :
    LawsKept t (match classify body with | some m => takeMessage x m (goodReply x t) | none => missedReply x t) := by
  split
  · exact lawsKept_of ((grows_goodReply x t).trans (updates_takeMessage x _ _).grows)
      ((keeps_goodReply x t).trans (keeps_takeMessage x _ _))
  · exact lawsKept_of (grows_missedReply x t) (keeps_missedReply x t)

theorem lawsKept_inWindow {act : Fin 12 → State → State} (h : ∀ x t, LawsKept t (act x t)) (s : State) :
    LawsKept s (inWindow s act) := by
  unfold inWindow
  split
  · have closed : LawsKept s { s with line.window := none } := lawsKept_of_link rfl (keeps_line s _)
    exact closed.trans (h _ _)
  · exact LawsKept.refl s

theorem lawsKept_missedReply (x : Fin 12) (t : State) : LawsKept t (missedReply x t) :=
  lawsKept_of (grows_missedReply x t) (keeps_missedReply x t)

theorem lawsKept_profileBuildEnd (s : State) : ∃ t, exec .profileBuildEnd s = .next t ∧ LawsKept s t := by
  refine ⟨_, rfl, ?_⟩
  split
  · exact lawsKept_of (grows_profileBuildEnd _ s) (keeps_profileBuildEnd _ s)
  · exact LawsKept.refl s

/-- The image a store write carries has its park biases in range, as every image of the part has. -/
theorem lawsKept_storeWriteEnd (good : Bool) (s : State) : ∃ t, exec (.storeWriteEnd good) s = .next t ∧ LawsKept s t := by
  refine ⟨_, rfl, ?_⟩
  split
  next img himg =>
    exact lawsKept_of (grows_storeWritten img good s) (keeps_storeWritten img good s fun h => h.2.2.2.1 img himg)
  next => exact LawsKept.refl s

theorem lawsKept_responseSent (l : Link) (s : State) : ∃ t, exec (.responseSent l) s = .next t ∧ LawsKept s t := by
  refine ⟨_, rfl, ?_⟩
  have next : LawsKept s (updLink l LinkRt.sendNext s) :=
    lawsKept_updLink l (fun x => by unfold LinkRt.sendNext; split <;> rfl) s
  split
  · split
    · exact lawsKept_warmReset .jointReset s
    · exact next
  · exact LawsKept.refl s

theorem lawsKept_syncLoss (side : SyncSide) (s : State) : ∃ t, exec (.syncLossTimerExpiry side) s = .next t ∧ LawsKept s t := by
  cases side with
  | incoming =>
    refine ⟨_, rfl, ?_⟩
    exact lawsKept_onExpiry (fun _ => grows_of_link (by rfl)) (fun t => keeps_scan t _) _ s
  | reference => exact ⟨_, rfl, lawsKept_onExpiry (fun t => grows_setRef _ t) (fun t => keeps_setRef _ t) _ s⟩

/-- The end of a frame time discards the frame, after the ms that remained. -/
theorem lawsKept_frameTimer (l : Link) (cs : List Byte) (s : State) :
    LawsKept s (onExpiry (s.link.get l).frame s (discardFrame l cs)) := by
  cases (s.link.get l).frame with
  | none => exact LawsKept.refl s
  | some r => exact (lawsKept_elapse r s).trans (lawsKept_searchFrames l 0 cs _)

/-! ### Every command and every step -/

/-- Every command is carried out and keeps the laws. -/
theorem exec_lawsKept (c : Instr) (s : State) : ∃ t, exec c s = .next t ∧ LawsKept s t := by
  cases hr : requestForm c with
  | some r => exact exec_request_lawsKept hr s
  | none =>
    cases c
    case powerOnReset => exact ⟨_, rfl, lawsKept_coldReset s⟩
    case resetLineAsserted => exact lawsKept_resetLineAsserted s
    case resetLineReleased => exact ⟨_, rfl, lawsKept_lines s s.start.power false⟩
    case imageCheck => exact ⟨_, rfl, lawsKept_ite (lawsKept_of (grows_imageChecked s) (keeps_imageChecked s))⟩
    case adoption => exact ⟨_, rfl, lawsKept_ite (lawsKept_of (grows_adopt s) (keeps_adopt s))⟩
    case rawInputChange i level => exact ⟨_, rfl, lawsKept_of (grows_setFilter i _ s) (keeps_setFilter i _ s)⟩
    case filterTimerExpiry i => exact ⟨_, rfl, lawsKept_onExpiry (grows_filterExpires i) (keeps_filterExpires i) _ s⟩
    case roundTimerExpiry smp => exact ⟨_, rfl, lawsKept_onExpiry (grows_scanRound smp) (keeps_scanRound smp) _ s⟩
    case sectionCrossing x time => exact ⟨_, rfl, lawsKept_ite (lawsKept_of (grows_setSect x 2 _ s) (keeps_setSect x 2 _ s))⟩
    case sectionLossTimerExpiry x =>
      exact ⟨_, rfl, lawsKept_onExpiry (fun t => grows_setSect x 1 _ t) (fun t => keeps_setSect x 1 _ t) _ s⟩
    case syncInCrossing time => exact ⟨_, rfl, lawsKept_ite (lawsKept_of_link rfl (keeps_scan s _))⟩
    case syncRefCrossing time => exact ⟨_, rfl, lawsKept_ite (lawsKept_of (grows_setRef _ s) (keeps_setRef _ s))⟩
    case syncLossTimerExpiry side => exact lawsKept_syncLoss side s
    case sharingPeriodExpiry => exact ⟨_, rfl, lawsKept_onExpiry grows_sharingPass keeps_sharingPass _ s⟩
    case gcbOpenPulseExpiry g =>
      refine ⟨_, rfl, ?_⟩
      exact lawsKept_onExpiry (grows_updShare g _) (fun _ => keeps_updShare_same fun _ => by rfl) _ s
    case openConfirmWaitExpiry g => exact ⟨_, rfl, lawsKept_onExpiry (grows_unloadFails g) (keeps_unloadFails g) _ s⟩
    case selectorSettleExpiry => exact ⟨_, rfl, lawsKept_onExpiry grows_settleEnd keeps_settleEnd _ s⟩
    case syncPass => exact ⟨_, rfl, lawsKept_onExpiry grows_syncPass keeps_syncPass _ s⟩
    case syncTimeLimitExpiry => exact ⟨_, rfl, lawsKept_onExpiry (grows_syncAbort _) (keeps_syncAbort _) _ s⟩
    case closePulseExpiry =>
      refine ⟨_, rfl, ?_⟩
      exact lawsKept_onExpiry (fun _ => grows_of_link (by rfl)) (keeps_updReq _) _ s
    case closeConfirmExpiry => exact ⟨_, rfl, lawsKept_onExpiry (grows_syncAbort _) (keeps_syncAbort _) _ s⟩
    case confirmTimerExpiry g => exact ⟨_, rfl, lawsKept_confirmTimerExpiry g s⟩
    case dwellExpiry i => exact ⟨_, rfl, lawsKept_onExpiry (grows_dwellEnds i) (keeps_dwellEnds i) _ s⟩
    case restoreDelayExpiry i => exact ⟨_, rfl, lawsKept_onExpiry (grows_restoreEnds i) (keeps_restoreEnds i) _ s⟩
    case pollSlotExpiry =>
      exact ⟨_, rfl, ⟨onExpiry_ind (P := fun t => NoticeLaw s → NoticeLaw t) _ s _ id
        (fun n k h => (lawsKept_pollSlot _).1 (k h)) (fun n k h => (lawsKept_elapse n s).1 (k h)),
        keeps_onExpiry (fun t => (lawsKept_pollSlot t).2) _ s⟩⟩
    case pollFrameSent => exact lawsKept_pollFrameSent s
    case replyFrame body => exact ⟨_, rfl, lawsKept_inWindow (lawsKept_reply body) s⟩
    case replyBadAddress => exact ⟨_, rfl, lawsKept_inWindow lawsKept_missedReply s⟩
    case replyWindowExpiry =>
      exact ⟨_, rfl, lawsKept_onExpiry (grows_inWindow grows_missedReply) (keeps_inWindow keeps_missedReply) _ s⟩
    case waitTimerExpiry x c =>
      exact ⟨_, rfl, lawsKept_onExpiry (fun t => (updates_endEntry x c _ t).grows) (keeps_endEntry x c _) _ s⟩
    case acceptDeadlineExpiry x c =>
      exact ⟨_, rfl, lawsKept_onExpiry (fun t => (updates_endEntry x c _ t).grows) (keeps_endEntry x c _) _ s⟩
    case holdDeadlineExpiry x c =>
      exact ⟨_, rfl, lawsKept_onExpiry (fun t => (updates_holdEnds x c t).grows) (keeps_holdEnds x c) _ s⟩
    case profileBuildEnd => exact lawsKept_profileBuildEnd s
    case storeWriteEnd good => exact lawsKept_storeWriteEnd good s
    case frameTimerExpiry l cs => exact ⟨_, rfl, lawsKept_ite (lawsKept_frameTimer l cs s)⟩
    case frameDiscarded l cs => exact ⟨_, rfl, lawsKept_ite (lawsKept_searchFrames l 0 cs s)⟩
    case responseSent l => exact lawsKept_responseSent l s
    case warmResetBegin => exact ⟨_, rfl, lawsKept_ite (lawsKept_warmReset .jointReset s)⟩
    case linkTimerExpiry l => exact ⟨_, rfl, lawsKept_onExpiry (grows_linkSilent l) (keeps_linkSilent l) _ s⟩
    case jointWindowExpiry => exact ⟨_, rfl, lawsKept_onExpiry grows_windowEnds keeps_windowEnds _ s⟩
    case startCharacter l =>
      refine ⟨_, rfl, ?_⟩
      exact lawsKept_ite (lawsKept_updLink l (fun _ => by rfl) s)
    case lossOfPower => exact ⟨_, rfl, (lawsKept_coldReset s).trans (lawsKept_lines _ false s.start.resetLine)⟩
    all_goals cases hr

/-- Every step keeps the laws: the command taken keeps them, and on an empty queue one ms passes. -/
theorem step_lawsKept {s t : State} (h : step s = .next t) : LawsKept s t := by
  unfold step at h
  split at h
  next c rest _ =>
    have taken : LawsKept s { s with pending := rest } :=
      lawsKept_of_link rfl (keeps_of (fun _ => rfl) rfl rfl rfl rfl rfl rfl)
    obtain ⟨u, hu, kept⟩ := exec_lawsKept c { s with pending := rest }
    rw [hu] at h
    cases h
    exact taken.trans kept
  next =>
    cases h
    exact lawsKept_elapse 1 s

/-- Settles O55: of the five laws, that of the notice queues. -/
theorem stepKeepsNoticeLaw : Obligations.StepKeepsNoticeLaw := fun _ _ h st => (step_lawsKept st).1 h

/-- Settles O56: of the five laws, that of the biases. -/
theorem stepKeepsBiases : Obligations.StepKeepsBiases := fun _ _ h st =>
  let ⟨_, bias, _⟩ := step_lawsKept st
  bias h

/-- Settles O57: of the five laws, that of the SHED outputs. -/
theorem stepKeepsShedOutputs : Obligations.StepKeepsShedOutputs := fun _ _ h st =>
  let ⟨_, _, shed, _⟩ := step_lawsKept st
  shed h

/-- Settles O58: of the five laws, that of the partition. -/
theorem stepKeepsPartition : Obligations.StepKeepsPartition := fun _ _ h st =>
  let ⟨_, _, _, partition, _⟩ := step_lawsKept st
  partition h

/-- Settles O59: of the five laws, that of the reservation queue. -/
theorem stepKeepsQueue : Obligations.StepKeepsQueue := fun _ _ h st =>
  let ⟨_, _, _, _, queue⟩ := step_lawsKept st
  queue h

end Sys2Proof.Machine

/-! The Link Interface: the taking and turning away of requests, liveness, responses, the search for frames, the notice
queues and the reads (09). -/

namespace Sys2Proof.Machine

/-! ### The queues that notices leave -/

/-- Two links hold the same notices and the same OVERFLOW mark. -/
def LinkRt.SameQueue (x y : LinkRt) : Prop := x.notices = y.notices ∧ x.overflow = y.overflow

theorem LinkRt.SameQueue.append {x y : LinkRt} (h : x.SameQueue y) (n : Notice) : (x.append n).SameQueue (y.append n) := by
  obtain ⟨hnotices, hoverflow⟩ := h
  unfold LinkRt.append
  rw [hnotices]
  split
  · exact ⟨rfl, hoverflow⟩
  · exact ⟨rfl, rfl⟩

theorem LinkRt.SameQueue.appends {x y : LinkRt} (h : x.SameQueue y) (ns : List Notice) :
    (ns.foldl (fun z n => z.append n) x).SameQueue (ns.foldl (fun z n => z.append n) y) := by
  induction ns generalizing x y with
  | nil => exact h
  | cons n ns ih => exact ih (h.append n)

/-- Where both queues and their OVERFLOW marks stand, no notice was sent. -/
theorem delivers_nil {s t : State} (h : ∀ l, (t.link.get l).SameQueue (s.link.get l)) : Delivers [] s t := h

theorem delivers_nil_of_link {s t : State} (h : t.link = s.link) : Delivers [] s t :=
  delivers_nil fun l => by rw [h]; exact ⟨rfl, rfl⟩

theorem delivers_notify (k : NoticeKind) (a : Option Nat) (v : Option Int) (s : State) :
    Delivers [newNotice k a v s] s (notify k a v s) := fun l => by
  rw [notify_get]
  exact ⟨rfl, rfl⟩

/-- Notices sent one after another. -/
theorem Delivers.trans {ns ms : List Notice} {s t u : State} (h : Delivers ns s t) (k : Delivers ms t u) :
    Delivers (ns ++ ms) s u := fun l => by
  have first : (t.link.get l).SameQueue _ := h l
  obtain ⟨hnotices, hoverflow⟩ := first.appends ms
  obtain ⟨knotices, koverflow⟩ := k l
  rw [List.foldl_append]
  exact ⟨knotices.trans hnotices, koverflow.trans hoverflow⟩

/-- A notice sent with the generation and the clock of the state the notices are counted from. -/
theorem Delivers.notify {ns : List Notice} {s t : State} (h : Delivers ns s t)
    (hg : t.plant.generation = s.plant.generation) (hc : t.link.clock = s.link.clock) (k : NoticeKind) (a : Option Nat)
    (v : Option Int) : Delivers (ns ++ [newNotice k a v s]) s (notify k a v t) := by
  rw [← newNotice_of hg hc]
  exact h.trans (delivers_notify k a v t)

theorem Delivers.quiet {s t : State} (h : Delivers [] s t) : Quiet s t :=
  ⟨(h .a).1, (h .b).1, (h .a).2, (h .b).2⟩

/-- A change of one link that leaves its queue sends nothing. -/
theorem delivers_updLink (l : Link) {f : LinkRt → LinkRt} (h : ∀ x, (f x).SameQueue x) (s : State) :
    Delivers [] s (updLink l f s) := delivers_nil fun m => by
  by_cases e : m = l
  · rw [e, updLink_get]
    exact h _
  · rw [updLink_get_other e]
    exact ⟨rfl, rfl⟩

/-! ### Liveness (09 R156, R157) -/

/-- What a valid frame makes of its own link before any notice. -/
def LinkRt.live (timeout : Nat) (x : LinkRt) : LinkRt := { x with frame := none, active := true, timer := some timeout }

/-- The notices of a valid frame: none on an ACTIVE link, LINK_ACTIVE on a SILENT one, and SUPERVISION_MODE 1 after it
where both were SILENT. -/
theorem validFrame_delivers (l : Link) (s : State) :
    Delivers
      (if (s.link.get l).active then []
      else newNotice .linkActive (some l.code) none s ::
        if (s.link.get l.other).active then [] else [newNotice .supervisionMode none (some 1) s])
      s (validFrame l s) := by
  have live : Delivers [] s (updLink l (LinkRt.live s.conf.general.linkTimeout) s) :=
    delivers_updLink l (f := LinkRt.live _) (fun _ => ⟨rfl, rfl⟩) s
  have first := live.notify rfl (updLink_clock ..) .linkActive (some l.code) none
  have second := first.notify rfl ((notify_clock ..).trans (updLink_clock ..)) .supervisionMode none (some 1)
  unfold validFrame
  split
  · exact live
  · dsimp only
    split
    · exact first
    · exact second

/-- What its silence makes of a link before any notice. -/
def LinkRt.silenced (x : LinkRt) : LinkRt := { x with active := false, timer := none }

theorem link_cases (l m : Link) : m = l ∨ m = l.other := by
  cases l <;> cases m <;> decide

/-- Settles O9: what a valid frame leaves of either link, and its notices. -/
theorem validFrameLiveness : Obligations.ValidFrameLiveness := by
  intro l s
  obtain ⟨active, timer, frame, sending, waiting⟩ := validFrame_self l s
  obtain ⟨oactive, otimer, oframe, osending, owaiting⟩ := validFrame_opp l s
  have responses : ∀ m : Link, ((validFrame l s).link.get m).sending = (s.link.get m).sending ∧
      ((validFrame l s).link.get m).waiting = (s.link.get m).waiting := fun m => by
    rcases link_cases l m with rfl | rfl
    · exact ⟨sending, waiting⟩
    · exact ⟨osending, owaiting⟩
  have sent := validFrame_delivers l s
  refine ⟨active, timer, oactive, otimer, frame, oframe, responses, fun h => ?_, fun h k => ?_, fun h k => ?_,
    validFrame_rest l s⟩
  · rw [if_pos h] at sent
    exact sent.quiet
  · rwa [h, k, if_neg Bool.false_ne_true, if_pos rfl] at sent
  · rwa [h, k, if_neg Bool.false_ne_true, if_neg Bool.false_ne_true] at sent

/-- The notices of a link's silence: LINK_SILENT, and SUPERVISION_MODE 0 after it where the other link is SILENT too. -/
theorem linkSilent_delivers (l : Link) (s : State) :
    Delivers
      (newNotice .linkSilent (some l.code) none s ::
        if (s.link.get l.other).active then [] else [newNotice .supervisionMode none (some 0) s])
      s (linkSilent l s) := by
  have silent : Delivers [] s (updLink l LinkRt.silenced s) :=
    delivers_updLink l (f := LinkRt.silenced) (fun _ => ⟨rfl, rfl⟩) s
  have first := silent.notify rfl (updLink_clock ..) .linkSilent (some l.code) none
  have second := first.notify rfl ((notify_clock ..).trans (updLink_clock ..)) .supervisionMode none (some 0)
  unfold linkSilent
  dsimp only
  rw [notify_get, append_active, updLink_get_opp]
  split
  · exact first
  · exact second

/-- What its silence leaves of a link and of its other. -/
theorem linkSilent_links (l : Link) (s : State) :
    ((linkSilent l s).link.get l).active = false ∧ ((linkSilent l s).link.get l).timer = none ∧
      ((linkSilent l s).link.get l.other).active = (s.link.get l.other).active := by
  unfold linkSilent
  dsimp only
  split <;> simp [cancelRestores]

/-- While the other link is ACTIVE a link's silence changes the Link Interface alone. -/
theorem linkSilent_supervised {l : Link} {s : State} (h : (s.link.get l.other).active = true) :
    linkSilent l s = { s with link := (linkSilent l s).link } := by
  unfold linkSilent
  dsimp only
  rw [notify_get, append_active, updLink_get_opp, if_pos h]
  rfl

/-- The silence of the second link cancels every restore delay, and changes nothing else but the Link Interface. -/
theorem linkSilent_unsupervised {l : Link} {s : State} (h : (s.link.get l.other).active = false) :
    linkSilent l s = { s with link := (linkSilent l s).link, shed.restore := Vector.replicate 4 none } := by
  unfold linkSilent
  dsimp only
  rw [notify_get, append_active, updLink_get_opp, h]
  rfl

theorem supervised_iff (l : Link) (s : State) :
    s.supervised = ((s.link.get l).active || (s.link.get l.other).active) := by
  cases l
  · rfl
  · exact Bool.or_comm ..

/-- What time makes of a link's queue: nothing. -/
theorem elapse_sameQueue (n : Nat) (s : State) (m : Link) : ((elapse n s).link.get m).SameQueue (s.link.get m) :=
  ⟨elapse_notices n s m, elapse_overflow n s m⟩

/-- Settles O12: the end of a link's liveness time, with LINK_SILENT and, where the other link is SILENT too,
SUPERVISION_MODE 0 and the restore delays cancelled. -/
theorem linkTimerExpirySilences : Obligations.LinkTimerExpirySilences := by
  intro l r s h
  have run : exec (.linkTimerExpiry l) s = .next (linkSilent l (elapse r s)) := by
    change Host.Outcome.next (onExpiry (s.link.get l).timer s (linkSilent l)) = _
    rw [h, onExpiry_some]
  obtain ⟨active, timer, other⟩ := linkSilent_links l (elapse r s)
  have queues (ns : List Notice) (m : Link) := ((elapse_sameQueue r s m).appends ns).1
  have sent := linkSilent_delivers l (elapse r s)
  rw [elapse_active] at other sent
  cases ho : (s.link.get l.other).active with
  | true =>
    have alone := linkSilent_supervised (l := l) ((elapse_active r s l.other).trans ho)
    rw [ho, if_pos rfl] at sent
    refine ⟨_, run, active, timer, other.trans ho, fun _ => ⟨by rw [alone], fun m => (sent m).1.trans (queues _ m)⟩,
      (by simp), ?_⟩
    rw [alone]
    simp
  | false =>
    have alone := linkSilent_unsupervised (l := l) ((elapse_active r s l.other).trans ho)
    have unsupervised : (linkSilent l (elapse r s)).supervised = false := by
      rw [supervised_iff l, active, other, ho]
      rfl
    rw [ho, if_neg Bool.false_ne_true] at sent
    refine ⟨_, run, active, timer, other.trans ho, (by simp), fun _ => ⟨unsupervised, ?_⟩, ?_⟩
    · refine ⟨fun i => ?_, ?_, ?_, fun m => (sent m).1.trans (queues _ m)⟩
      all_goals rw [alone]
      exact Vector.getElem_replicate ..
    · rw [alone]
      simp

/-! ### Responses (09 R154) -/

theorem updLink_congr {l : Link} {f g : LinkRt → LinkRt} {s : State} (h : f (s.link.get l) = g (s.link.get l)) :
    updLink l f s = updLink l g s := by
  unfold updLink
  rw [h]

/-- The end of a response that is no joint RESET's brings the next one of its link. -/
theorem exec_responseSent {l : Link} {q : Response} {s : State} (h : (s.link.get l).sending = some q)
    (hr : q.resets = false) : exec (.responseSent l) s = .next (updLink l LinkRt.sendNext s) := by
  change execResponseSent l s = _
  simp only [execResponseSent, h, hr, Bool.false_eq_true, if_false]

theorem exec_responseSent_idle {l : Link} {s : State} (h : (s.link.get l).sending = none) :
    exec (.responseSent l) s = .next s := by
  change execResponseSent l s = _
  simp only [execResponseSent, h]

/-- Settles O10: a response is sent at once on an idle link and waits its turn on a busy one. -/
theorem responsesInOrder : Obligations.ResponsesInOrder := by
  refine ⟨fun l r s h => ?_, fun l r q s h => ?_, fun l q r rs s hs hr hw => ?_, fun l q s hs hr hw => ?_,
    fun l s h => exec_responseSent_idle h⟩
  · rw [respond_get, LinkRt.enqueue, h]
    exact ⟨rfl, rfl⟩
  · rw [respond_get, LinkRt.enqueue, h]
    exact ⟨rfl, rfl⟩
  · rw [exec_responseSent hs hr]
    refine congrArg _ (updLink_congr ?_)
    simp only [LinkRt.sendNext, hw]
  · rw [exec_responseSent hs hr]
    refine congrArg _ (updLink_congr ?_)
    simp only [LinkRt.sendNext, hw]

/-! ### Requests turned away (09 R152 to R154) -/

theorem exec_unknownKind (l : Link) (kind seq : Byte) (s : State) :
    exec (.unknownKind l kind seq) s = .next (takeRequest l kind.toNat seq (refuse .unknownKind) s) := rfl

/-- The command of a frame whose length is in range. -/
theorem exec_request_valid {c : Instr} {r : RequestForm} (h : requestForm c = some r)
    (hk : ∀ l k q, c ≠ .unknownKind l k q) (hf : r.fields.length + 2 ≤ 300) (s : State) :
    exec c s = .next (takeRequest r.link r.kind r.seq (requestOwner r.link r.kind r.fields) s) := by
  rw [exec_request h hk, requestFrame_valid (by omega)]

/-- A request of an unknown kind has no fields. -/
theorem fields_unknownKind {c : Instr} {r : RequestForm} (h : requestForm c = some r) {l : Link} {k q : Byte}
    (hk : c = .unknownKind l k q) : r = ⟨l, k.toNat, q, [], none⟩ := by
  subst hk
  exact (Option.some.inj h).symm

/-- Whatever the request, its frame goes to an owner where its length is in range. -/
theorem exec_request_owner {c : Instr} {r : RequestForm} (h : requestForm c = some r) (hf : r.fields.length + 2 ≤ 300) :
    ∃ owner, ∀ s, exec c s = .next (takeRequest r.link r.kind r.seq owner s) := by
  by_cases hk : ∃ l k q, c = .unknownKind l k q
  · obtain ⟨l, k, q, hc⟩ := hk
    cases fields_unknownKind h hc
    exact ⟨refuse .unknownKind, fun s => by rw [hc, exec_unknownKind]⟩
  · exact ⟨_, exec_request_valid h (fun l k q e => hk ⟨l, k, q, e⟩) hf⟩

/-- A request longer than 300 is of a known kind, and its frame is discarded. -/
theorem exec_request_oversize {c : Instr} {r : RequestForm} (h : requestForm c = some r) {s : State}
    (hs : s.started = true) (hf : 300 < r.fields.length + 2) :
    exec c s = .next (searchFrames r.link 0 (0xA5#8 :: requestChars (BitVec.ofNat 8 r.kind) r.seq r.fields) s) := by
  have known : ∀ l k q, c ≠ .unknownKind l k q := fun l k q e => by
    rw [fields_unknownKind h e] at hf
    simp at hf
  rw [exec_request h known, requestFrame_oversize (by omega) hs]

/-- A request whose length its two characters spell, but out of range, has no frame at its own start character. -/
theorem searchFrames_oversize (l : Link) {kind seq : Byte} {fields : List Byte} (s : State)
    (hf : 300 < fields.length + 2) (hw : fields.length + 2 ≤ 65535) :
    searchFrames l 0 (0xA5#8 :: requestChars kind seq fields) s = searchFrames l 0 (requestChars kind seq fields) s :=
  searchFrames_badLength (Or.inr (by rw [w2_append (by omega)]; exact hf)) s

/-- The owner of a kind with fixed widths reads its fields by them. -/
theorem requestOwner_fixed {c : Instr} {r : RequestForm} {ws : List Width} (h : requestForm c = some r)
    (hw : r.widths = some ws) :
    (∀ l k q, c ≠ .unknownKind l k q) ∧ ∃ owner, requestOwner r.link r.kind r.fields = withFields ws r.fields owner := by
  refine ⟨fun l k q e => ?_, ?_⟩
  · rw [fields_unknownKind h e] at hw
    cases hw
  · cases c <;> cases h <;> cases hw <;> exact ⟨_, rfl⟩

/-- Settles O8: the frames of requests before the start, beyond 300, on a full link, with fields that do not fit, and of
no known kind. -/
theorem requestsTurnedAwayAtTheLink : Obligations.RequestsTurnedAwayAtTheLink := by
  refine ⟨fun c r s h => ⟨fun hs => ?_, fun hs hf => exec_request_oversize h hs hf, fun hs hf hw => ?_,
    fun hf hk => exec_request_valid h hk hf s, fun hs hf hw => ?_⟩, fun c r ws s h hw hf hl ht => ?_, fun l k q s ht => ?_⟩
  · by_cases hk : ∃ l k q, c = .unknownKind l k q
    · obtain ⟨l, k, q, rfl⟩ := hk
      rw [exec_unknownKind, takeRequest_unstarted hs]
    · rw [exec_request h (fun l k q e => hk ⟨l, k, q, e⟩), requestFrame_unstarted hs]
  · rw [exec_request_oversize h hs hf, searchFrames_oversize _ _ hf hw]
  · obtain ⟨owner, run⟩ := exec_request_owner h hf
    rw [run, takeRequest_full hs hw]
  · obtain ⟨hk, owner, howner⟩ := requestOwner_fixed h hw
    rw [exec_request_valid h hk hl, takeRequest_taken ht, howner, withFields_none (readFields_none hf)]
    rfl
  · rw [exec_unknownKind, takeRequest_taken ht]
    rfl

/-! ### Frames (09 R153) -/

/-- A frame just opened has its 20 ms, where none is being gathered after the start. -/
theorem exec_startCharacter (l : Link) (s : State) :
    exec (.startCharacter l) s = .next
      (if s.started = true ∧ (s.link.get l).frame = none then updLink l (fun x => { x with frame := some 20 }) s
      else s) := rfl

theorem exec_frameDiscarded (l : Link) (cs : List Byte) (s : State) :
    exec (.frameDiscarded l cs) s = .next
      (if (s.link.get l).frame.isSome = true ∧ gathered cs = some .discarded then searchFrames l 0 cs s else s) := rfl

theorem exec_frameTimerExpiry (l : Link) (cs : List Byte) (s : State) :
    exec (.frameTimerExpiry l cs) s = .next
      (if gathered cs = some .incomplete then onExpiry (s.link.get l).frame s (searchFrames l 0 cs) else s) := rfl

/-- A frame that its characters do not complete runs to their end. -/
theorem take_frameEnd_incomplete {cs : List Byte} (h : gathered cs = some .incomplete) : cs.take (frameEnd cs) = cs := by
  refine List.take_of_length_le ?_
  match cs with
  | [] => exact Nat.zero_le _
  | [_] => exact Nat.le_succ _
  | hi :: lo :: rest =>
    unfold gathered at h
    dsimp only at h
    change rest.length + 2 ≤ if lengthOk (hi ++ lo).toNat then _ else _
    cases hl : lengthOk (hi ++ lo).toNat with
    | false =>
      rw [hl, if_pos (by simp)] at h
      split at h <;> cases h
    | true =>
      have short : rest.length < (hi ++ lo).toNat + 2 := by
        by_contra hn
        rw [hl, if_neg (by simp), if_neg hn] at h
        split at h
        · split at h <;> cases h
        · cases h
      rw [if_pos rfl]
      omega

/-- Settles O11: how a frame opens and is discarded, and what the search for the next one finds. -/
theorem framesOpenAndAreDiscarded : Obligations.FramesOpenAndAreDiscarded := by
  refine ⟨fun l s hs hf => ?_, fun l s h => ?_, fun l cs s hf hg => ?_, fun l cs r s hf hg => ?_, fun l pre cs s hp => ?_,
    fun l cs s => ⟨fun h => ?_, fun h => ?_⟩, fun kind seq fields h => gathered_request (by omega),
    fun hi lo body crc hn h2 h3 hc => gathered_whole hn h2 h3 hc, fun hi lo h => gathered_badLength h,
    fun hi lo rest h2 h3 h => ⟨gathered_incomplete h2 h3 h, rfl, rfl⟩⟩
  · rw [exec_startCharacter, if_pos ⟨hs, hf⟩]
  · rw [exec_startCharacter, if_neg]
    rintro ⟨hs, hf⟩
    rcases h with h | h
    · rw [hs] at h
      cases h
    · rw [hf] at h
      cases h
  · rw [exec_frameDiscarded, if_pos ⟨hf, hg⟩]
  · rw [exec_frameTimerExpiry, if_pos hg, hf, onExpiry_some]
  · dsimp only
    rw [searchFrames_skip hp]
    refine ⟨searchFrames_none hp s, fun hg => ?_, fun hi lo rest hc hn => ?_,
      fun hi lo kind seq fields crc rest hc hn h3 h2 => ?_⟩
    · exact searchFrames_incomplete ((congrArg gathered (take_frameEnd_incomplete hg)).trans hg) s
    · rw [hc]
      exact searchFrames_badLength hn s
    · rw [hc]
      exact searchFrames_whole hn (by omega) h2 s
  · rw [exec_frameDiscarded, if_neg]
    rintro ⟨hf, hg⟩
    rcases h with h | h
    · rw [h] at hf
      cases hf
    · exact h hg
  · rw [exec_frameTimerExpiry]
    split
    next hg =>
      rcases h with h | h
      · rw [h, onExpiry_none]
      · exact absurd hg h
    next => rfl

/-! ### Reads and notices (09 R161 to R163, 11 section 11.3) -/

section
variable {l : Link} {s : State}

/-- A request without fields whose owner answers `reply` from the state it leaves unchanged. -/
theorem requestFrame_read {kind : Nat} {owner : List Int → State → State × Reply}
    (ho : requestOwner l kind [] = withFields [] [] owner) (seq : Byte) (ht : Takes l s) :
    requestFrame l kind seq [] s =
      answerTo l kind seq (owner [] (validFrame l s)).2 (owner [] (validFrame l s)).1 :=
  request_taken ho readFields_nil (by decide) ht

end

/-- Settles O15: the six reads answer with their data and change nothing but their link's liveness. -/
theorem readsChangeNothing : Obligations.ReadsChangeNothing := by
  intro l seq s ht
  have answered {kind : Nat} {owner : List Int → State → State × Reply}
      (ho : requestOwner l kind [] = withFields [] [] owner) :
      (.next (requestFrame l kind seq [] s) : Host.Outcome State Fault Refusal) =
        .next (answerTo l kind seq (owner [] (validFrame l s)).2 (owner [] (validFrame l s)).1) :=
    congrArg _ (requestFrame_read ho seq ht)
  exact ⟨answered (owner := readAccounts) rfl, answered (owner := readSets) rfl, answered (owner := readGroups) rfl,
    answered (owner := readQueue) rfl, answered (owner := readProfiles) rfl, answered (owner := readState) rfl,
    validFrame_plant l s, validFrame_scan l s, validFrame_share l s, validFrame_sync l s, validFrame_shed l s,
    validFrame_resv l s, validFrame_line l s, validFrame_prof l s, validFrame_start l s, validFrame_conf l s⟩

/-- What READ NOTICES answers and leaves in its link's queue. -/
theorem readNotices_eq (l : Link) (vs : List Int) (s : State) :
    readNotices l vs s =
      (updLink l (fun x => { x with notices := (s.link.get l).notices.drop 8, overflow := false }) s,
        .done false
          (writeField .w2 (min 8 ((s.link.get l).notices.length : Int)) ++
            ((s.link.get l).notices.take 8).flatMap Notice.bytes ++
            writeField .w2 (((s.link.get l).notices.length - 8 : Nat) : Int) ++
            writeField .w1 (if (s.link.get l).overflow then 1 else 0))) := by
  unfold readNotices
  simp [Config.noticeRead, writeItems, flagCode]

/-- Settles O14: READ NOTICES takes the eight oldest notices of its own link. -/
theorem readNoticesRemovesEight : Obligations.ReadNoticesRemovesEight := by
  intro l seq s ht
  constructor
  · have taken := requestFrame_read (kind := 6) (owner := readNotices l) rfl seq ht
    rw [readNotices_eq] at taken
    exact congrArg _ taken
  · rw [answerTo, respond_get_opp, updLink_get_opp]

end Sys2Proof.Machine

/-! The step, the resets, the image check and the adoption (10). -/

namespace Sys2Proof.Machine

/-! ### The step (log 1, log 2) -/

/-- Settles O1. -/
theorem stepTakesFrontCommand : Obligations.StepTakesFrontCommand := by
  intro c rest s h
  unfold step
  rw [h]

/-- Settles O2: one ms of `elapse`, which without power or in reset moves nothing. -/
theorem idleStepPassesOneMs : Obligations.IdleStepPassesOneMs := by
  intro s h
  have idle : step s = .next (elapse 1 s) := by
    unfold step
    rw [h]
  refine ⟨fun ha => by rw [idle, elapse_dead ha], fun ha => ?_⟩
  rw [idle, elapse, if_pos ha]
  rfl

/-! ### Resets (10 R166) -/

/-- What a cold reset leaves of each block (section 10.5's lists of values). -/
theorem afterReset_coldReset (s : State) : AfterReset s (coldReset s) := by
  have filters : ∀ i, getFilter (coldReset s) i = { raw := (getFilter s i).raw, filtered := none, timer := none } := by
    intro i
    cases i <;> exact get_tab ..
  have blank {α : Type} {n : Nat} (x : α) (i : Fin n) : (Vector.replicate n x)[i] = x := Vector.getElem_replicate i.isLt
  refine ⟨⟨rfl, rfl, rfl, rfl, rfl, rfl, rfl⟩,
    ⟨rfl, rfl, fun g => congrArg SetCfg.present (blank _ g),
      fun x => ⟨congrArg BusCfg.present (blank _ x), congrArg BusCfg.present (blank _ x)⟩,
      fun g => congrArg GroupCfg.present (blank _ g), blank _, fun p => congrArg Profile.present (blank _ p)⟩,
    filters, ⟨rfl, rfl, fun i => ⟨blank _ i, blank _ i⟩⟩, blank _, ⟨rfl, rfl, rfl, rfl, rfl, rfl, rfl, rfl⟩, blank _,
    blank _, fun g => ?_, ⟨rfl, rfl, rfl, rfl, rfl, fun k => rfl⟩, fun g => ?_,
    fun i => ⟨blank _ i, blank _ i, blank _ i⟩, ⟨rfl, rfl, rfl, rfl, rfl, rfl, rfl⟩, fun x => ?_, ⟨rfl, rfl⟩,
    fun p => ⟨blank _ p, blank _ p⟩, by decide, fun g => ⟨blank _ g, blank _ g⟩, fun g => ⟨blank _ g, blank _ g⟩,
    ⟨rfl, rfl, fun l => ?_⟩, rfl⟩
  · have record : (coldReset s).share.sets[g] =
        { bias := 0, k := 0, sat := .clear, unload := .none, openWait := none, openPulse := none } := blank _ g
    rw [State.gcbOpen, record]
    exact ⟨rfl, rfl, rfl, rfl, rfl, rfl, rfl⟩
  · have record : (coldReset s).shed.groups[g] = { state := .connected, cause := none, confirm := none, out := false } :=
      blank _ g
    rw [record]
    exact ⟨rfl, rfl, rfl⟩
  · have record : (coldReset s).line.stations[x] = { state := .unknown, miss := 0, answers := Vector.replicate 4 none } :=
      blank _ x
    rw [record]
    exact ⟨rfl, rfl, blank _⟩
  · cases l <;> exact ⟨rfl, rfl⟩

/-- A warm reset leaves what a cold one leaves but for the biases, the SHED outputs and the reset kind. -/
theorem afterReset_warmReset (k : ResetKind) (s : State) : AfterReset s (warmReset k s) := by
  obtain ⟨start, image, filters, partition, sets, scan, kw, sect, share, ⟨period, req, offset, lastAbort, -, -⟩, groups,
    timers, queue, stations, stack, profiles, default, gbanks, sbanks, link, pending⟩ := afterReset_coldReset s
  have inputs (i : PlantInput) : getFilter (warmReset k s) i = getFilter (coldReset s) i := getFilter_plant rfl i
  refine ⟨start, image, fun i => (inputs i).trans (filters i), partition, sets, scan, kw, sect, fun g => ?_,
    ⟨period, req, offset, lastAbort, rfl, fun _ => rfl⟩, fun g => ?_, timers, queue, stations, stack, profiles, default,
    gbanks, sbanks, ⟨rfl, rfl, fun l => ?_⟩, pending⟩
  · obtain ⟨hk, sat, unload, openWait, openPulse, -, -⟩ := share g
    simp only [warmReset, State.gcbOpen, get_tab]
    exact ⟨hk, sat, unload, openWait, openPulse, by rw [openPulse]; rfl, rfl⟩
  · simp only [warmReset, get_tab]
    exact groups g
  · cases l <;> exact ⟨rfl, rfl⟩

theorem warmReset_shedOut (k : ResetKind) (s : State) (g : Fin 32) : (warmReset k s).shedOut g = s.shedOut g := by
  simp only [warmReset, State.shedOut, get_tab]

theorem coldReset_shedOut (s : State) (g : Fin 32) : (coldReset s).shedOut g = false :=
  congrArg GroupRt.out (Vector.getElem_replicate (a := (⟨.connected, none, none, false⟩ : GroupRt)) g.isLt)

theorem coldReset_biasOut (s : State) (g : Fin 8) : (coldReset s).biasOut g = 0 :=
  congrArg ShareRt.bias (Vector.getElem_replicate (a := (⟨0, 0, .clear, .none, none, none⟩ : ShareRt)) g.isLt)

/-- Settles O3: a cold reset, with the power on. -/
theorem powerOnResetValues : Obligations.PowerOnResetValues := fun s =>
  ⟨_, rfl, afterReset_coldReset s, rfl, rfl, rfl, coldReset_shedOut s, coldReset_biasOut s⟩

/-- Settles O5: a cold reset with the power off. -/
theorem lossOfPowerCutsStoreWrite : Obligations.LossOfPowerCutsStoreWrite := fun s =>
  ⟨_, rfl, rfl, rfl, rfl, rfl, fun h => if_pos h, fun h => if_neg (by rw [h]; exact Bool.false_ne_true)⟩

theorem exec_resetLineAsserted {s : State} (h : s.start.resetLine = false) :
    exec .resetLineAsserted s = .next
      (if s.start.power then warmReset .resetLine { s with start.resetLine := true }
       else { s with start.resetLine := true }) := by
  change execResetLineAsserted s = _
  rw [execResetLineAsserted, h, if_neg Bool.false_ne_true]

/-- A warm reset begins while a joint RESET's DONE is being sent on either link. -/
theorem exec_warmResetBegin {l : Link} {s : State} (h : SendsReset l s) :
    exec .warmResetBegin s = .next (warmReset .jointReset s) := by
  obtain ⟨r, hs, hr⟩ := h
  change execWarmResetBegin s = _
  unfold execWarmResetBegin
  refine congrArg _ (if_pos ?_)
  cases l with
  | a => exact Or.inl (by change s.link.a.sending = _ at hs; simp only [hs, hr])
  | b => exact Or.inr (by change s.link.b.sending = _ at hs; simp only [hs, hr])

/-- The end of a joint RESET's DONE resets the part. -/
theorem exec_responseSent_reset {l : Link} {s : State} (h : SendsReset l s) :
    exec (.responseSent l) s = .next (warmReset .jointReset s) := by
  obtain ⟨r, hs, hr⟩ := h
  change execResponseSent l s = _
  simp only [execResponseSent, hs, hr, if_true]

/-- Settles O4: the three ways into a warm reset, and the RESET line where it resets nothing. -/
theorem warmResetKeepsSheddingAndBiases : Obligations.WarmResetKeepsSheddingAndBiases := by
  refine ⟨fun c k s h => ?_, fun s => rfl, fun s h => ?_, fun s h hp => ?_⟩
  · rcases h with ⟨rfl, rfl, hp, hl⟩ | ⟨rfl, rfl, l, hl⟩ | ⟨l, rfl, rfl, hl⟩
    · refine ⟨_, (exec_resetLineAsserted hl).trans (congrArg _ (if_pos hp)), afterReset_warmReset .resetLine _, rfl, rfl,
        rfl, warmReset_shedOut .resetLine _, warmReset_bias .resetLine _⟩
    · exact ⟨_, exec_warmResetBegin hl, afterReset_warmReset .jointReset s, rfl, rfl, rfl, warmReset_shedOut _ s,
        warmReset_bias _ s⟩
    · exact ⟨_, exec_responseSent_reset hl, afterReset_warmReset .jointReset s, rfl, rfl, rfl, warmReset_shedOut _ s,
        warmReset_bias _ s⟩
  · change execResetLineAsserted s = _
    rw [execResetLineAsserted, h, if_pos rfl]
  · rw [exec_resetLineAsserted h, hp, if_neg Bool.false_ne_true]

/-- Settles O60: after a power-on reset every queue is empty and every object in its first state. -/
theorem lawsHoldAtReset : Obligations.LawsHoldAtReset := by
  have parks : ParksOk Image.default := parksOk_default
  have none_written : ∀ img, State.reset.start.storeOp = some img → ParksOk img := fun _ h => nomatch h
  have none_stored : ∀ img, State.reset.start.store = .sound img → ParksOk img := fun _ h => nomatch h
  have stopped : State.reset.running ≠ true := Bool.false_ne_true
  have bias (g : Fin 8) : State.reset.biasOut g = 0 :=
    congrArg ShareRt.bias (Vector.getElem_replicate (a := (⟨0, 0, .clear, .none, none, none⟩ : ShareRt)) g.isLt)
  have group (g : Fin 32) : State.reset.shed.groups[g] = ⟨.connected, none, none, false⟩ := Vector.getElem_replicate g.isLt
  refine ⟨⟨Nat.zero_le _, Nat.zero_le _⟩, ⟨fun g => ?_, parks, parks, none_written, none_stored⟩,
    ⟨fun h => absurd h stopped, fun g h => ?_⟩, ⟨Nat.zero_le _, fun _ h => nomatch h⟩,
    ⟨⟨Nat.zero_le _, List.Pairwise.nil, List.Pairwise.nil⟩, fun _ _ h => nomatch h⟩⟩
  · rw [bias]
    decide
  · rw [group] at h
    cases h

end Sys2Proof.Machine

/-! Notices only ever appended: what an account update sends stands in the queues after all that was sent before it. -/

namespace Sys2Proof.Machine

/-- From `s` to `t` notices were sent, one after another, or none. -/
def Appends (s t : State) : Prop := ∃ ns, Delivers ns s t

theorem Appends.refl (s : State) : Appends s s := ⟨[], delivers_nil_of_link rfl⟩

theorem Appends.trans {s t u : State} : Appends s t → Appends t u → Appends s u
  | ⟨_, h⟩, ⟨_, k⟩ => ⟨_, h.trans k⟩

theorem appends_of_link {s t : State} (h : t.link = s.link) : Appends s t := ⟨[], delivers_nil_of_link h⟩

theorem appends_notify (k : NoticeKind) (a : Option Nat) (v : Option Int) (s : State) : Appends s (notify k a v s) :=
  ⟨_, delivers_notify k a v s⟩

theorem appends_foldl {α : Type} {f : State → α → State} (h : ∀ t a, Appends t (f t a)) (l : List α) (s : State) :
    Appends s (l.foldl f s) := by
  induction l generalizing s with
  | nil => exact Appends.refl s
  | cons a l ih => exact (h s a).trans (ih _)

/-! ### A notice in the queue stays there -/

/-- The notice stands in the queue, or the queue has dropped some. -/
def LinkRt.Holds (n : Notice) (x : LinkRt) : Prop := x.overflow = false → n ∈ x.notices

theorem LinkRt.Holds.append {n : Notice} {x : LinkRt} (h : x.Holds n) (m : Notice) : (x.append m).Holds n := by
  rcases append_cases m x with ⟨-, hn, ho⟩ | ⟨-, -, ho⟩
  · intro hf
    rw [hn]
    exact List.mem_append_left _ (h (ho ▸ hf))
  · intro hf
    rw [ho] at hf
    cases hf

theorem LinkRt.Holds.appends {n : Notice} {x : LinkRt} (h : x.Holds n) (ms : List Notice) :
    (ms.foldl (fun y m => y.append m) x).Holds n := by
  induction ms generalizing x with
  | nil => exact h
  | cons m ms ih => exact ih (h.append m)

/-- A notice sent stays sent. -/
theorem Sent.appends {n : Notice} {s t : State} (h : Sent n s) : Appends s t → Sent n t
  | ⟨ms, k⟩ => fun l hf => by
    obtain ⟨hn, ho⟩ := k l
    rw [hn]
    exact LinkRt.Holds.appends (h l) ms (ho ▸ hf)

/-! ### The parts of an account update -/

theorem appends_shedSelection (k : NoticeKind) (i : Fin 4) (n : Nat) (s : State) : Appends s (shedSelection k i n s) := by
  obtain ⟨-, -, -, -, -, link, -⟩ := shedAction_rest .autoFast (selection s i n).1 s
  exact (appends_of_link link).trans ((appends_of_link rfl).trans (appends_notify ..))

theorem appends_abortUnloads (i : Fin 4) (s : State) : Appends s (abortUnloads i s) := by
  have each (c : Int) : ∀ t g, Appends t (abortUnload c g t) := fun t g =>
    (appends_of_link rfl).trans (appends_notify .unloadAborted _ _ _)
  unfold abortUnloads
  split
  · dsimp only
    split
    · exact Appends.refl s
    · split
      · exact (appends_foldl (each 2) _ s).trans (appends_of_link rfl)
      · split
        · exact (appends_foldl (each 1) _ s).trans (appends_of_link rfl)
        · exact Appends.refl s
  · exact Appends.refl s

theorem appends_blackoutIfDead (b : State) (i : Fin 4) (s : State) : Appends s (blackoutIfDead b i s) := by
  unfold blackoutIfDead
  split
  · split
    · obtain ⟨-, -, -, -, -, link, -⟩ := shedAction_rest .blackout (shedOrder s i) s
      exact (appends_of_link link).trans (appends_notify ..)
    · exact Appends.refl s
  · exact Appends.refl s

/-- The Shed Controller's part of an account update sends nothing. -/
theorem shedUpdate_link (scan : Bool) (i : Fin 4) (s : State) : (shedUpdate scan i s).link = s.link := by
  by_cases hr : s.running = true
  · cases ha : s.plant.accounts[i] with
    | none =>
      unfold shedUpdate
      rw [if_pos hr, ha]
    | some a =>
      obtain ⟨-, -, -, -, link⟩ := shedUpdate_dwell (scan := scan) hr ha
      exact link
  · unfold shedUpdate
    rw [if_neg hr]

theorem appends_seeWanted (i : Fin 4) (s : State) : Appends s (seeWanted i s) := by
  unfold seeWanted
  split
  · dsimp only
    split
    · exact (appends_notify _ _ _ s).trans (appends_of_link rfl)
    · exact appends_of_link rfl
  · exact Appends.refl s

/-- An offer, or an offer returned and another made, sends no notice. -/
theorem offerTest_link {i : Fin 4} {s t : State} (h : offerTest i s = some t) : t.link = s.link := by
  unfold offerTest at h
  split at h
  · split at h
    · split at h
      · cases h
        rfl
      · cases h
    · split at h
      · cases h
        rfl
      · cases h
  · cases h

theorem appends_reUpdate (i : Fin 4) (s : State) : Appends s (reUpdate i s) :=
  (appends_of_link rfl).trans ((appends_abortUnloads i (recompute [i] s)).trans
    ((appends_of_link (shedUpdate_link false i _)).trans (appends_seeWanted i _)))

theorem appends_arbiterUpdate (i : Fin 4) (s : State) : Appends s (arbiterUpdate i s) := by
  unfold arbiterUpdate
  dsimp only
  split
  · split
    next h =>
      exact (appends_seeWanted i s).trans ((appends_of_link (offerTest_link h)).trans (appends_reUpdate i _))
    next => exact appends_seeWanted i s
  · exact appends_seeWanted i s

theorem appends_handOn (scan : Bool) (b : State) (is : List (Fin 4)) (s : State) : Appends s (handOn scan b is s) :=
  (appends_foldl (fun t i => appends_abortUnloads i t) is s).trans
    ((appends_foldl (fun t i => appends_blackoutIfDead b i t) is _).trans
      ((appends_foldl (fun t i => appends_of_link (shedUpdate_link scan i t)) is _).trans
        (appends_foldl (fun t i => appends_arbiterUpdate i t) is _)))

/-- An account update and all it hands on send notices and nothing else over the links. -/
theorem appends_accountUpdate (scan : Bool) (b : State) (is : List (Fin 4)) (s : State) :
    Appends s (accountUpdate scan b is s) :=
  (appends_of_link rfl).trans (appends_handOn scan b is (recompute is s))

end Sys2Proof.Machine

/-! Moving a set between its states, and the end of a synchronising request (01 R7 to R14, 03 R51, 04 R77 to R82). -/

namespace Sys2Proof.Machine

/-! ### One object's record -/

theorem setSetState_get (g h : Fin 8) (st : SetState) (s : State) :
    (setSetState g st s).plant.sets[h] = if g = h then { s.plant.sets[g] with state := st } else s.plant.sets[h] :=
  get_upd ..

/-- What parking makes of a sharing record. -/
def ShareRt.parked (bias : Int) (r : ShareRt) : ShareRt :=
  { r with bias := bias, k := 0, sat := .clear, unload := .none, openWait := none }

/-- The bias parking gives a set: outside RUNNING it stands. -/
def parkBias (g : Fin 8) (s : State) : Int := if s.running then (s.conf.sets[g]).park else s.biasOut g

theorem park_get (g h : Fin 8) (s : State) :
    (park g s).share.sets[h] = if g = h then (s.share.sets[g]).parked (parkBias g s) else s.share.sets[h] := get_upd ..

theorem operating_of {s t : State} (h : t.start = s.start) : t.operating = s.operating := by
  rw [State.operating, State.operating, h]

/-! ### The end of a request -/

/-- The release of a request's object changes set states and sharing records alone. -/
theorem releaseObj_changes (o : SyncObj) (s : State) :
    releaseObj o s =
      { s with plant.sets := (releaseObj o s).plant.sets, share.sets := (releaseObj o s).share.sets } := by
  cases o with
  | tie k => rfl
  | set g =>
    change (if s.plant.sets[g].state = .incoming then park g (setSetState g .offline s) else s) = _
    unfold releaseObj
    dsimp only
    split <;> rfl

/-- An INCOMING set released is OFFLINE and parked. -/
theorem releaseObj_incoming {g : Fin 8} {s : State} (h : s.plant.sets[g].state = .incoming) :
    releaseObj (.set g) s = park g (setSetState g .offline s) := if_pos h

/-- A set that is not the request's, or not INCOMING, stands. -/
theorem releaseObj_other {o : SyncObj} {g : Fin 8} {s : State} (h : ¬ (o = .set g ∧ s.plant.sets[g].state = .incoming)) :
    (releaseObj o s).plant.sets[g] = s.plant.sets[g] ∧ (releaseObj o s).share.sets[g] = s.share.sets[g] := by
  cases o with
  | tie k => exact ⟨rfl, rfl⟩
  | set k =>
    by_cases hk : s.plant.sets[k].state = .incoming
    · have ne : k ≠ g := fun e => h ⟨congrArg SyncObj.set e, e ▸ hk⟩
      rw [releaseObj_incoming hk, park_get, if_neg ne, park_plant, setSetState_get, if_neg ne]
      exact ⟨rfl, rfl⟩
    · rw [show releaseObj (.set k) s = s from if_neg hk]
      exact ⟨rfl, rfl⟩

theorem syncAbort_idle {c : AbortCause} {s : State} (h : s.sync.req = none) : syncAbort c s = s := by
  unfold syncAbort
  rw [h]

/-- The state an abort leaves before its notice. -/
def abortState (c : AbortCause) (r : SyncReq) (s : State) : State :=
  releaseObj r.obj { endRequest s with sync.lastAbort := some c }

theorem syncAbort_request {c : AbortCause} {r : SyncReq} {s : State} (h : s.sync.req = some r) :
    syncAbort c s = notify .syncAborted (some r.obj.code) (some (c.code : Int)) (abortState c r s) := by
  unfold syncAbort
  rw [h]
  rfl

/-- What an abort changes: set states, sharing records, the Scanner's pair, the request and the queues. -/
theorem syncAbort_changes (c : AbortCause) (s : State) :
    syncAbort c s =
      { s with
        plant.sets := (syncAbort c s).plant.sets, share.sets := (syncAbort c s).share.sets,
        scan := (syncAbort c s).scan, sync := (syncAbort c s).sync, link := (syncAbort c s).link } := by
  cases h : s.sync.req with
  | none => rw [syncAbort_idle h]
  | some r =>
    rw [syncAbort_request h, abortState, releaseObj_changes]
    rfl

@[simp] theorem syncAbort_shed (c : AbortCause) (s : State) : (syncAbort c s).shed = s.shed := by rw [syncAbort_changes]

@[simp] theorem syncAbort_resv (c : AbortCause) (s : State) : (syncAbort c s).resv = s.resv := by rw [syncAbort_changes]

@[simp] theorem syncAbort_line (c : AbortCause) (s : State) : (syncAbort c s).line = s.line := by rw [syncAbort_changes]

@[simp] theorem syncAbort_prof (c : AbortCause) (s : State) : (syncAbort c s).prof = s.prof := by rw [syncAbort_changes]

@[simp] theorem syncAbort_start (c : AbortCause) (s : State) : (syncAbort c s).start = s.start := by
  rw [syncAbort_changes]

@[simp] theorem syncAbort_conf (c : AbortCause) (s : State) : (syncAbort c s).conf = s.conf := by rw [syncAbort_changes]

theorem abortState_changes (c : AbortCause) (r : SyncReq) (s : State) :
    (abortState c r s).link = s.link ∧ (abortState c r s).plant.generation = s.plant.generation := by
  rw [abortState, releaseObj_changes]
  exact ⟨rfl, rfl⟩

section
variable {c : AbortCause} {r : SyncReq} {s : State}

theorem syncAbort_sync (h : s.sync.req = some r) :
    (syncAbort c s).sync = { req := none, offset := 0, lastAbort := some c } := by
  rw [syncAbort_request h, notify_sync, abortState, releaseObj_changes]
  rfl

/-- The pair is released with the request. -/
theorem syncAbort_scan (h : s.sync.req = some r) : (syncAbort c s).scan = (releasePair s).scan := by
  rw [syncAbort_request h, notify_scan, abortState, releaseObj_changes]
  rfl

theorem syncAbort_delivers (h : s.sync.req = some r) :
    Delivers [newNotice .syncAborted (some r.obj.code) (some (c.code : Int)) s] s (syncAbort c s) := by
  obtain ⟨link, generation⟩ := abortState_changes c r s
  rw [syncAbort_request h]
  exact (delivers_nil_of_link link).notify generation (congrArg LinkIf.clock link) _ _ _

/-- The aborted request's INCOMING set is OFFLINE and parked. -/
theorem syncAbort_incoming {g : Fin 8} (h : s.sync.req = some r) (ho : r.obj = .set g)
    (hi : s.plant.sets[g].state = .incoming) :
    (syncAbort c s).plant.sets[g] = { s.plant.sets[g] with state := .offline } ∧
      (syncAbort c s).share.sets[g] = (s.share.sets[g]).parked (parkBias g s) := by
  have ended : ({ endRequest s with sync.lastAbort := some c } : State).plant.sets[g].state = .incoming := hi
  rw [syncAbort_request h, notify_plant, notify_share, abortState, ho, releaseObj_incoming ended, park_plant,
    setSetState_get, park_get, if_pos rfl, if_pos rfl]
  exact ⟨rfl, rfl⟩

/-- Every other set stands through an abort. -/
theorem syncAbort_other {g : Fin 8} (h : s.sync.req = some r)
    (hn : ¬ (r.obj = .set g ∧ s.plant.sets[g].state = .incoming)) :
    (syncAbort c s).plant.sets[g] = s.plant.sets[g] ∧ (syncAbort c s).share.sets[g] = s.share.sets[g] := by
  rw [syncAbort_request h, notify_plant, notify_share]
  exact releaseObj_other hn

end

/-- With no request in flight no close line is driven. -/
theorem closeLines_idle {s : State} (h : s.sync.req = none) :
    s.selector = 15 ∧ (∀ g : Fin 8, s.gcbClose g = false) ∧ ∀ k : Fin 4, s.tieClose k = false := by
  simp only [State.selector, State.gcbClose, State.tieClose, h, implies_true, and_self]

/-- Settles O41: every abort of a request, CANCEL SYNC, and the three timers of a request. -/
theorem syncRequestEnds : Obligations.SyncRequestEnds := by
  refine ⟨fun c r s h => ?_, fun l seq s ht => ?_, fun r n s h => ⟨fun hs hl => ?_, fun hc => ?_, fun hp => ?_⟩,
    rfl, rfl, rfl⟩
  · have sync := syncAbort_sync (c := c) h
    obtain ⟨selector, gcb, tie⟩ := closeLines_idle (congrArg Sync.req sync)
    refine ⟨sync, selector, congrArg Scan.selector (syncAbort_scan h), gcb, tie, fun l => (syncAbort_delivers h l).1,
      fun g hg => ?_, fun g hg => syncAbort_other h hg, syncAbort_shed c s, syncAbort_resv c s, syncAbort_line c s,
      syncAbort_prof c s, syncAbort_start c s, syncAbort_conf c s⟩
    obtain ⟨hset, hshare⟩ := syncAbort_incoming (c := c) h hg.1 hg.2
    exact ⟨congrArg SetRt.state hset, congrArg ShareRt.k hshare, congrArg ShareRt.bias hshare⟩
  · have answered : exec (.cancelSync l seq []) s =
        .next (answerTo l 26 seq (cancelSync [] (validFrame l s)).2 (cancelSync [] (validFrame l s)).1) :=
      congrArg _ (requestFrame_read (kind := 26) (owner := cancelSync) rfl seq ht)
    have operating : (validFrame l s).operating = s.operating := operating_of (validFrame_start l s)
    have request : (validFrame l s).sync.req = s.sync.req := congrArg Sync.req (validFrame_sync l s)
    refine ⟨fun ho => ?_, fun ho hr => ?_, fun ho hr => ?_⟩
    · rw [answered, cancelSync, operating, ho]
      rfl
    · rw [answered, cancelSync, operating, ho, if_pos rfl, request, hr]
      rfl
    · obtain ⟨r, hr⟩ := Option.isSome_iff_exists.1 hr
      rw [answered, cancelSync, operating, ho, if_pos rfl, request, hr]
  · change execSyncTimeLimitExpiry s = _
    have counting : r.limitTimer = some n := by
      rw [SyncReq.limitTimer, if_pos (by simpa [SyncReq.matches] using hs), hl]
    simp only [execSyncTimeLimitExpiry, reqTimer, h, counting, onExpiry_some]
  · change execCloseConfirmExpiry s = _
    simp only [execCloseConfirmExpiry, reqTimer, h, hc, onExpiry_some]
  · have run : exec .closePulseExpiry s = .next (updReq (fun x => { x with pulse := none }) (elapse n s)) := by
      change execClosePulseExpiry s = _
      simp only [execClosePulseExpiry, reqTimer, h, hp, onExpiry_some]
    have quiet : Quiet s (elapse n s) := (delivers_nil (elapse_sameQueue n s)).quiet
    refine ⟨_, run, rfl, fun g => ?_, fun k => ?_, rfl, rfl, quiet⟩
    · cases hq : (elapse n s).sync.req <;> simp [State.gcbClose, updReq, hq, SyncReq.closing]
    · cases hq : (elapse n s).sync.req <;> simp [State.tieClose, updReq, hq, SyncReq.closing]

/-! ### A set lost (01 R13, R14) -/

theorem grows_updateSetIsland (b : State) (g : Fin 8) (s : State) : Grows s (updateSetIsland b g s) :=
  (updates_updateSetIsland b g s).grows

theorem handOn_one (scan : Bool) (b : State) (i : Fin 4) (s : State) :
    handOn scan b [i] s = arbiterUpdate i (shedUpdate scan i (blackoutIfDead b i (abortUnloads i s))) := rfl

/-- A notice sent stays where it was sent while others are added. -/
theorem Sends.grows {n : Notice} {s t u : State} (h : Sends n s t) (k : Grows t u) : Sends n s u := by
  obtain ⟨⟨ma, ha⟩, mb, hb⟩ := h
  obtain ⟨⟨na, ka⟩, -⟩ := k .a
  obtain ⟨⟨nb, kb⟩, -⟩ := k .b
  exact ⟨⟨ma ++ na, by rw [← List.append_assoc, ← ha]; exact ka⟩, mb ++ nb, by rw [← List.append_assoc, ← hb]; exact kb⟩

/-- A set lost, before its account: its new state, its notice, parked. -/
def lostSet (g : Fin 8) (st : SetState) (k : NoticeKind) (v : Option Int) (s : State) : State :=
  park g (notify k (some g.val) v (setSetState g st s))

theorem setLoss_vacant {g : Fin 8} {st : SetState} {k : NoticeKind} {v : Option Int} {s : State}
    (h : setIsland s g = none) : setLoss g st k v s = lostSet g st k v s := by
  unfold setLoss
  rw [h]
  rfl

theorem setLoss_island {g : Fin 8} {st : SetState} {k : NoticeKind} {v : Option Int} {s : State} {i : Fin 4}
    (h : setIsland s g = some i) :
    setLoss g st k v s =
      handOn false s [i] (lossWithdraw i (fastShed i (islandLoad s i) (recompute [i] (lostSet g st k v s)))) := by
  unfold setLoss
  rw [h]
  rfl

/-- The offers a loss returns leave the sets and their sharing records. -/
theorem lossWithdraw_sets (i : Fin 4) (s : State) :
    (lossWithdraw i s).plant.sets = s.plant.sets ∧ (lossWithdraw i s).share.sets = s.share.sets := by
  have returned (es : List Entry) :
      (returnOffers es s).plant.sets = s.plant.sets ∧ (returnOffers es s).share.sets = s.share.sets :=
    ⟨foldl_same (·.plant.sets) (f := fun t e => returnOffer e t) (fun _ _ => rfl) es s,
      foldl_same (·.share.sets) (f := fun t e => returnOffer e t) (fun _ _ => rfl) es s⟩
  unfold lossWithdraw
  split
  · split
    · exact returned _
    · exact ⟨rfl, rfl⟩
  · exact ⟨rfl, rfl⟩

/-- What a set loss does after the set is parked: an account update's kind of change, and no other set moves but by an
abort of its unload. -/
theorem setLoss_after (g : Fin 8) (st : SetState) (k : NoticeKind) (v : Option Int) (s : State) :
    Updates (lostSet g st k v s) (setLoss g st k v s) ∧ SetMoves (lostSet g st k v s) (setLoss g st k v s) := by
  cases h : setIsland s g with
  | none =>
    rw [setLoss_vacant h]
    exact ⟨Updates.refl _, setMoves_of rfl rfl⟩
  | some i =>
    rw [setLoss_island h]
    obtain ⟨hsets, hshare⟩ := lossWithdraw_sets i (fastShed i (islandLoad s i) (recompute [i] (lostSet g st k v s)))
    exact ⟨(updates_recompute ..).trans ((updates_fastShed ..).trans
        ((updates_lossWithdraw ..).trans (updates_handOn ..))),
      setMoves_trans (moves_recompute ..).1 (setMoves_trans (moves_fastShed ..).1
        (setMoves_trans (setMoves_of hsets hshare) (moves_handOn ..).1))⟩

theorem lostSet_state (g h : Fin 8) (st : SetState) (k : NoticeKind) (v : Option Int) (s : State) :
    (lostSet g st k v s).plant.sets[h] = if g = h then { s.plant.sets[g] with state := st } else s.plant.sets[h] :=
  setSetState_get g h st s

theorem sends_lostSet (g : Fin 8) (st : SetState) (k : NoticeKind) (v : Option Int) (s : State) :
    Sends (newNotice k (some g.val) v s) s (lostSet g st k v s) :=
  sends_of_grows (s := setSetState g st s) (grows_of_link rfl)

theorem lostSet_share (g h : Fin 8) (st : SetState) (k : NoticeKind) (v : Option Int) (s : State) :
    (lostSet g st k v s).share.sets[h] = if g = h then (s.share.sets[g]).parked (parkBias g s) else s.share.sets[h] :=
  park_get ..

/-- A set lost stands OFFLINE or TRIPPED and parked through all that its loss hands on. -/
theorem setLoss_self {g : Fin 8} {st : SetState} {k : NoticeKind} {v : Option Int} {s : State} (hst : st ≠ .unloading) :
    (setLoss g st k v s).plant.sets[g] = { s.plant.sets[g] with state := st } ∧
      (setLoss g st k v s).share.sets[g] = (s.share.sets[g]).parked (parkBias g s) := by
  have lost := lostSet_state g g st k v s
  have parked := lostSet_share g g st k v s
  rw [if_pos rfl] at lost parked
  rcases (setLoss_after g st k v s).2 g with ⟨hset, hshare⟩ | ⟨hunload, -⟩
  · exact ⟨hset.trans lost, hshare.trans parked⟩
  · rw [lost] at hunload
    exact absurd hunload hst

/-- Settles O24: the set lost, and the others by the frame of the account update. -/
theorem setLossParksTheSet : Obligations.SetLossParksTheSet := by
  intro g st k v s hst
  have hst' : st ≠ .unloading := by rcases hst with rfl | rfl <;> decide
  obtain ⟨after, moves⟩ := setLoss_after g st k v s
  obtain ⟨hset, hshare⟩ := setLoss_self (g := g) (k := k) (v := v) (s := s) hst'
  have sent : Sends (newNotice k (some g.val) v s) s (setLoss g st k v s) := (sends_lostSet g st k v s).grows after.grows
  obtain ⟨⟨filters, ⟨partition, generation, -⟩, -, ⟨scan, sync, prof, start, conf⟩, shares, period, -⟩, -⟩ := after
  refine ⟨congrArg SetRt.state hset, (congrArg SetRt.latch hset :), congrArg ShareRt.k hshare, congrArg ShareRt.sat hshare,
    congrArg ShareRt.unload hshare, congrArg ShareRt.openWait hshare, (congrArg ShareRt.openPulse hshare :),
    congrArg ShareRt.bias hshare, fun h hne => ?_, filters, sent, fun hi => ?_, fun i hi => ?_, partition, generation,
    scan, sync, prof, start, conf, period⟩
  · have state := lostSet_state g h st k v s
    have share := lostSet_share g h st k v s
    rw [if_neg hne.symm] at state share
    refine ⟨(shares h).1.trans (congrArg ShareRt.bias share), ?_⟩
    rcases moves h with ⟨hs, -⟩ | ⟨hs, -, ho, -⟩
    · exact Or.inl (congrArg SetRt.state (hs.trans state))
    · exact Or.inr ⟨(congrArg SetRt.state state) ▸ hs, ho⟩
  · rw [setLoss_vacant hi]
    exact ⟨rfl, rfl, rfl⟩
  · have load : (eight.filter fun h => setPresent s h && decide (setIsland s h = some i) &&
        (decide (s.plant.sets[h].state = .online) || decide (s.plant.sets[h].state = .unloading))) = onlineSets s i := by
      refine List.filter_congr fun h _ => ?_
      cases s.plant.sets[h].state <;> simp [SetState.isOnline]
    rw [load]
    refine ⟨lostSet g st k v s, rfl, rfl, rfl, rfl, rfl, rfl, rfl, rfl, rfl, rfl, ?_⟩
    rw [setLoss_island hi, handOn_one]
    rfl

/-! ### Trips (01 R3, R9) -/

/-- A trip latch set. -/
def tripLatched (g : Fin 8) (s : State) : State := updSet g (fun r => { r with latch := true }) s

theorem tripLatched_get (g : Fin 8) (s : State) :
    (tripLatched g s).plant.sets[g] = { state := s.plant.sets[g].state, latch := true } :=
  (get_upd ..).trans (if_pos rfl)

theorem requestFor_some {o : SyncObj} {r : SyncReq} {s : State} (h : s.sync.req = some r) (ho : r.obj = o) :
    requestFor s o = some r := by
  unfold requestFor
  rw [h]
  exact if_pos ho

theorem requestFor_eq {o : SyncObj} {r : SyncReq} {s : State} (h : requestFor s o = some r) :
    s.sync.req = some r ∧ r.obj = o := by
  unfold requestFor at h
  split at h
  next q hq =>
    split at h
    next ho =>
      cases h
      exact ⟨hq, ho⟩
    next => cases h
  next => cases h

/-- A set tripped while INCOMING, before its request is aborted: TRIPPED, with its notice, parked. -/
theorem tripActive_incoming {g : Fin 8} {s : State} (h : s.plant.sets[g].state = .incoming) :
    tripActive g s =
      match requestFor s (.set g) with
      | some _ => syncAbort .setTripped (lostSet g .tripped .setTripped (some 0) s)
      | none => lostSet g .tripped .setTripped (some 0) s := by
  unfold tripActive
  rw [h]
  rfl

theorem tripActive_online {g : Fin 8} {s : State} (h : s.plant.sets[g].state.isOnline = true) :
    tripActive g s = setLoss g .tripped .setTripped (some 1) s := by
  unfold tripActive
  cases hs : s.plant.sets[g].state with
  | online => rfl
  | unloading => rfl
  | offline => rw [hs] at h; cases h
  | incoming => rw [hs] at h; cases h
  | tripped => rw [hs] at h; cases h

theorem tripActive_offline {g : Fin 8} {s : State} (h : s.plant.sets[g].state = .offline) :
    tripActive g s = notify .setTripped (some g.val) (some 0) (setSetState g .tripped s) := by
  unfold tripActive
  rw [h]

theorem tripActive_tripped {g : Fin 8} {s : State} (h : s.plant.sets[g].state = .tripped) : tripActive g s = s := by
  unfold tripActive
  rw [h]

section
variable {g : Fin 8} {s : State} (hp : setPresent s g = true)
include hp

theorem trip_latched (h : s.plant.sets[g].latch = true) : inputChanged (.setTrip g) true s = s := by
  change tripChanged g true s = s
  unfold tripChanged
  rw [if_pos hp]
  dsimp only
  rw [if_pos rfl, if_pos h]

theorem trip_stands (h : (s.conf.sets[g]).sense = .edge ∨ s.plant.sets[g].latch = false) :
    inputChanged (.setTrip g) false s = s := by
  change tripChanged g false s = _
  unfold tripChanged
  rw [if_pos hp]
  dsimp only
  rw [if_neg Bool.false_ne_true, if_neg]
  rintro ⟨hs, hl⟩
  rcases h with h | h
  · rw [h] at hs
    cases hs
  · rw [h] at hl
    cases hl

theorem trip_active (ho : s.operating = true) (h : s.plant.sets[g].latch = false) :
    inputChanged (.setTrip g) true s = tripActive g (tripLatched g s) := by
  change tripChanged g true s = _
  unfold tripChanged
  rw [if_pos hp]
  dsimp only
  rw [if_pos rfl, h, if_neg Bool.false_ne_true, if_pos ho]
  rfl

theorem trip_cleared (ho : s.operating = true) (hs : (s.conf.sets[g]).sense = .level) (h : s.plant.sets[g].latch = true) :
    inputChanged (.setTrip g) false s =
      notify .tripInputCleared (some g.val) none (updSet g (fun r => { r with latch := false }) s) := by
  change tripChanged g false s = _
  unfold tripChanged
  rw [if_pos hp]
  dsimp only
  rw [if_neg Bool.false_ne_true, if_pos ⟨hs, h⟩, if_pos ho]

end

/-- A set tripped while INCOMING: TRIPPED and parked, its request aborted after its own notice. -/
theorem tripActive_incoming_effect {g : Fin 8} {s : State} (h : s.plant.sets[g].state = .incoming) :
    let t := tripActive g s
    t.plant.sets[g] = { s.plant.sets[g] with state := .tripped } ∧
      t.share.sets[g] = (s.share.sets[g]).parked (parkBias g s) ∧
      Sends (newNotice .setTripped (some g.val) (some 0) s) s t ∧
      ∀ r, s.sync.req = some r → r.obj = .set g → t.sync = { req := none, offset := 0, lastAbort := some .setTripped } := by
  have state := lostSet_state g g .tripped .setTripped (some 0) s
  have share := lostSet_share g g .tripped .setTripped (some 0) s
  rw [if_pos rfl] at state share
  have sent := sends_lostSet g .tripped .setTripped (some 0) s
  rw [tripActive_incoming h]
  cases hr : requestFor s (.set g) with
  | none =>
    refine ⟨state, share, sent, fun r hr' ho => ?_⟩
    rw [requestFor_some hr' ho] at hr
    cases hr
  | some r =>
    have request : (lostSet g .tripped .setTripped (some 0) s).sync.req = some r := (requestFor_eq hr).1
    have tripped : ¬ (r.obj = .set g ∧ (lostSet g .tripped .setTripped (some 0) s).plant.sets[g].state = .incoming) := by
      rw [state]
      rintro ⟨-, hi⟩
      cases hi
    obtain ⟨hset, hshare⟩ := syncAbort_other (c := .setTripped) request tripped
    exact ⟨hset.trans state, hshare.trans share, sent.grows (grows_syncAbort _ _), fun _ _ _ => syncAbort_sync request⟩

/-- Settles O23: a trip input by the state of its set. -/
theorem tripMovesSet : Obligations.TripMovesSet := by
  intro g s hp ho
  have latched := tripLatched_get g s
  have state : (tripLatched g s).plant.sets[g].state = s.plant.sets[g].state := by rw [latched]
  refine ⟨trip_latched hp, fun hl => ⟨fun h => ?_, fun h => ?_, fun h => ?_, fun h => ?_⟩, trip_cleared hp ho,
    trip_stands hp⟩
  all_goals simp only [trip_active hp ho hl]
  · exact tripActive_online ((congrArg SetState.isOnline state).trans h)
  · exact tripActive_offline (state.trans h)
  · obtain ⟨hset, hshare, sent, aborted⟩ := tripActive_incoming_effect (state.trans h)
    refine ⟨hset.trans (by rw [latched]), congrArg ShareRt.k hshare, congrArg ShareRt.bias hshare, sent, fun r hr hro => ?_⟩
    have sync := aborted r hr hro
    exact ⟨congrArg Sync.req sync, congrArg Sync.lastAbort sync, (closeLines_idle (congrArg Sync.req sync)).2.1 g⟩
  · exact tripActive_tripped (state.trans h)

end Sys2Proof.Machine

/-! Breaker events (01 R7, R8, 03 R57). -/

namespace Sys2Proof.Machine

section
variable {g : Fin 8} {s : State} (hp : setPresent s g = true) (ho : s.operating = true)
include hp ho

theorem breaker_closed : inputChanged (.gcbStatus g) true s = breakerClosed g s := by
  change breakerChanged g true s = _
  rw [breakerChanged, if_pos ⟨hp, ho⟩, if_pos rfl]

theorem breaker_opened : inputChanged (.gcbStatus g) false s = breakerOpened g s := by
  change breakerChanged g false s = _
  rw [breakerChanged, if_pos ⟨hp, ho⟩, if_neg Bool.false_ne_true]

end

theorem toOnline_get (g h : Fin 8) (k : Nat) (s : State) :
    (toOnline g k s).plant.sets[h] = (if g = h then { s.plant.sets[g] with state := .online } else s.plant.sets[h]) ∧
      (toOnline g k s).share.sets[h] =
        if g = h then { s.share.sets[g] with k := k, unload := .none, openWait := none } else s.share.sets[h] :=
  ⟨setSetState_get g h .online s, get_upd ..⟩

/-- A set that no unload holds stands through the account update of its island. -/
theorem updateSetIsland_set {b : State} {g h : Fin 8} {s : State} (hs : s.plant.sets[h].state ≠ .unloading) :
    (updateSetIsland b g s).plant.sets[h] = s.plant.sets[h] ∧ (updateSetIsland b g s).share.sets[h] = s.share.sets[h] :=
  (moves_updateSetIsland b g s).set (Or.inl hs)

/-- A set closed by hand: ONLINE with k = N, its bias as it stood, after MANUAL_CLOSE 1. -/
theorem manualClose_effect (g : Fin 8) (s : State) :
    let t := manualClose g s
    t.plant.sets[g] = { s.plant.sets[g] with state := .online } ∧
      t.share.sets[g] = { s.share.sets[g] with k := (settings s).rampN, unload := .none, openWait := none } ∧
      Sends (newNotice .manualClose (some g.val) (some 1) s) s t ∧ UpdateFrame s t := by
  let m := notify .manualClose (some g.val) (some 1) (toOnline g (settings s).rampN s)
  obtain ⟨hset, hshare⟩ := toOnline_get g g (settings s).rampN s
  rw [if_pos rfl] at hset hshare
  have online : m.plant.sets[g].state ≠ .unloading := by
    rw [notify_plant, hset]
    exact SetState.noConfusion
  obtain ⟨sets, shares⟩ := updateSetIsland_set (b := s) (g := g) online
  have sent : Sends (newNotice .manualClose (some g.val) (some 1) s) s m :=
    sends_notify .manualClose (some g.val) (some 1) (toOnline g (settings s).rampN s)
  exact ⟨sets.trans hset, shares.trans hshare, sent.grows (grows_updateSetIsland s g m),
    ((updates_toOnline g _ s).trans ((updates_notify _ _ _ _).trans (updates_updateSetIsland s g m))).1⟩

theorem syncDone_request {r : SyncReq} {s : State} (h : s.sync.req = some r) :
    syncDone s = notify .syncDone (some r.obj.code) (some (if r.deadBus then 0 else 1)) (endRequest s) := by
  unfold syncDone
  rw [h]

/-- What a completed close leaves: no request, the offset 0, the last abort as it stood. -/
theorem syncDone_sync {r : SyncReq} {s : State} (h : s.sync.req = some r) :
    (syncDone s).sync = { req := none, offset := 0, lastAbort := s.sync.lastAbort } := by
  rw [syncDone_request h]
  rfl

theorem syncDone_blocks {r : SyncReq} {s : State} (h : s.sync.req = some r) :
    (syncDone s).plant = s.plant ∧ (syncDone s).share = s.share := by
  rw [syncDone_request h]
  exact ⟨rfl, rfl⟩

/-- SYNC_DONE sent, with the stamp of a state of the same generation and clock. -/
theorem sent_syncDone {r : SyncReq} {s b : State} (h : s.sync.req = some r)
    (hg : s.plant.generation = b.plant.generation) (hc : s.link.clock = b.link.clock) :
    Sent (newNotice .syncDone (some r.obj.code) (some (if r.deadBus then 0 else 1)) b) (syncDone s) := by
  rw [syncDone_request h, ← newNotice_of (t := endRequest s) (s := b) hg hc]
  exact sent_notify_self _ _ _ _

section
variable {g : Fin 8} {s : State}

theorem breakerClosed_incoming {r : SyncReq} (h : s.plant.sets[g].state = .incoming) (hr : s.sync.req = some r)
    (ho : r.obj = .set g) :
    breakerClosed g s =
      if r.stage = .close then syncDone (updateSetIsland s g (toOnline g 1 s))
      else syncAbort .externalClose (manualClose g s) := by
  unfold breakerClosed
  rw [h, requestFor_some hr ho]

/-- A close confirmed: ONLINE with k = 1 and its bias, and the request done. -/
theorem breakerClosed_confirms {r : SyncReq} (h : s.plant.sets[g].state = .incoming) (hr : s.sync.req = some r)
    (ho : r.obj = .set g) (hc : r.stage = .close) :
    let t := breakerClosed g s
    t.plant.sets[g].state = .online ∧ t.share.sets[g].k = 1 ∧ t.biasOut g = s.biasOut g ∧
      t.sync = { req := none, offset := 0, lastAbort := s.sync.lastAbort } ∧
      Sent (newNotice .syncDone (some g.val) (some (if r.deadBus then 0 else 1)) s) t := by
  let u := updateSetIsland s g (toOnline g 1 s)
  obtain ⟨hset, hshare⟩ := toOnline_get g g 1 s
  rw [if_pos rfl] at hset hshare
  have online : (toOnline g 1 s).plant.sets[g].state ≠ .unloading := by
    rw [hset]
    exact SetState.noConfusion
  obtain ⟨sets, shares⟩ := updateSetIsland_set (b := s) (g := g) online
  obtain ⟨⟨-, ⟨-, generation, -⟩, -, ⟨-, sync, -⟩, -, -, -, -, -, clock, -⟩, -⟩ :=
    (updates_toOnline g 1 s).trans (updates_updateSetIsland s g (toOnline g 1 s))
  have request : u.sync.req = some r := (congrArg Sync.req sync).trans hr
  obtain ⟨plant, share⟩ := syncDone_blocks request
  have done := sent_syncDone request generation clock
  have set : (syncDone u).plant.sets[g] = _ := (congrArg (·.sets[g]) plant).trans (sets.trans hset)
  have record : (syncDone u).share.sets[g] = _ := (congrArg (·.sets[g]) share).trans (shares.trans hshare)
  have ended : (syncDone u).sync = _ := syncDone_sync request
  rw [sync] at ended
  rw [ho] at done
  rw [breakerClosed_incoming h hr ho, if_pos hc]
  exact ⟨congrArg SetRt.state set, congrArg ShareRt.k record, (congrArg ShareRt.bias record :), ended, done⟩

/-- A close outside the request's CLOSE: a manual one, and the request aborted after it. -/
theorem breakerClosed_external {r : SyncReq} (h : s.plant.sets[g].state = .incoming) (hr : s.sync.req = some r)
    (ho : r.obj = .set g) (hc : r.stage ≠ .close) :
    let t := breakerClosed g s
    t.plant.sets[g].state = .online ∧ t.share.sets[g].k = (settings s).rampN ∧ t.biasOut g = s.biasOut g ∧
      t.sync = { req := none, offset := 0, lastAbort := some .externalClose } ∧
      Sends (newNotice .manualClose (some g.val) (some 1) s) s t := by
  obtain ⟨hset, hshare, sent, -, -, -, ⟨-, sync, -⟩, -⟩ := manualClose_effect g s
  have request : (manualClose g s).sync.req = some r := (congrArg Sync.req sync).trans hr
  have online : ¬ (r.obj = .set g ∧ (manualClose g s).plant.sets[g].state = .incoming) := by
    rw [hset]
    rintro ⟨-, hi⟩
    cases hi
  obtain ⟨sets, shares⟩ := syncAbort_other (c := .externalClose) request online
  rw [breakerClosed_incoming h hr ho, if_neg hc]
  exact ⟨congrArg SetRt.state (sets.trans hset), congrArg ShareRt.k (shares.trans hshare),
    (congrArg ShareRt.bias (shares.trans hshare) :), syncAbort_sync request, sent.grows (grows_syncAbort _ _)⟩

theorem breakerOpened_unloaded (h : s.plant.sets[g].state = .unloading) (hw : s.share.sets[g].openWait.isSome = true) :
    breakerOpened g s = updateSetIsland s g (lostSet g .offline .unloadDone none s) := by
  unfold breakerOpened
  rw [h]
  exact if_pos hw

/-- The opening an unload waits for: OFFLINE and parked, after UNLOAD_DONE. -/
theorem breakerOpened_ends (h : s.plant.sets[g].state = .unloading) (hw : s.share.sets[g].openWait.isSome = true) :
    let t := breakerOpened g s
    t.plant.sets[g].state = .offline ∧ t.share.sets[g] = (s.share.sets[g]).parked (parkBias g s) ∧
      Sends (newNotice .unloadDone (some g.val) none s) s t := by
  have state := lostSet_state g g .offline .unloadDone none s
  have share := lostSet_share g g .offline .unloadDone none s
  rw [if_pos rfl] at state share
  have offline : (lostSet g .offline .unloadDone none s).plant.sets[g].state ≠ .unloading := by
    rw [state]
    exact SetState.noConfusion
  obtain ⟨sets, shares⟩ := updateSetIsland_set (b := s) (g := g) offline
  rw [breakerOpened_unloaded h hw]
  exact ⟨(congrArg SetRt.state sets).trans (by rw [state]), shares.trans share,
    (sends_lostSet g .offline .unloadDone none s).grows (grows_updateSetIsland _ _ _)⟩

theorem breakerOpened_uncommanded
    (h : s.plant.sets[g].state = .online ∨ s.plant.sets[g].state = .unloading ∧ s.share.sets[g].openWait = none) :
    breakerOpened g s = setLoss g .offline .uncommandedOpen none s := by
  unfold breakerOpened
  rcases h with h | ⟨h, hw⟩
  · rw [h]
  · rw [h]
    exact if_neg (by rw [hw]; exact Bool.false_ne_true)

end

/-- Settles O22: a breaker event by the state of its set. -/
theorem breakerMovesSet : Obligations.BreakerMovesSet := by
  intro g s hp ho
  refine ⟨fun h => ?_, fun r h hr hro hc => ?_, fun r h hr hro hc => ?_, fun h => ?_, fun h => ?_, fun h hw => ?_,
    fun h => ?_, fun h => ?_⟩
  all_goals simp only [breaker_closed hp ho, breaker_opened hp ho]
  · obtain ⟨hset, hshare, sent, frame⟩ := manualClose_effect g s
    have manual : breakerClosed g s = manualClose g s := by
      unfold breakerClosed
      rw [h]
    simp only [manual]
    exact ⟨congrArg SetRt.state hset, congrArg ShareRt.k hshare, sent, frame⟩
  · obtain ⟨state, hk, bias, sync, done⟩ := breakerClosed_confirms h hr hro hc
    obtain ⟨selector, gcb, -⟩ := closeLines_idle (congrArg Sync.req sync)
    exact ⟨state, hk, bias, congrArg Sync.req sync, (congrArg Sync.lastAbort sync :), gcb g, selector, done⟩
  · obtain ⟨state, hk, bias, sync, sent⟩ := breakerClosed_external h hr hro hc
    exact ⟨state, hk, bias, congrArg Sync.req sync, congrArg Sync.lastAbort sync, sent⟩
  · unfold breakerClosed
    rw [h]
  · unfold breakerClosed
    rcases h with h | h <;> rw [h]
  · obtain ⟨state, share, sent⟩ := breakerOpened_ends h hw
    rw [State.biasOut, share]
    exact ⟨state, rfl, rfl, rfl, rfl, rfl, rfl, sent⟩
  · exact breakerOpened_uncommanded h
  · unfold breakerOpened
    rcases h with h | h | h <;> rw [h]

end Sys2Proof.Machine

/-! The filtered plant inputs and the partition (01 R1, R2, R12, R16 to R19, 05 R89, R90). -/

namespace Sys2Proof.Machine

/-! ### Raw levels (01 R1) -/

/-- Settles O20: a raw level is taken by its own filter and by nothing else. -/
theorem rawInputRunsItsFilter : Obligations.RawInputRunsItsFilter := by
  intro i level s
  refine ⟨_, rfl, ?_⟩
  rw [getFilter_setFilter]
  refine ⟨?_, ?_, fun h => ?_, fun hs v h => ?_, fun j hj => getFilter_setFilter_ne hj _ s, setFilter_sets .., setFilter_partition ..,
    setFilter_generation .., setFilter_accounts .., setFilter_freq .., setFilter_scan .., setFilter_share ..,
    setFilter_sync .., setFilter_shed .., setFilter_resv .., setFilter_line .., setFilter_prof .., setFilter_link ..,
    setFilter_start .., setFilter_conf .., setFilter_pending ..⟩
  · unfold Filter.takeRaw
    split
    · rfl
    · split <;> rfl
  · unfold Filter.takeRaw
    split
    next h => rfl
    next h => split <;> rfl
  · simp only [Filter.takeRaw, h]
  · simp only [Filter.takeRaw, h, hs, if_true]

/-! ### The partition (01 R16, R17) -/

theorem tieUsable_iff (s : State) (k : Fin 4) :
    tieUsable s k = true ↔
      s.conf.ties[k].present = true ∧ s.conf.sections[k].present = true ∧ s.conf.sections[k + 1].present = true := by
  unfold tieUsable sectPresent tieLow tieHigh
  by_cases hk : k = 3
  · subst hk
    simp only [if_true, Bool.and_eq_true, and_assoc]
    exact and_congr_right fun _ => and_comm
  · simp [hk, and_assoc]

theorem tieJoins_iff (s : State) (k x y : Fin 4) :
    TieJoins s k x y ↔ tieJoins s k = true ∧ (x = k ∧ y = k + 1 ∨ y = k ∧ x = k + 1) := by
  unfold tieJoins TieJoins
  rw [Bool.and_eq_true, decide_eq_true_iff, tieUsable_iff]
  constructor
  · rintro ⟨ht, hx, hy, ⟨rfl, rfl⟩ | ⟨rfl, rfl⟩, hc⟩
    · exact ⟨⟨⟨ht, hx, hy⟩, hc⟩, Or.inl ⟨rfl, rfl⟩⟩
    · exact ⟨⟨⟨ht, hy, hx⟩, hc⟩, Or.inr ⟨rfl, rfl⟩⟩
  · rintro ⟨⟨⟨ht, hx, hy⟩, hc⟩, ⟨rfl, rfl⟩ | ⟨rfl, rfl⟩⟩
    · exact ⟨ht, hx, hy, Or.inl ⟨rfl, rfl⟩, hc⟩
    · exact ⟨ht, hy, hx, Or.inr ⟨rfl, rfl⟩, hc⟩

/-- The sections that a chain of joining ties connects. -/
def Linked (s : State) : Fin 4 → Fin 4 → Prop := Relation.ReflTransGen fun x y => ∃ k, TieJoins s k x y

theorem linked_symm {s : State} {x y : Fin 4} (h : Linked s x y) : Linked s y x := by
  induction h with
  | refl => exact .refl
  | tail _ step ih =>
    obtain ⟨k, ht, hx, hy, ends, hc⟩ := step
    exact .head ⟨k, ht, hy, hx, ends.symm, hc⟩ ih

/-- Ties up the ring that all join connect their two ends. -/
theorem linked_arc {s : State} : ∀ (n : Nat) {x : Fin 4}, arcOf (tieJoins s) x n = true → Linked s x (x + Fin.ofNat 4 n) := by
  intro n
  induction n with
  | zero => 
    intro x _
    rw [show Fin.ofNat 4 0 = 0 from rfl, add_zero]
    exact .refl
  | succ n ih =>
    intro x h
    obtain ⟨hx, rest⟩ := Bool.and_eq_true .. ▸ h
    have first : Linked s x (x + 1) := .single ⟨x, (tieJoins_iff ..).2 ⟨hx, Or.inl ⟨rfl, rfl⟩⟩⟩
    have ends : x + 1 + Fin.ofNat 4 n = x + Fin.ofNat 4 (n + 1) := by
      rw [add_assoc]
      congr 1
      apply Fin.ext
      simp [Fin.val_add]
      omega
    exact first.trans (ends ▸ ih rest)

/-- Joined neighbours have one lowest section, for each of the sixteen sets of joining ties. -/
theorem lowestOf_joined : ∀ (j : Fin 4 → Bool) (k : Fin 4), j k = true → lowestOf j k = lowestOf j (k + 1) := by
  decide

/-- The lowest section found is connected by an arc one way or the other round the ring. -/
theorem lowestOf_arc : ∀ (j : Fin 4 → Bool) (x : Fin 4),
    arcOf j x (lowestOf j x - x).val = true ∨ arcOf j (lowestOf j x) (x - lowestOf j x).val = true := by
  decide

theorem linked_lowest (s : State) (x : Fin 4) : Linked s x (lowestOf (tieJoins s) x) := by
  have ends (a b : Fin 4) : a + Fin.ofNat 4 (b - a).val = b := by revert a b; decide
  rcases lowestOf_arc (tieJoins s) x with h | h
  · have up := linked_arc _ h
    rwa [ends] at up
  · have down := linked_symm (linked_arc _ h)
    rwa [ends] at down

theorem lowest_linked {s : State} {x y : Fin 4} (h : Linked s x y) :
    lowestOf (tieJoins s) x = lowestOf (tieJoins s) y := by
  induction h with
  | refl => rfl
  | tail _ step ih =>
    obtain ⟨k, hk⟩ := step
    obtain ⟨hj, ⟨rfl, rfl⟩ | ⟨rfl, rfl⟩⟩ := (tieJoins_iff ..).1 hk
    · exact ih.trans (lowestOf_joined _ _ hj)
    · exact ih.trans (lowestOf_joined _ _ hj).symm

/-- The computed partition is the one of 01 R17. -/
theorem partitionOf_computePartition (s : State) : PartitionOf s (computePartition s) := by
  intro x
  have lowest := computePartition_get s
  refine ⟨?_, fun y h => ?_, fun y => ⟨fun h => ?_, fun h => ?_⟩⟩
  · rw [lowest]
    exact linked_lowest s x
  · rw [lowest, lowest_linked h]
    exact (lowestOf_law (tieJoins s) y).1
  · rw [lowest, lowest] at h
    exact (linked_lowest s x).trans (h ▸ linked_symm (linked_lowest s y))
  · rw [lowest, lowest]
    exact lowest_linked h

/-! ### What the events of an input leave alone -/

/-- From `s` to `t` the filters, the Profile Unit, the Start-up Controller and the image in force stand. -/
def Stands (s t : State) : Prop :=
  (∀ i, getFilter t i = getFilter s i) ∧ t.prof = s.prof ∧ t.start = s.start ∧ t.conf = s.conf

theorem Stands.refl (s : State) : Stands s s := ⟨fun _ => rfl, rfl, rfl, rfl⟩

theorem Stands.trans {s t u : State} (h : Stands s t) (k : Stands t u) : Stands s u := by
  obtain ⟨hf, hp, hs, hc⟩ := h
  obtain ⟨kf, kp, ks, kc⟩ := k
  exact ⟨fun i => (kf i).trans (hf i), kp.trans hp, ks.trans hs, kc.trans hc⟩

theorem Updates.stands {s t : State} (h : Updates s t) : Stands s t := by
  obtain ⟨⟨filters, -, -, ⟨-, -, prof, start, conf⟩, -⟩, -⟩ := h
  exact ⟨filters, prof, start, conf⟩

theorem stands_of_plant {s t : State} (hp : t.plant = s.plant) (hr : t.prof = s.prof) (hs : t.start = s.start)
    (hc : t.conf = s.conf) : Stands s t := ⟨getFilter_plant hp, hr, hs, hc⟩

/-- A change of the Plant Image outside the five vectors of filters. -/
theorem getFilter_of {s t : State}
    (h : t.plant.gcb = s.plant.gcb ∧ t.plant.ready = s.plant.ready ∧ t.plant.trip = s.plant.trip ∧
      t.plant.tie = s.plant.tie ∧ t.plant.confirm = s.plant.confirm) (i : PlantInput) : getFilter t i = getFilter s i := by
  obtain ⟨gcb, ready, trip, tie, confirm⟩ := h
  cases i <;> simp only [getFilter, gcb, ready, trip, tie, confirm]

theorem stands_updSet (g : Fin 8) (f : SetRt → SetRt) (s : State) : Stands s (updSet g f s) :=
  ⟨getFilter_of ⟨rfl, rfl, rfl, rfl, rfl⟩, rfl, rfl, rfl⟩

theorem stands_syncAbort (c : AbortCause) (s : State) : Stands s (syncAbort c s) := by
  rw [syncAbort_changes]
  exact ⟨getFilter_of ⟨rfl, rfl, rfl, rfl, rfl⟩, rfl, rfl, rfl⟩

theorem stands_syncDone (s : State) : Stands s (syncDone s) := by
  unfold syncDone
  split
  · exact stands_of_plant rfl rfl rfl rfl
  · exact Stands.refl s

theorem stands_lostSet (g : Fin 8) (st : SetState) (k : NoticeKind) (v : Option Int) (s : State) :
    Stands s (lostSet g st k v s) := ⟨getFilter_of ⟨rfl, rfl, rfl, rfl, rfl⟩, rfl, rfl, rfl⟩

theorem stands_setLoss (g : Fin 8) (st : SetState) (k : NoticeKind) (v : Option Int) (s : State) :
    Stands s (setLoss g st k v s) := (stands_lostSet g st k v s).trans (setLoss_after g st k v s).1.stands

theorem stands_notify (k : NoticeKind) (a : Option Nat) (v : Option Int) (s : State) : Stands s (notify k a v s) :=
  stands_of_plant rfl rfl rfl rfl

theorem stands_manualClose (g : Fin 8) (s : State) : Stands s (manualClose g s) :=
  ((updates_toOnline g _ s).trans ((updates_notify _ _ _ _).trans (updates_updateSetIsland s g _))).stands

theorem stands_breakerClosed (g : Fin 8) (s : State) : Stands s (breakerClosed g s) := by
  unfold breakerClosed
  split
  · exact stands_manualClose g s
  · split
    · split
      · exact ((updates_toOnline g 1 s).trans (updates_updateSetIsland s g _)).stands.trans (stands_syncDone _)
      · exact (stands_manualClose g s).trans (stands_syncAbort _ _)
    · exact stands_manualClose g s
  · exact stands_notify _ _ _ s
  · exact Stands.refl s
  · exact Stands.refl s

theorem stands_breakerOpened (g : Fin 8) (s : State) : Stands s (breakerOpened g s) := by
  unfold breakerOpened
  split
  · split
    · exact (stands_lostSet g .offline .unloadDone none s).trans (updates_updateSetIsland s g _).stands
    · exact stands_setLoss ..
  · exact stands_setLoss ..
  · exact Stands.refl s
  · exact Stands.refl s
  · exact Stands.refl s

theorem stands_tripActive (g : Fin 8) (s : State) : Stands s (tripActive g s) := by
  unfold tripActive
  split
  · exact stands_setLoss ..
  · exact stands_setLoss ..
  · dsimp only
    split
    · exact (stands_lostSet g .tripped .setTripped (some 0) s).trans (stands_syncAbort _ _)
    · exact stands_lostSet g .tripped .setTripped (some 0) s
  · exact (stands_updSet g _ s).trans (stands_notify _ _ _ _)
  · exact Stands.refl s

theorem stands_tripChanged (g : Fin 8) (b : Bool) (s : State) : Stands s (tripChanged g b s) := by
  unfold tripChanged
  dsimp only
  split
  · split
    · split
      · exact Stands.refl s
      · split
        · exact (stands_updSet g _ s).trans (stands_tripActive g _)
        · exact stands_updSet g _ s
    · split
      · split
        · exact (stands_updSet g _ s).trans (stands_notify _ _ _ _)
        · exact stands_updSet g _ s
      · exact Stands.refl s
  · exact Stands.refl s

theorem stands_confirmChanged (c : Fin 16) (b : Bool) (s : State) : Stands s (confirmChanged c b s) := by
  unfold confirmChanged
  split
  · split
    · exact ((updates_foldl (fun t g => updates_updGroup g _ t) _ s).trans
        (updates_foldl (fun t g => updates_testGatesOf g t) _ _)).stands
    · exact (updates_foldl (fun t g => updates_notify _ _ _ t) _ s).stands
  · exact Stands.refl s

/-! ### A partition change (01 R19) -/

/-- Offers returned change the queue and the pending answers alone. -/
theorem returnOffers_changes (es : List Entry) (s : State) :
    returnOffers es s =
      { s with resv.queue := (returnOffers es s).resv.queue, line.stations := (returnOffers es s).line.stations } := by
  induction es generalizing s with
  | nil => rfl
  | cons e es ih =>
    rw [show returnOffers (e :: es) s = returnOffers es (returnOffer e s) from rfl, ih]
    rfl

/-- The new partition with its generation. -/
def withPartition (q : Vector (Fin 4) 4) (s : State) : State :=
  { s with plant.partition := some q, plant.generation := (s.plant.generation + 1) % 65536 }

/-- A partition change before the offers are returned: the accounts, PARTITION_CHANGED, no dwell and no restore delay. -/
def partitionNoticed (cause : Option (Fin 4)) (p q : Vector (Fin 4) 4) (s : State) : State :=
  let s2 :=
    notify .partitionChanged (cause.map Fin.val) none (clearWanted (carryShortfall p q (recompute four (withPartition q s))))
  { s2 with shed.dwell := Vector.replicate 4 Dwell.idle, shed.restore := Vector.replicate 4 none }

/-- A partition change before the Synchroniser and the account update take it. -/
def partitionState (cause : Option (Fin 4)) (p q : Vector (Fin 4) 4) (s : State) : State :=
  returnOffers (s.resv.queue.filter fun e => decide (e.state = .offered)) (partitionNoticed cause p q s)

theorem partitionChange_eq (cause : Option (Fin 4)) (p q : Vector (Fin 4) 4) (s : State) :
    partitionChange cause p q s =
      accountUpdate false s four (syncTopology cause (movesIsland p q) (partitionState cause p q s)) := rfl

section
variable (c : Option (Fin 4)) (p q : Vector (Fin 4) 4) (s : State)

/-- The blocks a partition change hands to the Synchroniser as the event left them. -/
theorem partitionState_blocks :
    (partitionState c p q s).plant = (partitionNoticed c p q s).plant ∧ (partitionState c p q s).sync = s.sync ∧
      (partitionState c p q s).shed = (partitionNoticed c p q s).shed ∧
      (partitionState c p q s).link = (partitionNoticed c p q s).link ∧
      (partitionState c p q s).resv.lastWanted = (partitionNoticed c p q s).resv.lastWanted := by
  rw [partitionState, returnOffers_changes]
  exact ⟨rfl, rfl, rfl, rfl, rfl⟩

theorem stands_partitionState : Stands s (partitionState c p q s) := by
  rw [partitionState, returnOffers_changes]
  exact ⟨getFilter_of ⟨rfl, rfl, rfl, rfl, rfl⟩, rfl, rfl, rfl⟩

theorem partitionState_stamp :
    (partitionState c p q s).plant.generation = (withPartition q s).plant.generation ∧
      (partitionState c p q s).link.clock = s.link.clock := by
  obtain ⟨plant, -, -, link, -⟩ := partitionState_blocks c p q s
  rw [plant, link]
  exact ⟨rfl, rfl⟩

theorem sends_partitionState :
    Sends (newNotice .partitionChanged (c.map Fin.val) none (withPartition q s)) s (partitionState c p q s) := by
  obtain ⟨-, -, -, link, -⟩ := partitionState_blocks c p q s
  exact sends_of_grows (s := clearWanted (carryShortfall p q (recompute four (withPartition q s)))) (grows_of_link link)

theorem partitionState_accounts (i : Fin 4) :
    (partitionState c p q s).plant.accounts[i] =
      ((recompute four (withPartition q s)).plant.accounts[i]).map fun a =>
        if sectionsOf p i = sectionsOf q i then a else { a with shortfall := false } := by
  obtain ⟨plant, -⟩ := partitionState_blocks c p q s
  rw [plant]
  exact get_tab ..

theorem partitionState_lastWanted (i : Fin 4) :
    (partitionState c p q s).resv.lastWanted[i] =
      if ((partitionState c p q s).plant.accounts[i]).isSome then s.resv.lastWanted[i] else 0 := by
  obtain ⟨plant, -, -, -, lastWanted⟩ := partitionState_blocks c p q s
  rw [plant, lastWanted]
  refine (get_tab ..).trans ?_
  change (match (partitionNoticed c p q s).plant.accounts[i] with | some _ => s.resv.lastWanted[i] | none => 0) = _
  cases (partitionNoticed c p q s).plant.accounts[i] <;> rfl

/-- A partition change returns every offer: its entry is WAITING again, with WITHDRAWN. -/
theorem partitionState_queue {s : State} (h : QueueLaw s) :
    (partitionState c p q s).resv.queue = s.resv.queue.map (fun e =>
      if e.state = .offered then { e with state := .waiting, remaining := (settings s).waitLimit * 1000 } else e) ∧
    ∀ e ∈ s.resv.queue, e.state = .offered →
      ((partitionState c p q s).line.stations[e.station]).answers[e.consumer] =
        some { answer := .withdrawn, delivered := false } := by
  obtain ⟨queue, answers, -⟩ :=
    returnOffers_writes (s.resv.queue.filter fun e => decide (e.state = .offered)) (partitionNoticed c p q s)
  have self (e : Entry) : e.isOf e.station e.consumer = true := by simp [Entry.isOf]
  refine ⟨queue.trans (List.map_congr_left fun e he => ?_), fun e he ho => ?_⟩
  · have returned : ((s.resv.queue.filter fun e => decide (e.state = .offered)).any
        fun f => e.isOf f.station f.consumer) = true ↔ e.state = .offered := by
      rw [List.any_eq_true]
      constructor
      · rintro ⟨f, hf, hef⟩
        obtain ⟨hfq, hfo⟩ := List.mem_filter.1 hf
        obtain ⟨station, consumer⟩ : e.station = f.station ∧ e.consumer = f.consumer := by simpa [Entry.isOf] using hef
        rw [h.unique he hfq station consumer]
        exact of_decide_eq_true hfo
      · intro ho
        exact ⟨e, List.mem_filter.2 ⟨he, decide_eq_true ho⟩, self e⟩
    by_cases ho : e.state = .offered
    · rw [if_pos (returned.2 ho), if_pos ho]
      rfl
    · rw [if_neg (fun hr => ho (returned.1 hr)), if_neg ho]
  · refine (answers e.station e.consumer).trans (if_pos (List.any_eq_true.2 ⟨e, ?_, self e⟩))
    exact List.mem_filter.2 ⟨he, decide_eq_true ho⟩

end

/-! ### The Synchroniser takes a partition change (04 R78, R81) -/

theorem stands_syncTopology (c : Option (Fin 4)) (moved : Fin 4 → Bool) (s : State) : Stands s (syncTopology c moved s) := by
  unfold syncTopology
  split
  · split
    · split
      · split
        · exact stands_syncDone s
        · exact stands_syncAbort _ s
      · exact stands_syncAbort _ s
    · exact Stands.refl s
  · exact Stands.refl s

/-- The Synchroniser's part leaves the Shed Controller, the partition and the stamp of the notices. -/
theorem syncTopology_keeps (c : Option (Fin 4)) (moved : Fin 4 → Bool) (s : State) :
    (syncTopology c moved s).shed = s.shed ∧ (syncTopology c moved s).plant.partition = s.plant.partition ∧
      (syncTopology c moved s).plant.generation = s.plant.generation := by
  have done : (syncDone s).shed = s.shed ∧ (syncDone s).plant.partition = s.plant.partition ∧
      (syncDone s).plant.generation = s.plant.generation := by
    unfold syncDone
    split <;> exact ⟨rfl, rfl, rfl⟩
  have aborted : (syncAbort .topologyChanged s).shed = s.shed ∧
      (syncAbort .topologyChanged s).plant.partition = s.plant.partition ∧
      (syncAbort .topologyChanged s).plant.generation = s.plant.generation := by
    rw [syncAbort_changes]
    exact ⟨rfl, rfl, rfl⟩
  unfold syncTopology
  split
  · split
    · split
      · split
        · exact done
        · exact aborted
      · exact aborted
    · exact ⟨rfl, rfl, rfl⟩
  · exact ⟨rfl, rfl, rfl⟩

section
variable {k : Fin 4} {moved : Fin 4 → Bool} {r : SyncReq} {s : State}

/-- A request of unmoved sections goes on. -/
theorem syncTopology_unmoved {c : Option (Fin 4)} (h : ∀ r, s.sync.req = some r → r.sections.any moved = false) :
    syncTopology c moved s = s := by
  unfold syncTopology
  split
  next r hr => rw [h r hr, if_neg Bool.false_ne_true]
  next => rfl

/-- The closing of its own tie completes a request in CLOSE. -/
theorem syncTopology_closes (hr : s.sync.req = some r) (hm : r.sections.any moved = true)
    (hc : r.obj = .tie k ∧ r.stage = .close ∧ s.plant.tie[k].filtered = some true) :
    syncTopology (some k) moved s = syncDone s := by
  unfold syncTopology
  rw [hr]
  dsimp only
  rw [if_pos hm, if_pos hc]

theorem syncTopology_aborts (hr : s.sync.req = some r) (hm : r.sections.any moved = true)
    (hc : ¬ (r.obj = .tie k ∧ r.stage = .close ∧ s.plant.tie[k].filtered = some true)) :
    syncTopology (some k) moved s = syncAbort .topologyChanged s := by
  unfold syncTopology
  rw [hr]
  dsimp only
  rw [if_pos hm, if_neg hc]

end

/-! ### No dwell and no restore delay starts at an event update -/

/-- Every dwell is IDLE and no restore delay runs. -/
def TimersIdle (s : State) : Prop := ∀ i : Fin 4, s.shed.dwell[i] = Dwell.idle ∧ s.shed.restore[i] = none

theorem timersIdle_of {s t : State} (h : t.shed = s.shed) (k : TimersIdle s) : TimersIdle t := fun i => by
  rw [h]
  exact k i

theorem abortUnloads_shed (i : Fin 4) (s : State) : (abortUnloads i s).shed = s.shed := by
  have aborted (c : Int) (gs : List (Fin 8)) : (gs.foldl (fun t g => abortUnload c g t) s).shed = s.shed :=
    foldl_same State.shed (f := fun t g => abortUnload c g t) (fun _ _ => rfl) gs s
  unfold abortUnloads
  split
  · dsimp only
    split
    · rfl
    · split
      · exact aborted _ _
      · split
        · exact aborted _ _
        · rfl
  · rfl

theorem seeWanted_shed (i : Fin 4) (s : State) : (seeWanted i s).shed = s.shed := by
  unfold seeWanted
  split
  · dsimp only
    split <;> rfl
  · rfl

theorem offerTest_shed {i : Fin 4} {s t : State} (h : offerTest i s = some t) : t.shed = s.shed := by
  unfold offerTest at h
  split at h
  · split at h
    · split at h
      · cases h
        rfl
      · cases h
    · split at h
      · cases h
        rfl
      · cases h
  · cases h

theorem timersIdle_blackoutIfDead {b : State} {i : Fin 4} {s : State} (k : TimersIdle s) :
    TimersIdle (blackoutIfDead b i s) := by
  have shed : TimersIdle (blackoutShed i s) := fun j => by
    obtain ⟨-, -, -, -, -, -, -, -, dwell⟩ := shedAction_rest .blackout (shedOrder s i) s
    have restore := shedAction_restore .blackout (shedOrder s i) j s
    obtain ⟨idle, none_runs⟩ := k j
    refine ⟨(congrArg (·[j]) dwell).trans idle, restore.trans ?_⟩
    rw [none_runs]
    exact ite_self _
  unfold blackoutIfDead
  split
  · split
    · exact shed
    · exact k
  · exact k

theorem timersIdle_shedUpdate {i : Fin 4} {s : State} (k : TimersIdle s) : TimersIdle (shedUpdate false i s) := by
  by_cases hr : s.running = true
  · cases ha : s.plant.accounts[i] with
    | none => exact timersIdle_of (by rw [shedUpdate, if_pos hr, ha]) k
    | some a =>
      intro j
      obtain ⟨dwell, -⟩ := shedUpdate_dwell (scan := false) hr ha
      obtain ⟨restore, others⟩ := shedUpdate_restore (scan := false) hr (Option.isSome_of_eq_some ha)
      constructor
      · rw [dwell, get_put, (k i).1, (k j).1]
        exact ite_self _
      · by_cases hj : j = i
        · rw [hj, restore, (k i).2]
          exact ite_self _
        · exact (others j hj).trans (k j).2
  · exact timersIdle_of (by rw [shedUpdate, if_neg hr]) k

theorem timersIdle_reUpdate {i : Fin 4} {s : State} (k : TimersIdle s) : TimersIdle (reUpdate i s) :=
  timersIdle_of (seeWanted_shed i _)
    (timersIdle_shedUpdate (timersIdle_of (abortUnloads_shed i _) (timersIdle_of (recompute_shed [i] s) k)))

theorem timersIdle_arbiterUpdate {i : Fin 4} {s : State} (k : TimersIdle s) : TimersIdle (arbiterUpdate i s) := by
  have seen : TimersIdle (seeWanted i s) := timersIdle_of (seeWanted_shed i s) k
  unfold arbiterUpdate
  dsimp only
  split
  · split
    next h => exact timersIdle_reUpdate (timersIdle_of (offerTest_shed h) seen)
    next => exact seen
  · exact seen

/-- Where no timer of the Shed Controller runs, an event update starts none. -/
theorem timersIdle_accountUpdate {b : State} {is : List (Fin 4)} {s : State} (k : TimersIdle s) :
    TimersIdle (accountUpdate false b is s) := by
  have recomputed : TimersIdle (recompute is s) := timersIdle_of (recompute_shed is s) k
  refine foldl_inv (fun t i h => timersIdle_arbiterUpdate h) is _ ?_
  refine foldl_inv (fun t i h => timersIdle_shedUpdate h) is _ ?_
  refine foldl_inv (fun t i h => timersIdle_blackoutIfDead h) is _ ?_
  exact foldl_inv (fun t i h => timersIdle_of (abortUnloads_shed i t) h) is _ recomputed

end Sys2Proof.Machine

/-! The end of a filter time (01 R1, R2) and what each input's change does. -/

namespace Sys2Proof.Machine

/-! ### An input settled (01 R2, R3) -/

theorem firstPartition_changes (s : State) :
    firstPartition s =
      { s with
        plant.sets := (firstPartition s).plant.sets, plant.partition := (firstPartition s).plant.partition,
        plant.accounts := (firstPartition s).plant.accounts } := by
  unfold firstPartition
  split <;> rfl

theorem firstPartition_sets (s : State) : (firstPartition s).plant.sets = s.plant.sets := by
  unfold firstPartition
  split <;> rfl

theorem firstPartition_partition (s : State) :
    (firstPartition s).plant.partition = s.plant.partition ∨
      s.plant.partition = none ∧ s.start.op = .starting ∧
        (firstPartition s).plant.partition = some (computePartition s) := by
  unfold firstPartition
  split
  next h =>
    obtain ⟨starting, unset, -⟩ := h
    exact Or.inr ⟨unset, starting, rfl⟩
  next => exact Or.inl rfl

/-- An input that settles changes the Plant Image alone, and sends nothing. -/
theorem inputSettled_changes (i : PlantInput) (b : Bool) (s : State) :
    inputSettled i b s =
      { s with
        plant.sets := (inputSettled i b s).plant.sets, plant.partition := (inputSettled i b s).plant.partition,
        plant.accounts := (inputSettled i b s).plant.accounts } := by
  cases i with
  | gcbStatus g => rfl
  | setReady g => rfl
  | confirm c => rfl
  | tieStatus k => exact firstPartition_changes s
  | setTrip g =>
    change (if setPresent s g ∧ b then updSet g (fun r => { r with latch := true }) s else s) = _
    unfold inputSettled
    dsimp only
    split <;> rfl

/-- An ACTIVE trip input that settles sets the latch of its set, where it is present. -/
theorem inputSettled_set (i : PlantInput) (b : Bool) (s : State) (g : Fin 8) :
    (inputSettled i b s).plant.sets[g].state = s.plant.sets[g].state ∧
      (inputSettled i b s).plant.sets[g].latch =
        (s.plant.sets[g].latch || (decide (i = .setTrip g) && setPresent s g && b)) := by
  have other (h : i ≠ .setTrip g) : (decide (i = .setTrip g) && setPresent s g && b) = false := by
    rw [decide_eq_false h]
    rfl
  cases i with
  | gcbStatus k => exact ⟨rfl, by rw [other nofun, Bool.or_false]; rfl⟩
  | setReady k => exact ⟨rfl, by rw [other nofun, Bool.or_false]; rfl⟩
  | confirm c => exact ⟨rfl, by rw [other nofun, Bool.or_false]; rfl⟩
  | tieStatus k =>
    rw [other nofun, Bool.or_false]
    change (firstPartition s).plant.sets[g].state = _ ∧ (firstPartition s).plant.sets[g].latch = _
    rw [firstPartition_sets]
    exact ⟨rfl, rfl⟩
  | setTrip k =>
    by_cases h : setPresent s k = true ∧ b = true
    · have latched : (inputSettled (.setTrip k) b s).plant.sets[g] =
          if k = g then { s.plant.sets[k] with latch := true } else s.plant.sets[g] := by
        rw [show inputSettled (.setTrip k) b s = updSet k (fun r => { r with latch := true }) s from if_pos h]
        exact get_upd ..
      rw [latched]
      by_cases hk : k = g
      · subst hk
        rw [if_pos rfl, decide_eq_true rfl, h.1, h.2]
        exact ⟨rfl, (Bool.or_true _).symm⟩
      · rw [if_neg hk, other (fun e => hk (PlantInput.setTrip.inj e)), Bool.or_false]
        exact ⟨rfl, rfl⟩
    · have unset : (decide (PlantInput.setTrip k = .setTrip g) && setPresent s g && b) = false := by
        by_contra hn
        simp only [Bool.not_eq_false, Bool.and_eq_true, decide_eq_true_iff, PlantInput.setTrip.injEq] at hn
        obtain ⟨⟨rfl, hp⟩, hb⟩ := hn
        exact h ⟨hp, hb⟩
      rw [show inputSettled (.setTrip k) b s = s from if_neg h, unset, Bool.or_false]
      exact ⟨rfl, rfl⟩

theorem inputSettled_partition (i : PlantInput) (b : Bool) (s : State) :
    (inputSettled i b s).plant.partition = s.plant.partition ∨
      s.plant.partition = none ∧ s.start.op = .starting ∧
        (inputSettled i b s).plant.partition = some (computePartition s) := by
  cases i with
  | tieStatus k => exact firstPartition_partition s
  | gcbStatus g => exact Or.inl rfl
  | setReady g => exact Or.inl rfl
  | confirm c => exact Or.inl rfl
  | setTrip g =>
    left
    unfold inputSettled
    dsimp only
    split <;> rfl

/-! ### A change of TIE-STATUS (01 R16, R17, 04 R78, R81) -/

theorem stands_syncTie (k : Fin 4) (s : State) : Stands s (syncTie k s) := by
  unfold syncTie
  split
  · split
    · split
      · exact stands_syncDone s
      · exact stands_syncAbort _ s
    · exact Stands.refl s
  · exact Stands.refl s

theorem stands_partitionChange (c : Option (Fin 4)) (p q : Vector (Fin 4) 4) (s : State) :
    Stands s (partitionChange c p q s) := by
  rw [partitionChange_eq]
  exact (stands_partitionState c p q s).trans ((stands_syncTopology _ _ _).trans (updates_accountUpdate _ _ _ _).stands)

theorem stands_inputChanged (i : PlantInput) (b : Bool) (s : State) : Stands s (inputChanged i b s) := by
  cases i with
  | gcbStatus g =>
    change Stands s (breakerChanged g b s)
    unfold breakerChanged
    split
    · split
      · exact stands_breakerClosed g s
      · exact stands_breakerOpened g s
    · exact Stands.refl s
  | setReady g =>
    change Stands s (readyChanged g b s)
    unfold readyChanged
    split
    · split
      · exact stands_syncAbort _ s
      · exact Stands.refl s
    · exact Stands.refl s
  | tieStatus k =>
    change Stands s (tieChanged k s)
    unfold tieChanged
    split
    · split
      · split
        · exact stands_syncTie k s
        · exact stands_partitionChange ..
      · exact Stands.refl s
    · exact Stands.refl s
  | setTrip g => exact stands_tripChanged g b s
  | confirm c => exact stands_confirmChanged c b s

section
variable {k : Fin 4} {s : State}

theorem tieStatus_ignored (b : Bool) (h : tieUsable s k = false ∨ s.plant.partition = none) :
    inputChanged (.tieStatus k) b s = s := by
  change tieChanged k s = s
  unfold tieChanged
  rcases h with h | h
  · rw [h, if_neg Bool.false_ne_true]
  · rw [h]
    exact ite_self _

theorem tieStatus_same {p : Vector (Fin 4) 4} (b : Bool) (hu : tieUsable s k = true) (hp : s.plant.partition = some p)
    (h : computePartition s = p) : inputChanged (.tieStatus k) b s = syncTie k s := by
  change tieChanged k s = _
  unfold tieChanged
  rw [if_pos hu, hp]
  exact if_pos h

theorem tieStatus_moves {p : Vector (Fin 4) 4} (b : Bool) (hu : tieUsable s k = true) (hp : s.plant.partition = some p)
    (h : computePartition s ≠ p) :
    inputChanged (.tieStatus k) b s = partitionChange (some k) p (computePartition s) s := by
  change tieChanged k s = _
  unfold tieChanged
  rw [if_pos hu, hp]
  exact if_neg h

/-- With no request for the tie, or the tie not CLOSED, the Synchroniser takes nothing. -/
theorem syncTie_idle (h : (∀ r, s.sync.req = some r → r.obj ≠ .tie k) ∨ s.plant.tie[k].filtered ≠ some true) :
    syncTie k s = s := by
  unfold syncTie
  split
  next r hr =>
    obtain ⟨hr, ho⟩ := requestFor_eq hr
    rcases h with h | h
    · exact absurd ho (h r hr)
    · exact if_neg h
  next => rfl

theorem syncTie_request {r : SyncReq} (hr : s.sync.req = some r) (ho : r.obj = .tie k)
    (hc : s.plant.tie[k].filtered = some true) :
    syncTie k s = if r.stage = .close then syncDone s else syncAbort .externalClose s := by
  unfold syncTie
  rw [requestFor_some hr ho]
  exact if_pos hc

end

/-! ### A change of CONFIRM (05 R89, R90) -/

/-- Groups changed one after another, by a change that has no effect the second time. -/
theorem foldl_updGroup {f : GroupRt → GroupRt} (hf : ∀ r, f (f r) = f r) (gs : List (Fin 32)) (s : State) (g : Fin 32) :
    (gs.foldl (fun t h => updGroup h f t) s).shed.groups[g] =
      if g ∈ gs then f s.shed.groups[g] else s.shed.groups[g] := by
  induction gs generalizing s with
  | nil => rfl
  | cons h gs ih =>
    have first : (updGroup h f s).shed.groups[g] = if h = g then f s.shed.groups[h] else s.shed.groups[g] := get_upd ..
    rw [List.foldl_cons, ih, first]
    by_cases hg : h = g
    · subst hg
      rw [if_pos rfl, hf, ite_self, if_pos (List.mem_cons_self ..)]
    · simp only [if_neg hg, List.mem_cons, Ne.symm hg, false_or]

/-- What OPEN makes of a group whose opening it confirms. -/
def GroupRt.confirmed (r : GroupRt) : GroupRt := { r with state := .shed, confirm := none }

theorem mem_groupsNaming (s : State) (c : Fin 16) (st : GroupState) (g : Fin 32) :
    g ∈ groupsNaming s c st ↔
      (groupPresent s g && decide ((s.conf.groups[g]).confirm = some c) && decide (s.shed.groups[g].state = st)) = true := by
  rw [groupsNaming, List.mem_filter]
  exact and_iff_right (mem_thirtyTwo g)

theorem confirm_stopped {c : Fin 16} {b : Bool} {s : State} (h : s.running = false) :
    inputChanged (.confirm c) b s = s := if_neg (by rw [h]; exact Bool.false_ne_true)

/-- OPEN: the groups it confirms, and after them the gate tests of their islands. -/
theorem confirm_on {c : Fin 16} {s : State} (h : s.running = true) :
    inputChanged (.confirm c) true s =
      (groupsNaming s c .shedPending).foldl (fun t g => testGatesOf g t)
        ((groupsNaming s c .shedPending).foldl (fun t g => updGroup g GroupRt.confirmed t) s) := if_pos h

theorem confirm_off {c : Fin 16} {s : State} (h : s.running = true) :
    inputChanged (.confirm c) false s =
      (groupsNaming s c .shed).foldl (fun t g => notify .confirmLost (some g.val) none t) s := if_pos h

theorem confirm_on_effect {c : Fin 16} {s : State} (h : s.running = true) :
    let t := inputChanged (.confirm c) true s
    (∀ g : Fin 32, t.shed.groups[g] =
      if g ∈ groupsNaming s c .shedPending then (s.shed.groups[g]).confirmed else s.shed.groups[g]) ∧
    t.shed.dwell = s.shed.dwell ∧ t.plant = s.plant ∧ t.share = s.share ∧ t.resv = s.resv ∧ t.prof = s.prof ∧
      t.link = s.link := by
  rw [confirm_on h, testGatesOfs_eq]
  have stands {α : Type} (π : State → α) (hπ : ∀ t g, π (updGroup g GroupRt.confirmed t) = π t) :=
    foldl_same π (f := fun t g => updGroup g GroupRt.confirmed t) hπ (groupsNaming s c .shedPending) s
  exact ⟨foldl_updGroup (f := GroupRt.confirmed) (fun _ => rfl) _ s, stands (·.shed.dwell) fun _ _ => rfl, stands State.plant fun _ _ => rfl,
    stands State.share fun _ _ => rfl, stands State.resv fun _ _ => rfl, stands State.prof fun _ _ => rfl,
    stands State.link fun _ _ => rfl⟩

/-! ### The end of a filter time -/

theorem exec_filterTimerExpiry {i : PlantInput} {r : Nat} {s : State} (h : (getFilter s i).timer = some r) :
    exec (.filterTimerExpiry i) s = .next (filterExpires i (elapse r s)) := by
  change execFilterTimerExpiry i s = _
  rw [execFilterTimerExpiry, h, onExpiry_some]

/-- An input at its raw level, with no filter time running. -/
def filterTaken (i : PlantInput) (raw : Bool) (s : State) : State :=
  setFilter i { raw := raw, filtered := some raw, timer := none } s

section
variable {i : PlantInput} {s : State}

theorem filterExpires_settles (h : (getFilter s i).filtered = none) :
    filterExpires i s = inputSettled i (getFilter s i).raw (filterTaken i (getFilter s i).raw s) := by
  unfold filterExpires
  dsimp only
  rw [h]
  rfl

theorem filterExpires_stands {raw : Bool} (hr : (getFilter s i).raw = raw) (h : (getFilter s i).filtered = some raw) :
    filterExpires i s = filterTaken i raw s := by
  unfold filterExpires
  dsimp only
  rw [h, hr]
  exact if_pos rfl

theorem filterExpires_changes {old : Bool} (h : (getFilter s i).filtered = some old) (hne : old ≠ (getFilter s i).raw) :
    filterExpires i s = inputChanged i (getFilter s i).raw (filterTaken i (getFilter s i).raw s) := by
  unfold filterExpires
  dsimp only
  rw [h]
  exact if_neg hne

/-- Whatever the change brings, every filter stands as it was taken. -/
theorem filterExpires_filters (j : PlantInput) :
    getFilter (filterExpires i s) j = getFilter (filterTaken i (getFilter s i).raw s) j := by
  cases h : (getFilter s i).filtered with
  | none =>
    rw [filterExpires_settles h, inputSettled_changes]
    exact getFilter_of ⟨rfl, rfl, rfl, rfl, rfl⟩ j
  | some old =>
    by_cases hne : old = (getFilter s i).raw
    · rw [filterExpires_stands hne.symm h, hne]
    · rw [filterExpires_changes h hne]
      exact (stands_inputChanged ..).1 j

end

/-- The Synchroniser's request of a tie whose close is confirmed. -/
theorem syncTie_closes {k : Fin 4} {r : SyncReq} {s : State} (hr : s.sync.req = some r) (ho : r.obj = .tie k) :
    let t := syncDone s
    t.sync.req = none ∧ t.sync.lastAbort = s.sync.lastAbort ∧ t.tieClose k = false ∧ t.selector = 15 ∧
      t.plant = s.plant ∧
      Sends (newNotice .syncDone (some (8 + k.val)) (some (if r.deadBus then 0 else 1)) s) s t := by
  have ended := syncDone_sync hr
  have request : (syncDone s).sync.req = none := congrArg Sync.req ended
  obtain ⟨selector, -, ties⟩ := closeLines_idle request
  refine ⟨request, (congrArg Sync.lastAbort ended :), ties k, selector, (syncDone_blocks hr).1, ?_⟩
  rw [syncDone_request hr, ho]
  exact sends_notify .syncDone (some (8 + k.val)) _ (endRequest s)

/-- What the Synchroniser makes of its request at a partition change, as it stands after the account update. -/
theorem partitionChange_request {k : Fin 4} {p q : Vector (Fin 4) 4} {r : SyncReq} {s : State}
    (hr : s.sync.req = some r) (hm : r.sections.any (movesIsland p q) = true) :
    let t := partitionChange (some k) p q s
    let w := withPartition q s
    let closes : Prop := r.obj = .tie k ∧ r.stage = .close ∧ s.plant.tie[k].filtered = some true
    t.sync.req = none ∧
      (closes → t.sync.lastAbort = s.sync.lastAbort ∧
        Sent (newNotice .syncDone (some (8 + k.val)) (some (if r.deadBus then 0 else 1)) w) t) ∧
      (¬ closes → t.sync.lastAbort = some .topologyChanged ∧
        Sent (newNotice .syncAborted (some r.obj.code) (some 5) w) t) := by
  let u := partitionState (some k) p q s
  have hu : u.sync.req = some r := (congrArg Sync.req (partitionState_blocks (some k) p q s).2.1).trans hr
  have tie : u.plant.tie[k].filtered = s.plant.tie[k].filtered :=
    congrArg Filter.filtered ((stands_partitionState (some k) p q s).1 (.tieStatus k))
  obtain ⟨generation, clock⟩ := partitionState_stamp (some k) p q s
  have sync : (partitionChange (some k) p q s).sync = (syncTopology (some k) (movesIsland p q) u).sync := by
    obtain ⟨⟨-, -, -, ⟨-, sync, -⟩, -⟩, -⟩ :=
      updates_accountUpdate false s four (syncTopology (some k) (movesIsland p q) u)
    exact sync
  have after := appends_accountUpdate false s four (syncTopology (some k) (movesIsland p q) u)
  by_cases hc : r.obj = .tie k ∧ r.stage = .close ∧ s.plant.tie[k].filtered = some true
  · have done : syncTopology (some k) (movesIsland p q) u = syncDone u := syncTopology_closes hu hm (by rwa [tie])
    have sent := sent_syncDone (b := withPartition q s) hu generation clock
    rw [hc.1] at sent
    rw [done, syncDone_sync hu] at sync
    rw [done] at after
    refine ⟨congrArg Sync.req sync, fun _ => ⟨(congrArg Sync.lastAbort sync).trans ?_, ?_⟩, fun hn => absurd hc hn⟩
    · exact (congrArg Sync.lastAbort (partitionState_blocks (some k) p q s).2.1 :)
    · rw [partitionChange_eq, done]
      exact sent.appends after
  · have aborted : syncTopology (some k) (movesIsland p q) u = syncAbort .topologyChanged u :=
      syncTopology_aborts hu hm (by rwa [tie])
    have sent : Sent (newNotice .syncAborted (some r.obj.code) (some 5) (withPartition q s)) (syncAbort .topologyChanged u) := by
      obtain ⟨link, gen⟩ := abortState_changes .topologyChanged r u
      rw [syncAbort_request hu, ← newNotice_of (t := abortState .topologyChanged r u) (s := withPartition q s)
        (gen.trans generation) ((congrArg LinkIf.clock link).trans clock)]
      exact sent_notify_self _ _ _ _
    rw [aborted, syncAbort_sync hu] at sync
    rw [aborted] at after
    refine ⟨congrArg Sync.req sync, fun hn => absurd hn hc, fun _ => ⟨congrArg Sync.lastAbort sync, ?_⟩⟩
    rw [partitionChange_eq, aborted]
    exact sent.appends after

theorem partitionState_numbered (c : Option (Fin 4)) (p q : Vector (Fin 4) 4) (s : State) :
    (partitionState c p q s).plant.partition = some q ∧
      (partitionState c p q s).plant.generation = (s.plant.generation + 1) % 65536 := by
  rw [(partitionState_blocks c p q s).1]
  exact ⟨rfl, rfl⟩

theorem timersIdle_partitionNoticed (c : Option (Fin 4)) (p q : Vector (Fin 4) 4) (s : State) :
    TimersIdle (partitionNoticed c p q s) := fun i =>
  ⟨Vector.getElem_replicate (a := Dwell.idle) i.isLt, Vector.getElem_replicate (a := (none : Timer)) i.isLt⟩

/-- A partition change: its number and its notice, no dwell and no restore delay, and the blocks it leaves alone. -/
theorem partitionChange_effect (c : Option (Fin 4)) (p q : Vector (Fin 4) 4) (s : State) :
    let t := partitionChange c p q s
    t.plant.partition = some q ∧ t.plant.generation = (s.plant.generation + 1) % 65536 ∧
      Sends (newNotice .partitionChanged (c.map Fin.val) none (withPartition q s)) s t ∧
      (∀ i : Fin 4, t.shed.dwell[i] = Dwell.idle ∧ t.shed.restore[i] = none) ∧
      ((∀ r, s.sync.req = some r → r.sections.any (movesIsland p q) = false) → t.sync = s.sync) := by
  dsimp only
  rw [partitionChange_eq]
  have changed := sends_partitionState c p q s
  obtain ⟨-, hsync, shed, -⟩ := partitionState_blocks c p q s
  have idle := timersIdle_of shed (timersIdle_partitionNoticed c p q s)
  have numbered := partitionState_numbered c p q s
  generalize partitionState c p q s = u at *
  have taken := grows_syncTopology c (movesIsland p q) u
  obtain ⟨vshed, vpartition, vgeneration⟩ := syncTopology_keeps c (movesIsland p q) u
  have unmoved (h : ∀ r, u.sync.req = some r → r.sections.any (movesIsland p q) = false) :=
    syncTopology_unmoved (c := c) h
  generalize syncTopology c (movesIsland p q) u = v at *
  have updates := updates_accountUpdate false s four v
  have sent := (changed.grows taken).grows updates.grows
  obtain ⟨⟨-, ⟨partition, generation, -⟩, -, ⟨-, sync, -⟩, -⟩, -⟩ := updates
  refine ⟨partition.trans (vpartition.trans numbered.1), generation.trans (vgeneration.trans numbered.2), sent,
    timersIdle_accountUpdate (timersIdle_of vshed idle), fun h => ?_⟩
  rw [← hsync] at h ⊢
  rw [sync, unmoved h]

/-- An input that settles at the end of its filter time: the Plant Image alone moves, and nothing is sent. -/
theorem filterExpires_settled {i : PlantInput} {r : Nat} {s : State} (h : (getFilter s i).filtered = none) :
    let p := elapse r s
    let raw := (getFilter s i).raw
    let t := filterExpires i p
    Quiet s t ∧ t.scan = p.scan ∧ t.share = p.share ∧ t.sync = p.sync ∧ t.shed = p.shed ∧ t.resv = p.resv ∧
      t.line = p.line ∧ t.prof = s.prof ∧ t.start = s.start ∧ t.conf = s.conf ∧
      t.plant.generation = s.plant.generation ∧
      (∀ g : Fin 8, t.plant.sets[g].state = s.plant.sets[g].state ∧
        t.plant.sets[g].latch = (s.plant.sets[g].latch || (decide (i = .setTrip g) && setPresent s g && raw))) ∧
      (t.plant.partition = s.plant.partition ∨
        s.plant.partition = none ∧ s.start.op = .starting ∧
          t.plant.partition = some (computePartition (filterTaken i raw p))) := by
  obtain ⟨raw, filtered⟩ := elapse_filter r s i
  let p := elapse r s
  let q := filterTaken i (getFilter s i).raw p
  have run : filterExpires i p = inputSettled i (getFilter s i).raw q := by
    rw [filterExpires_settles (filtered.trans h), raw]
  have link : (inputSettled i (getFilter s i).raw q).link = p.link := by
    rw [inputSettled_changes]
    exact setFilter_link ..
  have sent : Delivers [] s (inputSettled i (getFilter s i).raw q) := delivers_nil fun m => by
    rw [link]
    exact elapse_sameQueue r s m
  have sets := inputSettled_set i (getFilter s i).raw q
  have partition := inputSettled_partition i (getFilter s i).raw q
  dsimp only
  rw [run]
  refine ⟨sent.quiet, ?_, ?_, ?_, ?_, ?_, ?_, ?_, ?_, ?_, ?_, fun g => ?_, ?_⟩
  · rw [inputSettled_changes]; exact setFilter_scan ..
  · rw [inputSettled_changes]; exact setFilter_share ..
  · rw [inputSettled_changes]; exact setFilter_sync ..
  · rw [inputSettled_changes]; exact setFilter_shed ..
  · rw [inputSettled_changes]; exact setFilter_resv ..
  · rw [inputSettled_changes]; exact setFilter_line ..
  · rw [inputSettled_changes]; exact (setFilter_prof ..).trans (elapse_prof r s)
  · rw [inputSettled_changes]; exact (setFilter_start ..).trans (elapse_start r s)
  · rw [inputSettled_changes]; exact (setFilter_conf ..).trans (elapse_conf r s)
  · rw [inputSettled_changes]; exact (setFilter_generation ..).trans (elapse_generation r s)
  · obtain ⟨state, latch⟩ := sets g
    have before : q.plant.sets = s.plant.sets := (setFilter_sets ..).trans (elapse_sets r s)
    have present : setPresent q g = setPresent s g := setPresent_of ((setFilter_conf ..).trans (elapse_conf r s)) g
    rw [before] at state latch
    rw [present] at latch
    exact ⟨state, latch⟩
  · have before : q.plant.partition = s.plant.partition := (setFilter_partition ..).trans (elapse_partition r s)
    have start : q.start = s.start := (setFilter_start ..).trans (elapse_start r s)
    rw [before, start] at partition
    exact partition

/-- Settles O21: the partition of 01 R17, the end of a filter time, and the changes of SET-READY, CONFIRM and TIE-STATUS. -/
theorem filterExpiryTakesRawLevel : Obligations.FilterExpiryTakesRawLevel := by
  refine ⟨partitionOf_computePartition, tieUsable_iff, fun i r s h => ?_, fun g level s => ⟨fun r hr ho hc => ?_, fun h => ?_⟩,
    fun c s => ⟨fun h => ⟨confirm_stopped h, confirm_stopped h⟩, fun h => ?_⟩,
    fun k level s => ⟨tieStatus_ignored level, fun p hu hp => ⟨fun hq => ⟨fun hn => ?_, fun r hr ho hc => ?_⟩, fun hq => ?_⟩⟩⟩
  · obtain ⟨raw, filtered⟩ := elapse_filter r s i
    have taken (j : PlantInput) := filterExpires_filters (i := i) (s := elapse r s) j
    rw [raw] at taken
    refine ⟨_, exec_filterTimerExpiry h, (taken i).trans (getFilter_setFilter ..),
      fun j hj => (taken j).trans (getFilter_setFilter_ne hj ..), filterExpires_settled,
      fun hf => filterExpires_stands raw (filtered.trans hf), fun old hf hne => ?_⟩
    rw [filterExpires_changes (filtered.trans hf) (raw.symm ▸ hne), raw]
    rfl
  · change readyChanged g false s = _
    unfold readyChanged
    rw [requestFor_some hr ho]
    exact if_pos ⟨Bool.false_ne_true, hc⟩
  · change readyChanged g level s = _
    unfold readyChanged
    split
    next r hr =>
      obtain ⟨hr, ho⟩ := requestFor_eq hr
      refine if_neg ?_
      rintro ⟨hl, hc⟩
      rcases h with h | h
      · exact hl h
      · exact hc (h r hr ho)
    next => rfl
  · obtain ⟨groups, rest⟩ := confirm_on_effect (c := c) h
    obtain ⟨dwell, plant, share, resv, prof, link⟩ := rest
    refine ⟨fun g => (groups g).trans ?_, dwell, plant, share, resv, prof, link, confirm_off h⟩
    exact if_congr (mem_groupsNaming s c .shedPending g) rfl rfl
  · rw [tieStatus_same level hu hp hq]
    exact syncTie_idle hn
  · rw [tieStatus_same level hu hp hq, syncTie_request hr ho hc]
    refine ⟨fun hs => if_neg hs, fun hs => ?_⟩
    rw [if_pos hs]
    exact syncTie_closes hr ho
  · rw [tieStatus_moves level hu hp hq]
    obtain ⟨partition, generation, sent, idle, unmoved⟩ := partitionChange_effect (some k) p (computePartition s) s
    obtain ⟨filters, prof, start, conf⟩ := stands_partitionChange (some k) p (computePartition s) s
    exact ⟨partition, generation, sent, idle, filters, prof, start, conf, fun r hr hm => partitionChange_request hr hm,
      unmoved, partitionState (some k) p (computePartition s) s, rfl, partitionState_accounts (some k) p _ s,
      partitionState_lastWanted (some k) p _ s, partitionState_queue (some k) p _⟩

end Sys2Proof.Machine

/-! Joint commands and the configuration store (09 R158 to R160, 10 R167, R169). -/

namespace Sys2Proof.Machine

/-! ### Joint commands -/

theorem entering_of {s t : State} (h : t.prof = s.prof) : t.entering = s.entering := by
  rw [State.entering, State.entering, h]

/-- The state check of a joint command reads the Start-up Controller and the Profile Unit alone. -/
theorem jointCheck_of {s t : State} (hs : t.start = s.start) (hp : t.prof = s.prof) (c : JointCmd) :
    jointCheck t c = jointCheck s c := by
  cases c <;> simp only [jointCheck, running_of hs, entering_of hp, hs]

theorem jointCheck_validFrame (l : Link) (s : State) (c : JointCmd) : jointCheck (validFrame l s) c = jointCheck s c :=
  jointCheck_of (validFrame_start l s) (validFrame_prof l s) c

theorem jointRequest_refused {l : Link} {c : JointCmd} {vs : List Int} {s : State} {r : Reply}
    (h : jointCheck s c = some r) : jointRequest l c vs s = (s, r) := by
  unfold jointRequest
  rw [h]

theorem jointRequest_alone {l : Link} {c : JointCmd} {vs : List Int} {s : State} (h : jointCheck s c = none)
    (hj : s.link.joint = none) : jointRequest l c vs s = jointAlone l c (arg vs 0).toNat s := by
  unfold jointRequest
  rw [h, hj]

theorem jointRequest_meets {l : Link} {c : JointCmd} {vs : List Int} {s : State} {j : Joint} (h : jointCheck s c = none)
    (hj : s.link.joint = some j) : jointRequest l c vs s = jointMeets l c (arg vs 0).toNat j s := by
  unfold jointRequest
  rw [h, hj]

/-- With the other link SILENT and no command pending a command that passes its check is carried out. -/
theorem jointRequest_carried {l : Link} {c : JointCmd} {vs : List Int} {s : State} (h : jointCheck s c = none)
    (hj : s.link.joint = none) (ho : (s.link.get l.other).active = false) : jointRequest l c vs s = carryOut c s := by
  rw [jointRequest_alone h hj, jointAlone, ho]
  rfl

section
variable {l : Link} {kind : Nat} {c : JointCmd} {s : State}

/-- A joint command is answered by the Link Interface from its two tag characters. -/
theorem joint_taken (hk : ∀ fields, requestOwner l kind fields = withFields [.w2] fields (jointRequest l c))
    (ht : Takes l s) (seq a b : Byte) :
    requestFrame l kind seq [a, b] s =
      answerTo l kind seq (jointRequest l c [((a ++ b).toNat : Int)] (validFrame l s)).2
        (jointRequest l c [((a ++ b).toNat : Int)] (validFrame l s)).1 :=
  request_taken (hk [a, b]) (readFields_two a b) (by decide) ht

theorem joint_refused (hk : ∀ fields, requestOwner l kind fields = withFields [.w2] fields (jointRequest l c))
    (ht : Takes l s) (seq a b : Byte) {r : Reply} (h : jointCheck s c = some r) :
    requestFrame l kind seq [a, b] s = turnedAway l kind seq r s := by
  rw [joint_taken hk ht, jointRequest_refused ((jointCheck_validFrame l s c).trans h)]
  rfl

theorem joint_carried (hk : ∀ fields, requestOwner l kind fields = withFields [.w2] fields (jointRequest l c))
    (ht : Takes l s) (seq a b : Byte) (hj : s.link.joint = none) (ho : (s.link.get l.other).active = false)
    (h : jointCheck s c = none) {t : State} {r : Reply} (hc : carryOut c (validFrame l s) = (t, r)) :
    requestFrame l kind seq [a, b] s = answerTo l kind seq r t := by
  rw [joint_taken hk ht, jointRequest_carried ((jointCheck_validFrame l s c).trans h) ((validFrame_joint l s).trans hj)
    ((validFrame_oppActive l s).trans ho), hc]

end

section
variable {s : State}

theorem jointCheck_hold_stopped (h : s.running = false) : jointCheck s .hold = some (.refused .wrongState) := by
  simp only [jointCheck, h, Bool.false_eq_true, not_false_eq_true, if_true]

theorem jointCheck_hold (h : s.running = true) : jointCheck s .hold = if s.entering then some .busy else none := by
  simp only [jointCheck, h, not_true_eq_false, if_false]

theorem jointCheck_commit (h : s.start.op ≠ .starting) :
    jointCheck s .commit = if s.start.storeOp.isSome then some .busy else none := if_neg h

theorem jointCheck_resume_refused (h : ¬ (s.start.op = .held ∧ s.start.ram.check = none)) :
    jointCheck s .resume = some (.refused .wrongState) := if_neg h

theorem jointCheck_resume (h : s.start.op = .held ∧ s.start.ram.check = none) : jointCheck s .resume = none := if_pos h

theorem jointCheck_commit_starting (h : s.start.op = .starting) : jointCheck s .commit = some (.refused .wrongState) :=
  if_pos h

end

/-- Settles O16: the state checks of the joint commands, and what they do while the other link is SILENT. -/
theorem jointStateChecks : Obligations.JointStateChecks := by
  refine ⟨fun l seq a b s ht => ⟨fun hr => ?_, fun hr he => ?_, fun h => ?_, fun h => ?_, fun h hs => ?_⟩,
    fun l seq a b s ht hj ho => ⟨?_, fun hr he => ?_, fun h hc => ?_, fun h hs => ?_⟩⟩
  · exact congrArg _ (joint_refused (kind := 65) (c := .hold) (fun _ => rfl) ht seq a b (jointCheck_hold_stopped hr))
  · refine congrArg _ (joint_refused (kind := 65) (c := .hold) (fun _ => rfl) ht seq a b ?_)
    rw [jointCheck_hold hr, he]
    rfl
  · refine congrArg _ (joint_refused (kind := 66) (c := .resume) (fun _ => rfl) ht seq a b (jointCheck_resume_refused ?_))
    rintro ⟨held, valid⟩
    rcases h with h | h
    · exact h held
    · exact h valid
  · exact congrArg _ (joint_refused (kind := 67) (c := .commit) (fun _ => rfl) ht seq a b (jointCheck_commit_starting h))
  · refine congrArg _ (joint_refused (kind := 67) (c := .commit) (fun _ => rfl) ht seq a b ?_)
    rw [jointCheck_commit h, if_pos hs]
  · exact congrArg Host.Outcome.next (joint_carried (kind := 64) (c := .reset) (fun _ => rfl) ht seq a b hj ho rfl rfl)
  · refine congrArg Host.Outcome.next (joint_carried (kind := 65) (c := .hold) (fun _ => rfl) ht seq a b hj ho ?_ rfl)
    rw [jointCheck_hold hr, he]
    rfl
  · exact congrArg Host.Outcome.next (joint_carried (kind := 66) (c := .resume) (fun _ => rfl) ht seq a b hj ho (jointCheck_resume ⟨h, hc⟩) rfl)
  · refine congrArg Host.Outcome.next (joint_carried (kind := 67) (c := .commit) (fun _ => rfl) ht seq a b hj ho ?_ rfl)
    rw [jointCheck_commit h, hs]
    rfl

/-- Settles O17: a joint command pending, confirmed, contradicted, and at the end of its window. -/
theorem jointAgreement : Obligations.JointAgreement := by
  refine ⟨fun l c tag s h hj ho => ?_, fun l c tag j s h hj => ⟨fun hc ht ho => ?_, fun hc ht ho => ?_, fun hn => ?_⟩,
    fun j s hj => ?_⟩
  · rw [jointRequest_alone h hj, jointAlone, if_pos ho]
    rfl
  · rw [jointRequest_meets h hj, jointMeets, if_pos ⟨hc, ht⟩, if_pos ho]
  · rw [jointRequest_meets h hj, jointMeets, if_pos ⟨hc, ht⟩, if_neg ho]
  · rw [jointRequest_meets h hj, jointMeets, if_neg]
    rintro ⟨hc, ht⟩
    rcases hn with hn | hn
    · exact hn hc
    · exact hn ht
  · let p := elapse j.window s
    have run : exec .jointWindowExpiry s = .next (windowEnds p) := by
      change Host.Outcome.next (onExpiry (s.link.joint.map (·.window)) s windowEnds) = _
      rw [hj]
      rfl
    have pending : ∃ k : Joint, p.link.joint = some k ∧ k.cmd = j.cmd ∧ k.origin = j.origin := by
      cases ha : s.alive with
      | false => exact ⟨j, by rw [show p = s from elapse_dead ha, hj], rfl, rfl⟩
      | true =>
        refine ⟨{ j with window := j.window - j.window }, ?_, rfl, rfl⟩
        simp only [p, elapse, ha, if_true, hj, Option.map_some]
    obtain ⟨k, hk, hcmd, horigin⟩ := pending
    have ends : windowEnds p =
        notify .jointExpired (some j.cmd.code) (some (j.origin.code : Int)) { p with link.joint := none } := by
      unfold windowEnds
      rw [hk, ← hcmd, ← horigin]
    refine ⟨_, run, ?_⟩
    rw [ends]
    refine ⟨rfl, ?_, fun m => ?_, rfl, elapse_pending _ s, rfl, rfl, rfl, rfl, rfl, rfl, rfl, elapse_prof _ s,
      elapse_start _ s, elapse_conf _ s⟩
    · have none_sent : Delivers [] p { p with link.joint := none } := delivers_nil fun m => by cases m <;> exact ⟨rfl, rfl⟩
      exact none_sent.notify rfl rfl _ _ _
    · have stands : ({ p with link.joint := none } : State).link.get m = p.link.get m := by cases m <;> rfl
      rw [notify_get, append_active, append_timer, append_sending, append_waiting, append_frame, stands]
      exact ⟨rfl, rfl, rfl, rfl, rfl⟩

/-! ### The checks of an image (10 R167) -/

theorem toList_all_iff {α : Type} {n : Nat} (v : Vector α n) (f : α → Bool) :
    v.toList.all f = true ↔ ∀ i : Fin n, f v[i] = true := by
  rw [List.all_eq_true]
  constructor
  · exact fun h i => h _ (Vector.mem_toList_iff.2 (Vector.getElem_mem i.isLt))
  · intro h x hx
    obtain ⟨i, hi, rfl⟩ := List.getElem_of_mem hx
    exact h ⟨i, by simpa using hi⟩

theorem within_iff (lo hi x : Int) : within lo hi x = true ↔ lo ≤ x ∧ x ≤ hi := by
  rw [within, Bool.and_eq_true, decide_eq_true_iff, decide_eq_true_iff]

theorem settings_inRange_iff (b : Settings) : b.inRange = true ↔ BlockInRange b := by
  simp only [Settings.inRange, Bool.and_eq_true, within_iff, BlockInRange]
  omega

theorem settings_consistent_iff (b : Settings) : b.consistent = true ↔ ConsistentBlock b := by
  rw [Settings.consistent, Bool.and_eq_true, Bool.and_eq_true, settings_inRange_iff, decide_eq_true_iff,
    decide_eq_true_iff, ConsistentBlock, and_assoc]

/-! Check 1 takes the general and the synchronising record, the sets, the base bank and the profiles in turn; the parts
below are those of `Image.inRange`. -/

def GeneralCfg.inRange (g : GeneralCfg) : Bool :=
  (decide (g.nominal = 50000) || decide (g.nominal = 60000)) && within 20 500 g.breakerFilter &&
  within 5 100 g.tripFilter && within 20 500 g.confirmFilter && within 500 950 g.liveThr && within 50 400 g.deadThr &&
  within 30 300 g.lossTime && within 100 5000 g.confirmTime && within 500 10000 g.linkTimeout &&
  within 1000 5000 g.agreeWindow

def SetCfg.inRange (c : SetCfg) : Bool :=
  within 500 20000 c.rating && (within 500 25000 c.fs && within (-1000) 1000 c.park)

def SyncCfg.inRange (y : SyncCfg) : Bool :=
  within 50 1000 y.settle && within 10 300 y.limit && within 0 200 y.slipTarget && within 10 500 y.slipWindow &&
  within 10 100 y.voltWindow && within 0 255 y.gain && within 1 10 y.qualPasses && within 1 30 y.phaseWindow &&
  within 20 500 y.tClose && within 100 1000 y.pulse && within 200 3000 y.confirm

def Patch.inRange : Patch → Bool
  | .groups first es => within 0 31 first && es.all (fun e => within 0 7 e.level && within 0 20000 e.load)
  | .sets first es => within 0 7 first && es.all (fun e => within 0 20000 e.base)

def Profile.inRange (p : Profile) : Bool := p.initial.inRange && p.patches.all Patch.inRange

theorem image_inRange_eq (img : Image) :
    img.inRange =
      (img.general.inRange && (img.sets.toList.all SetCfg.inRange && (img.sync.inRange &&
        (img.base.groups.toList.all (fun b => within 0 7 b.level && within 0 20000 b.load) &&
          (img.base.sets.toList.all (fun b => within 0 20000 b.base) && img.profiles.toList.all Profile.inRange))))) := by
  simp only [Image.inRange, GeneralCfg.inRange, SyncCfg.inRange, Bool.and_assoc]
  rfl

theorem patch_inRange_iff (ps : List Patch) :
    ps.all Patch.inRange = true ↔
    (∀ first es, Patch.groups first es ∈ ps → first ≤ 31 ∧ ∀ e ∈ es, e.level ≤ 7 ∧ e.load ≤ 20000) ∧
      ∀ first es, Patch.sets first es ∈ ps → first ≤ 7 ∧ ∀ e ∈ es, e.base ≤ 20000 := by
  have groups (first : Nat) (es : List GroupBank) : (Patch.groups first es).inRange = true ↔
      first ≤ 31 ∧ ∀ e ∈ es, e.level ≤ 7 ∧ e.load ≤ 20000 := by
    simp only [Patch.inRange, Bool.and_eq_true, List.all_eq_true, within_iff]
    exact and_congr (by omega) (forall₂_congr fun e _ => by omega)
  have sets (first : Nat) (es : List SetBank) : (Patch.sets first es).inRange = true ↔
      first ≤ 7 ∧ ∀ e ∈ es, e.base ≤ 20000 := by
    simp only [Patch.inRange, Bool.and_eq_true, List.all_eq_true, within_iff]
    exact and_congr (by omega) (forall₂_congr fun e _ => by omega)
  rw [List.all_eq_true]
  constructor
  · exact fun h => ⟨fun first es hq => (groups first es).1 (h _ hq), fun first es hq => (sets first es).1 (h _ hq)⟩
  · rintro ⟨hg, hs⟩ q hq
    cases q with
    | groups first es => exact (groups first es).2 (hg first es hq)
    | sets first es => exact (sets first es).2 (hs first es hq)

theorem image_inRange_iff (img : Image) : img.inRange = true ↔ ImageInRange img := by
  rw [image_inRange_eq]
  simp only [Bool.and_eq_true, toList_all_iff]
  refine and_congr ?_ (and_congr (forall_congr' fun j => ?_) (and_congr ?_ (and_congr (forall_congr' fun j => ?_)
    (and_congr (forall_congr' fun j => ?_) (forall_congr' fun p => ?_)))))
  · simp only [GeneralCfg.inRange, Bool.and_eq_true, Bool.or_eq_true, decide_eq_true_iff, within_iff]
    omega
  · simp only [SetCfg.inRange, Bool.and_eq_true, within_iff]
    omega
  · simp only [SyncCfg.inRange, Bool.and_eq_true, within_iff]
    omega
  · simp only [within_iff]
    omega
  · simp only [within_iff]
    omega
  · rw [Profile.inRange, Bool.and_eq_true, settings_inRange_iff, patch_inRange_iff]

theorem mem_eight (g : Fin 8) : g ∈ eight := by
  revert g
  decide

theorem passesCheck_bases (img : Image) :
    eight.all (fun j => decide ((img.base.sets[j]).base ≤ (img.sets[j]).rating)) = true ↔ PassesCheck img 3 := by
  rw [List.all_eq_true]
  exact ⟨fun h j => of_decide_eq_true (h j (mem_eight j)), fun h j _ => decide_eq_true (h j)⟩

theorem passesCheck_blocks (img : Image) :
    img.profiles.toList.all (fun p => !p.present || p.initial.consistent) = true ↔ PassesCheck img 5 := by
  rw [toList_all_iff]
  refine forall_congr' fun p => ?_
  rw [← settings_consistent_iff]
  cases (img.profiles[p]).present <;> simp

theorem passesCheck_patches (img : Image) :
    img.profiles.toList.all (fun p =>
      !(p.present && p.patch) || (applyPatches img.ratings 1 p.patches img.base).2.isNone) = true ↔
      PassesCheck img 6 := by
  rw [toList_all_iff]
  refine forall_congr' fun p => ?_
  change _ ↔ ((img.profiles[p]).present = true → (img.profiles[p]).patch = true →
      (applyPatches img.ratings 1 (img.profiles[p]).patches img.base).2 = none)
  cases (img.profiles[p]).present <;> cases (img.profiles[p]).patch <;> simp

theorem passesCheck_thresholds (img : Image) :
    img.general.deadThr + 50 < img.general.liveThr ↔ PassesCheck img 2 := by
  change _ ↔ (img.general.deadThr : Int) < (img.general.liveThr : Int) - 50
  omega

section
variable {img : Image}

theorem check_none (h : ∀ n, 1 ≤ n → n ≤ 6 → PassesCheck img n) : img.check = none := by
  have p1 := (image_inRange_iff img).2 (h 1 (by omega) (by omega))
  have p2 := (passesCheck_thresholds img).2 (h 2 (by omega) (by omega))
  have p3 := (passesCheck_bases img).2 (h 3 (by omega) (by omega))
  have p4 : (img.profiles[img.general.initialProfile]).present = true := h 4 (by omega) (by omega)
  have p5 := (passesCheck_blocks img).2 (h 5 (by omega) (by omega))
  have p6 := (passesCheck_patches img).2 (h 6 (by omega) (by omega))
  rw [Image.check, if_neg (not_not.2 p1), if_neg (not_not.2 p2), if_neg (not_not.2 p3), if_neg (not_not.2 p4),
    if_neg (not_not.2 p5), if_neg (not_not.2 p6)]

/-- The part names the first check that fails. -/
theorem check_first {n : Nat} (h1 : 1 ≤ n) (h6 : n ≤ 6) (hn : ¬ PassesCheck img n)
    (h : ∀ m, 1 ≤ m → m < n → PassesCheck img m) : img.check = some n := by
  have p1 (k : 1 < n) := not_not.2 ((image_inRange_iff img).2 (h 1 (by omega) k))
  have p2 (k : 2 < n) := not_not.2 ((passesCheck_thresholds img).2 (h 2 (by omega) k))
  have p3 (k : 3 < n) := not_not.2 ((passesCheck_bases img).2 (h 3 (by omega) k))
  have p4 (k : 4 < n) : ¬ ¬ (img.profiles[img.general.initialProfile]).present = true := not_not.2 (h 4 (by omega) k)
  have p5 (k : 5 < n) := not_not.2 ((passesCheck_blocks img).2 (h 5 (by omega) k))
  unfold Image.check
  obtain rfl | rfl | rfl | rfl | rfl | rfl : n = 1 ∨ n = 2 ∨ n = 3 ∨ n = 4 ∨ n = 5 ∨ n = 6 := by omega
  · rw [if_pos (fun k => hn ((image_inRange_iff img).1 k))]
  · rw [if_neg (p1 (by omega)), if_pos (fun k => hn ((passesCheck_thresholds img).1 k))]
  · rw [if_neg (p1 (by omega)), if_neg (p2 (by omega)), if_pos (fun k => hn ((passesCheck_bases img).1 k))]
  · rw [if_neg (p1 (by omega)), if_neg (p2 (by omega)), if_neg (p3 (by omega)),
      if_pos (show ¬ (img.profiles[img.general.initialProfile]).present = true from hn)]
  · rw [if_neg (p1 (by omega)), if_neg (p2 (by omega)), if_neg (p3 (by omega)), if_neg (p4 (by omega)),
      if_pos (fun k => hn ((passesCheck_blocks img).1 k))]
  · rw [if_neg (p1 (by omega)), if_neg (p2 (by omega)), if_neg (p3 (by omega)), if_neg (p4 (by omega)),
      if_neg (p5 (by omega)), if_pos (fun k => hn ((passesCheck_patches img).1 k))]

/-- An image passes every check, or there is a first one it fails. -/
theorem passes_or_first (img : Image) :
    (∀ n, 1 ≤ n → n ≤ 6 → PassesCheck img n) ∨
      ∃ n, 1 ≤ n ∧ n ≤ 6 ∧ ¬ PassesCheck img n ∧ ∀ m, 1 ≤ m → m < n → PassesCheck img m := by
  classical
  by_cases h : ∃ n, 1 ≤ n ∧ n ≤ 6 ∧ ¬ PassesCheck img n
  · obtain ⟨h1, h6, hn⟩ := Nat.find_spec h
    refine Or.inr ⟨Nat.find h, h1, h6, hn, fun m hm hlt => ?_⟩
    by_contra hf
    exact Nat.find_min h hlt ⟨hm, by omega, hf⟩
  · refine Or.inl fun n h1 h6 => ?_
    by_contra hf
    exact h ⟨n, h1, h6, hf⟩

end

/-- A store write read back as written, with its notice. -/
def storedState (img : Image) (s : State) : State :=
  notify .configStored none none
    { s with start.store := .sound img, start.storeOp := none, start.lastStore := some .stored }

/-- A good store write takes UNCONFIGURED to HELD. -/
theorem storeWritten_good (img : Image) (s : State) :
    storeWritten img true s =
      if s.start.op = .unconfigured then stateChanged .held (storedState img s) else storedState img s := rfl

/-- CONFIG COMMIT of an image that fails a check. -/
theorem commit_fails {s : State} {n : Nat} (h : s.start.ram.check = some n) :
    commit s = notify .configStoreFailed (some n) (some 0) { s with start.lastStore := some .failed } := by
  unfold commit
  generalize s.start.ram.check = found at h
  subst h
  rfl

/-- CONFIG COMMIT of an image that passes every check begins the store write. -/
theorem commit_starts {s : State} (h : s.start.ram.check = none) :
    commit s = { s with start.storeOp := some s.start.ram } := by
  unfold commit
  generalize s.start.ram.check = found at h
  subst h
  rfl

/-- Settles O19: the checks of an image, CONFIG COMMIT carried out, and the end of a store write. -/
theorem storeWrites : Obligations.StoreWrites := by
  refine ⟨fun img => ⟨⟨fun h => ?_, check_none⟩, fun n => ⟨fun h => ?_, fun ⟨h1, h6, hn, h⟩ => check_first h1 h6 hn h⟩⟩,
    fun s => ⟨fun n h => ?_, fun h => ?_⟩, fun img s h => ⟨?_, ?_⟩, fun b s h => ?_⟩
  · rcases passes_or_first img with passes | ⟨n, h1, h6, hn, before⟩
    · exact passes
    · rw [check_first h1 h6 hn before] at h
      cases h
  · rcases passes_or_first img with passes | ⟨m, h1, h6, hm, before⟩
    · rw [check_none passes] at h
      cases h
    · rw [check_first h1 h6 hm before] at h
      cases h
      exact ⟨h1, h6, hm, before⟩
  · exact commit_fails h
  · exact commit_starts h
  · have run : exec (.storeWriteEnd true) s = .next (storeWritten img true s) := by
      change execStoreWriteEnd true s = _
      rw [execStoreWriteEnd, h]
    have stored : Sends (newNotice .configStored none none s) s (storedState img s) := sends_of_grows
      (s := { s with start.store := .sound img, start.storeOp := none, start.lastStore := some .stored }) (Grows.refl _)
    refine ⟨_, run, ?_⟩
    rw [storeWritten_good]
    by_cases ho : s.start.op = .unconfigured
    · rw [if_pos ho, if_pos ho]
      exact ⟨rfl, rfl, rfl, rfl, stored.grows (grows_stateChanged _ _), rfl, rfl, rfl, rfl, rfl, rfl, rfl, rfl, rfl⟩
    · rw [if_neg ho, if_neg ho]
      exact ⟨rfl, rfl, rfl, rfl, stored, rfl, rfl, rfl, rfl, rfl, rfl, rfl, rfl, rfl⟩
  · have run : exec (.storeWriteEnd false) s = .next (storeWritten img false s) := by
      change execStoreWriteEnd false s = _
      rw [execStoreWriteEnd, h]
    exact ⟨_, run, rfl, rfl, rfl, rfl, rfl, sends_of_grows
      (s := { s with start.store := .broken, start.storeOp := none, start.lastStore := some .failed }) (Grows.refl _),
      rfl, rfl, rfl, rfl, rfl, rfl, rfl, rfl, rfl⟩
  · change execStoreWriteEnd b s = _
    rw [execStoreWriteEnd, h]

end Sys2Proof.Machine

/-! The image check (10 R167) and the ATTN lines (09). -/

namespace Sys2Proof.Machine

/-! ### The image check -/

theorem exec_imageCheck {s : State} (ha : s.alive = true) (ho : s.start.op = .starting) (hc : s.start.checked = false) :
    exec .imageCheck s = .next (imageChecked s) :=
  congrArg Host.Outcome.next (if_pos ⟨ha, ho, by rw [hc]; exact Bool.false_ne_true⟩)

/-- An image that is sound begins the Profile Unit's first entry and the time of an adoption. -/
def startedOn (img : Image) (s : State) : State :=
  { initProfiles (startBlocks (takeImage img s)) with start.adoptWait := some 1 }

theorem imageChecked_sound {img : Image} {s : State} (h : s.start.store = .sound img) :
    imageChecked s = firstPartition (startedOn img s) := by
  unfold imageChecked
  generalize s.start.store = store at h
  subst h
  rfl

theorem imageChecked_broken {s : State} (h : s.start.store = .broken) :
    imageChecked s = stateChanged .unconfigured (startBlocks (takeImage Image.default s)) := by
  unfold imageChecked
  split
  next hs => cases hs.symm.trans h
  next => exact Eq.refl _

/-- Every filter starts anew with its filter time. -/
theorem startFilters_get (s : State) (i : PlantInput) :
    getFilter (startFilters s) i = { getFilter s i with timer := some (filterTime s.conf.general i) } := by
  cases i <;> exact get_tab ..

theorem startScanner_kw (s : State) (g : Fin 8) : (startScanner s).scan.kw[g] = freshKw (setPresent s g) :=
  get_tab (fun g _ => freshKw (setPresent s g)) s.scan.kw g

theorem startScanner_sect (s : State) (x : Fin 4) :
    (startScanner s).scan.sect[x] = freshSect (sectPresent s x) (some s.conf.general.lossTime) :=
  get_tab (fun x _ => freshSect (sectPresent s x) (some s.conf.general.lossTime)) s.scan.sect x

/-- The blocks start with one notice. -/
theorem delivers_startBlocks (img : Image) (s : State) :
    Delivers [newNotice .started none (some (s.start.kind.code : Int)) s] s (startBlocks (takeImage img s)) :=
  (delivers_nil_of_link (t := startScanner (startFilters (takeImage img s))) rfl).notify rfl rfl _ _ _

theorem sends_startBlocks (img : Image) (s : State) :
    Sends (newNotice .started none (some (s.start.kind.code : Int)) s) s (startBlocks (takeImage img s)) :=
  sends_of_grows (s := startScanner (startFilters (takeImage img s))) (Grows.refl _)

theorem sends_startedOn (img : Image) (s : State) :
    Sends (newNotice .started none (some (s.start.kind.code : Int)) s) s (startedOn img s) := sends_startBlocks img s

theorem sends_imageChecked (s : State) :
    Sends (newNotice .started none (some (s.start.kind.code : Int)) s) s (imageChecked s) := by
  cases h : s.start.store with
  | sound img =>
    rw [imageChecked_sound h]
    exact (sends_startedOn img s).grows (grows_firstPartition _)
  | broken =>
    rw [imageChecked_broken h]
    exact (sends_startBlocks Image.default s).grows (grows_stateChanged _ _)

theorem firstPartition_blocks (s : State) :
    (firstPartition s).scan = s.scan ∧ (firstPartition s).prof = s.prof ∧ (firstPartition s).start = s.start ∧
      (firstPartition s).conf = s.conf ∧ (firstPartition s).share = s.share ∧ (firstPartition s).shed = s.shed ∧
      (firstPartition s).sync = s.sync ∧ (firstPartition s).resv = s.resv ∧ (firstPartition s).line = s.line := by
  rw [firstPartition_changes]
  exact ⟨rfl, rfl, rfl, rfl, rfl, rfl, rfl, rfl, rfl⟩

/-- Settles O6. -/
theorem imageCheckOutcomes : Obligations.ImageCheckOutcomes := by
  refine ⟨fun img s ha ho hc hs => ?_, fun s ha ho hc hs hw => ?_⟩
  · refine ⟨_, exec_imageCheck ha ho hc, ?_⟩
    have sent := sends_imageChecked s
    rw [imageChecked_sound hs] at sent ⊢
    have filters (i : PlantInput) :
        getFilter (firstPartition (startedOn img s)) i =
          { getFilter s i with timer := some (filterTime img.general i) } := by
      rw [firstPartition_changes]
      exact (getFilter_of ⟨rfl, rfl, rfl, rfl, rfl⟩ i).trans (startFilters_get (takeImage img s) i)
    have kw (g : Fin 8) : (firstPartition (startedOn img s)).scan.kw[g] =
        freshKw (setPresent (firstPartition (startedOn img s)) g) := by
      rw [firstPartition_changes]
      exact startScanner_kw (startFilters (takeImage img s)) g
    have sect (x : Fin 4) : (firstPartition (startedOn img s)).scan.sect[x] =
        freshSect (sectPresent (firstPartition (startedOn img s)) x) (some img.general.lossTime) := by
      rw [firstPartition_changes]
      exact startScanner_sect (startFilters (takeImage img s)) x
    have fresh (p : Fin 8) : (startedOn img s).prof.fresh[p] = true := Vector.getElem_replicate p.isLt
    obtain ⟨hscan, hprof, hstart, hconf, hshare, hshed, hsync, hresv, hline⟩ := firstPartition_blocks (startedOn img s)
    refine ⟨hconf, (congrArg Startup.ram hstart :), (congrArg Startup.checked hstart :),
      (congrArg Startup.op hstart).trans ho, (congrArg Startup.adoptWait hstart :), filters,
      (congrArg Scan.round hscan :), kw, sect, ?_, ?_, ?_, ?_, sent, hshare, hshed, hsync, hresv, hline⟩
    all_goals rw [hprof]
    · exact fresh
    · rfl
    · rfl
    · exact ⟨_, rfl, rfl, rfl⟩
  · refine ⟨_, exec_imageCheck ha ho hc, ?_⟩
    have sent := sends_imageChecked s
    rw [imageChecked_broken hs] at sent ⊢
    exact ⟨rfl, rfl, rfl, rfl, hw, startFilters_get (takeImage Image.default s), rfl, sent,
      (delivers_startBlocks Image.default s).notify rfl rfl _ _ _, rfl, rfl, rfl⟩

/-! ### The ATTN lines (09 R158) -/

theorem attn_iff (l : Link) (s : State) : s.attn l = true ↔ (s.link.get l).notices ≠ [] := by
  rw [State.attn, Bool.not_eq_true', List.isEmpty_eq_false_iff]

/-- A notice sent on empty queues is found on both links. -/
theorem Sends.attn {n : Notice} {s t : State} (h : Sends n s t) (he : ∀ l, (s.link.get l).notices = []) (l : Link) :
    t.attn l = true := by
  obtain ⟨⟨onA, ha⟩, ⟨onB, hb⟩⟩ := h
  have first {x : LinkRt} (hx : x.notices = []) : (x.append n).notices = [n] := by
    rw [LinkRt.append, hx]
    rfl
  rw [first (x := s.link.a) (he .a)] at ha
  rw [first (x := s.link.b) (he .b)] at hb
  rw [attn_iff]
  cases l with
  | a => exact (congrArg (· ≠ []) ha).mpr (List.cons_ne_nil _ _)
  | b => exact (congrArg (· ≠ []) hb).mpr (List.cons_ne_nil _ _)

/-- Settles O13. -/
theorem attnFollowsQueues : Obligations.AttnFollowsQueues := by
  have silent {s t : State} (h : AfterReset s t) (l : Link) : t.attn l = false := by
    obtain ⟨-, -, -, -, -, -, -, -, -, -, -, -, -, -, -, -, -, -, -, ⟨-, -, links⟩, -⟩ := h
    exact (links l).2
  refine ⟨attn_iff, fun s => ⟨_, rfl, silent (afterReset_coldReset s)⟩, fun s hp hl => ?_, fun l s h => ?_,
    fun s => ⟨_, rfl, rfl, fun l => rfl⟩, fun s ha ho hc he => ?_⟩
  · refine ⟨_, exec_resetLineAsserted hl, ?_⟩
    rw [if_pos hp]
    exact silent (afterReset_warmReset .resetLine _)
  · exact ⟨_, exec_warmResetBegin h, silent (afterReset_warmReset .jointReset s)⟩
  · exact ⟨_, exec_imageCheck ha ho hc, (sends_imageChecked s).attn he⟩

end Sys2Proof.Machine

/-! Adoption (10 R170, 01 R25). -/

namespace Sys2Proof.Machine

/-! ### When an adoption is ready -/

theorem all_settled_iff {n : Nat} (v : Vector Filter n) :
    (v.toList.all (·.filtered.isSome)) = true ↔ ∀ i : Fin n, v[i].filtered ≠ none := by
  rw [List.all_eq_true]
  constructor
  · intro h i
    exact Option.isSome_iff_ne_none.1 (h _ (by simp))
  · intro h f hf
    obtain ⟨j, hj, rfl⟩ := List.mem_iff_getElem.1 hf
    exact Option.isSome_iff_ne_none.2 (h ⟨j, by simpa using hj⟩)

theorem allSettled_iff (s : State) : allSettled s = true ↔ ∀ i : PlantInput, (getFilter s i).filtered ≠ none := by
  simp only [allSettled, Bool.and_eq_true, all_settled_iff]
  constructor
  · rintro ⟨⟨⟨⟨gcb, ready⟩, trip⟩, tie⟩, confirm⟩ i
    cases i with
    | gcbStatus g => exact gcb g
    | setReady g => exact ready g
    | setTrip g => exact trip g
    | tieStatus k => exact tie k
    | confirm c => exact confirm c
  · intro h
    exact ⟨⟨⟨⟨fun g => h (.gcbStatus g), fun g => h (.setReady g)⟩, fun g => h (.setTrip g)⟩, fun k => h (.tieStatus k)⟩,
      fun c => h (.confirm c)⟩

theorem adoptReady_iff (s : State) :
    adoptReady s = true ↔
      s.start.adoptWait = some 0 ∧ s.prof.entry = none ∧ s.prof.stack ≠ [] ∧
        ∀ i : PlantInput, (getFilter s i).filtered ≠ none := by
  simp only [adoptReady, Bool.and_eq_true, allSettled_iff, decide_eq_true_iff, Option.isNone_iff_eq_none,
    Bool.not_eq_true', List.isEmpty_eq_false_iff, and_assoc]

theorem keepsState_iff (s : State) (g : Fin 8) :
    keepsState s g = true ↔
      s.start.op = .held ∧
        (s.plant.sets[g].state = .tripped ∨
          (s.plant.sets[g].state = .incoming ∧ ∃ r, s.sync.req = some r ∧ r.obj = .set g ∧ r.stage = .close) ∨
          (s.plant.sets[g].state = .unloading ∧ s.share.sets[g].unload = .opening)) := by
  rw [keepsState, Bool.and_eq_true, decide_eq_true_iff]
  refine and_congr_right fun _ => ?_
  cases hs : s.plant.sets[g].state with
  | tripped => simp
  | offline => simp
  | online => simp
  | unloading => simp
  | incoming =>
    have closing : (match requestFor s (.set g) with | some r => decide (r.stage = .close) | none => false) = true ↔
        ∃ r, s.sync.req = some r ∧ r.obj = .set g ∧ r.stage = .close := by
      split
      next r hr =>
        obtain ⟨hr, ho⟩ := requestFor_eq hr
        rw [decide_eq_true_iff]
        refine ⟨fun hc => ⟨r, hr, ho, hc⟩, fun ⟨q, hq, _, hc⟩ => ?_⟩
        cases hr.symm.trans hq
        exact hc
      next hn =>
        refine ⟨fun h => absurd h Bool.false_ne_true, fun ⟨q, hq, ho, _⟩ => ?_⟩
        rw [requestFor_some hq ho] at hn
        cases hn
    simp only [reduceCtorEq, false_and, true_and, or_false, false_or]
    exact closing

/-! ### What an adoption writes -/

/-- The plant's objects as an adoption takes them, in the partition it has made. -/
def adopted (p : State) : State :=
  { p with
    plant.sets := tab (adoptSet p) p.plant.sets,
    share.sets := tab (adoptShare p (tab (adoptSet p) p.plant.sets)) p.share.sets,
    share.period := some (settings p).sharePeriod,
    shed.groups := tab (adoptGroup p) p.shed.groups,
    start.adopted := true,
    start.adoptWait := none }

theorem adopt_eq (s : State) :
    adopt s = stateChanged .running (recompute four (startPolling (unknownStations (adopted (adoptPartition s))))) := rfl

theorem adopted_set (p : State) (g : Fin 8) : (adopted p).plant.sets[g] = adoptSet p g p.plant.sets[g] :=
  get_tab (adoptSet p) p.plant.sets g

theorem adopted_share (p : State) (g : Fin 8) :
    (adopted p).share.sets[g] = adoptShare p (adopted p).plant.sets g p.share.sets[g] :=
  get_tab (adoptShare p (tab (adoptSet p) p.plant.sets)) p.share.sets g

theorem adopted_group (p : State) (g : Fin 32) : (adopted p).shed.groups[g] = adoptGroup p g p.shed.groups[g] :=
  get_tab (adoptGroup p) p.shed.groups g

/-- Polling stopped, or started at the first station listed. -/
theorem startPolling_eq (s : State) :
    startPolling s =
      { s with
        line.slot := if listedStations s = [] then none else some 25, line.next := (listedStations s).head?,
        line.current := none, line.poll := none, line.window := none } := by
  unfold startPolling
  split
  next x hx =>
    have listed : listedStations s ≠ [] := fun e => by rw [e] at hx; cases hx
    rw [hx, if_neg listed]
    rfl
  next hx =>
    rw [hx, if_pos (List.head?_eq_none_iff.1 hx)]
    rfl

/-- A station of which nothing is known. -/
def StationRt.unknown (r : StationRt) : StationRt := { r with state := .unknown, miss := 0 }

theorem unknownStations_get (s : State) (x : Fin 12) :
    (unknownStations s).line.stations[x] = (s.line.stations[x]).unknown :=
  get_tab (fun _ => StationRt.unknown) s.line.stations x

/-! ### The partition an adoption makes -/

theorem adoptPartition_conf (s : State) : (adoptPartition s).conf = s.conf := by
  unfold adoptPartition
  split
  · rfl
  · split
    · rfl
    · exact (stands_partitionChange ..).2.2.2

theorem adoptPartition_partition (s : State) : (adoptPartition s).plant.partition = some (computePartition s) := by
  unfold adoptPartition
  split
  · rfl
  next p hp =>
    split
    next same => rw [hp, same]
    next => exact (partitionChange_effect none p (computePartition s) s).1

/-! ### The objects taken -/

section
variable {p : State} {g : Fin 8}

theorem adoptSet_absent (r : SetRt) (h : setPresent p g = false) : adoptSet p g r = { state := .offline, latch := false } :=
  if_pos (by rw [h]; exact Bool.false_ne_true)

theorem adoptSet_kept (r : SetRt) (h : setPresent p g = true) (hk : keepsState p g = true) : adoptSet p g r = r := by
  rw [adoptSet, if_neg (not_not.2 h), if_pos hk]

theorem adoptSet_taken (r : SetRt) (h : setPresent p g = true) (hk : keepsState p g = false) :
    (adoptSet p g r).latch = r.latch ∧
      (adoptSet p g r).state =
        if r.latch then .tripped else if p.plant.gcb[g].filtered = some true then .online else .offline := by
  rw [adoptSet, if_neg (not_not.2 h), hk, if_neg Bool.false_ne_true]
  split
  · exact ⟨rfl, rfl⟩
  · split <;> exact ⟨rfl, rfl⟩

theorem adoptShare_absent (sets : Vector SetRt 8) (r : ShareRt) (h : setPresent p g = false) :
    (adoptShare p sets g r).bias = 0 ∧ (adoptShare p sets g r).k = 0 := by
  rw [adoptShare, if_pos (by rw [h]; exact Bool.false_ne_true)]
  exact ⟨rfl, rfl⟩

variable {sets : Vector SetRt 8}

theorem adoptShare_online (r : ShareRt) (h : setPresent p g = true) (hs : sets[g].state = .online) :
    adoptShare p sets g r =
      { r with k := (settings p).rampN, sat := .clear, unload := .none, openWait := none } := by
  rw [adoptShare, if_neg (not_not.2 h), hs]

theorem adoptShare_unloading (r : ShareRt) (h : setPresent p g = true) (hs : sets[g].state = .unloading) :
    adoptShare p sets g r = r := by
  rw [adoptShare, if_neg (not_not.2 h), hs]

theorem adoptShare_incoming (r : ShareRt) (h : setPresent p g = true) (hs : sets[g].state = .incoming) :
    adoptShare p sets g r = { r with k := 0 } := by
  rw [adoptShare, if_neg (not_not.2 h), hs]

theorem adoptShare_parked (r : ShareRt) (h : setPresent p g = true)
    (hs : sets[g].state = .offline ∨ sets[g].state = .tripped) :
    adoptShare p sets g r =
      { r with bias := p.conf.sets[g].park, k := 0, sat := .clear, unload := .none, openWait := none } := by
  rcases hs with hs | hs <;> rw [adoptShare, if_neg (not_not.2 h), hs]

theorem adoptGroup_shed {i : Fin 32} {r : GroupRt}
    (h : (p.conf.groups[i].present && sectPresent p p.conf.groups[i].sect) = true) (ho : r.out = true) :
    adoptGroup p i r = { state := .shed, cause := some .adopted, confirm := none, out := true } :=
  if_pos ⟨h, ho⟩

theorem adoptGroup_connected {i : Fin 32} {r : GroupRt}
    (h : (p.conf.groups[i].present && sectPresent p p.conf.groups[i].sect) = false ∨ r.out = false) :
    adoptGroup p i r = { state := .connected, cause := none, confirm := none, out := false } := by
  refine if_neg fun ⟨hp, ho⟩ => ?_
  rcases h with h | h
  · exact absurd (h.symm.trans hp) Bool.false_ne_true
  · exact absurd (h.symm.trans ho) Bool.false_ne_true

end

/-- Settles O7. -/
theorem adoptionTakesThePlant : Obligations.AdoptionTakesThePlant := by
  refine ⟨fun s => ⟨adoptReady_iff s, fun h => congrArg Host.Outcome.next (if_neg (by rw [h]; exact Bool.false_ne_true))⟩,
    keepsState_iff, fun s h => ?_⟩
  have run : exec .adoption s = .next (adopt s) := congrArg Host.Outcome.next (if_pos h)
  have hconf := adoptPartition_conf s
  have hpart := adoptPartition_partition s
  have listed : listedStations (adoptPartition s) = listedStations s := by rw [listedStations, hconf]; rfl
  dsimp only
  refine ⟨_, run, ?_⟩
  rw [adopt_eq]
  generalize adoptPartition s = p at *
  have sets := adopted_set p
  have share := adopted_share p
  have groups := adopted_group p
  have stations := unknownStations_get (adopted p)
  rw [startPolling_eq, show listedStations (unknownStations (adopted p)) = listedStations s from listed]
  have sent : Sends (newNotice .stateChanged none (some 3) p) p
      (notify .stateChanged none (some 3) p) := sends_notify ..
  refine ⟨rfl, rfl, rfl, hpart, fun g hp => ⟨?_, ?_, ?_⟩, fun g hp hk => ?_, fun g hp hk => ?_, fun g hp hs => ?_,
    fun g hp hs => ?_, fun g hp hs => ?_, fun g hp hs => ?_, fun g hp ho => ?_, fun g hn => ?_, rfl, fun x => ?_, rfl, rfl,
    rfl, rfl, rfl, sent, hconf⟩
  · exact (sets g).trans (adoptSet_absent _ hp)
  · exact (congrArg ShareRt.bias (share g)).trans (adoptShare_absent _ _ hp).1
  · exact (congrArg ShareRt.k (share g)).trans (adoptShare_absent _ _ hp).2
  · exact (sets g).trans (adoptSet_kept _ hp hk)
  · obtain ⟨latch, state⟩ := adoptSet_taken p.plant.sets[g] hp hk
    exact ⟨(congrArg SetRt.latch (sets g)).trans latch, (congrArg SetRt.state (sets g)).trans state⟩
  · have taken := (share g).trans (adoptShare_online _ hp hs)
    exact ⟨(congrArg ShareRt.bias taken :), (congrArg ShareRt.k taken :), (congrArg ShareRt.sat taken :),
      (congrArg ShareRt.unload taken :)⟩
  · have taken := (share g).trans (adoptShare_parked _ hp hs)
    exact ⟨(congrArg ShareRt.bias taken :), (congrArg ShareRt.k taken :), (congrArg ShareRt.sat taken :)⟩
  · exact (share g).trans (adoptShare_incoming _ hp hs)
  · exact (share g).trans (adoptShare_unloading _ hp hs)
  · exact (groups g).trans (adoptGroup_shed hp ho)
  · exact (groups g).trans (adoptGroup_connected hn)
  · exact ⟨(congrArg StationRt.state (stations x) :), (congrArg StationRt.miss (stations x) :)⟩

end Sys2Proof.Machine

/-! HOLD and RESUME carried out (10 R170). -/

namespace Sys2Proof.Machine

/-! ### HOLD, part by part -/

/-- The part in HELD with its timers stopped. -/
def heldState (s : State) : State := stopTimers (stateChanged .held s)

/-- What the first step of HOLD leaves alone. -/
theorem heldState_blocks (s : State) :
    (heldState s).plant = s.plant ∧ (heldState s).sync = s.sync ∧ (heldState s).resv = s.resv ∧
      (heldState s).line = s.line ∧ (heldState s).prof = s.prof ∧ (heldState s).conf = s.conf ∧
      (heldState s).share.sets = s.share.sets ∧ (heldState s).link.clock = s.link.clock := by
  unfold heldState stopTimers stopConfirms stateChanged
  exact ⟨rfl, rfl, rfl, rfl, rfl, rfl, rfl, rfl⟩

theorem heldState_group (s : State) (g : Fin 32) :
    (heldState s).shed.groups[g] = { s.shed.groups[g] with confirm := none } :=
  stopConfirms_group (stateChanged .held s) g

theorem heldState_timers (s : State) : TimersIdle (heldState s) := fun i =>
  ⟨Vector.getElem_replicate (a := Dwell.idle) i.isLt, Vector.getElem_replicate (a := (none : Timer)) i.isLt⟩

theorem sends_heldState (s : State) : Sends (newNotice .stateChanged none (some 2) s) s (heldState s) :=
  sends_notify .stateChanged none (some 2) { s with start.op := .held }

/-- The sets that HOLD takes back from an unload in RAMPING. -/
def heldRamping (s : State) : List (Fin 8) :=
  eight.filter fun g => decide (s.plant.sets[g].state = .unloading) && decide (s.share.sets[g].unload = .ramping)

theorem heldRamping_nodup (s : State) : (heldRamping s).Nodup := List.Nodup.filter _ (by decide)

theorem mem_heldRamping (s : State) (g : Fin 8) :
    g ∈ heldRamping s ↔ s.plant.sets[g].state = .unloading ∧ s.share.sets[g].unload = .ramping := by
  rw [heldRamping, List.mem_filter, Bool.and_eq_true, decide_eq_true_iff, decide_eq_true_iff]
  exact and_iff_right (by revert g; decide)

/-- Unloads aborted change set states, sharing records and the queues alone. -/
theorem abortUnloadList_changes (c : Int) (gs : List (Fin 8)) (s : State) :
    gs.foldl (fun t g => abortUnload c g t) s =
      { s with
        plant.sets := (gs.foldl (fun t g => abortUnload c g t) s).plant.sets,
        share.sets := (gs.foldl (fun t g => abortUnload c g t) s).share.sets,
        link := (gs.foldl (fun t g => abortUnload c g t) s).link } := by
  induction gs generalizing s with
  | nil => rfl
  | cons g gs ih =>
    rw [List.foldl_cons, ih]
    rfl

theorem abortUnloadList_stamp (c : Int) (gs : List (Fin 8)) (s : State) :
    (gs.foldl (fun t g => abortUnload c g t) s).link.clock = s.link.clock :=
  foldl_same (·.link.clock) (f := fun t g => abortUnload c g t) (fun _ _ => rfl) gs s

theorem holdUnloads_changes (s : State) :
    holdUnloads s =
      { s with
        plant.sets := (holdUnloads s).plant.sets, share.sets := (holdUnloads s).share.sets, link := (holdUnloads s).link } :=
  abortUnloadList_changes 3 (heldRamping s) s

theorem appends_abortUnload (c : Int) (g : Fin 8) (s : State) : Appends s (abortUnload c g s) :=
  (appends_of_link rfl).trans (appends_notify .unloadAborted _ _ _)

/-- HOLD ends a request that has not begun its CLOSE. -/
theorem holdSync_aborts {r : SyncReq} {s : State} (h : s.sync.req = some r) (hs : r.stage ≠ .close) :
    holdSync s = syncAbort .held s := by
  unfold holdSync
  rw [h]
  exact if_neg hs

theorem holdSync_closing {s : State} (h : ∀ r, s.sync.req = some r → r.stage = .close) : holdSync s = s := by
  unfold holdSync
  split
  next r hr => exact if_pos (h r hr)
  next => rfl

theorem holdSync_cases (s : State) :
    holdSync s = s ∨ ∃ r, s.sync.req = some r ∧ r.stage ≠ .close ∧ holdSync s = syncAbort .held s := by
  by_cases h : ∀ r, s.sync.req = some r → r.stage = .close
  · exact Or.inl (holdSync_closing h)
  · obtain ⟨r, h⟩ := not_forall.1 h
    obtain ⟨hr, hs⟩ := Classical.not_imp.1 h
    exact Or.inr ⟨r, hr, hs, holdSync_aborts hr hs⟩

theorem holdSync_changes (s : State) :
    holdSync s =
      { s with
        plant.sets := (holdSync s).plant.sets, share.sets := (holdSync s).share.sets, scan := (holdSync s).scan,
        sync := (holdSync s).sync, link := (holdSync s).link } := by
  rcases holdSync_cases s with h | ⟨r, hr, hs, h⟩
  · rw [h]
  · rw [h]
    exact syncAbort_changes .held s

/-- Outside RUNNING the set of an aborted request is OFFLINE at its bias; the other sets stand. -/
theorem holdSync_set {s : State} (hr : s.running = false) (g : Fin 8) :
    (holdSync s).biasOut g = s.biasOut g ∧
      (s.plant.sets[g].state ≠ .incoming →
        (holdSync s).plant.sets[g] = s.plant.sets[g] ∧ (holdSync s).share.sets[g] = s.share.sets[g]) := by
  rcases holdSync_cases s with h | ⟨r, hq, -, h⟩
  · rw [h]
    exact ⟨rfl, fun _ => ⟨rfl, rfl⟩⟩
  · rw [h]
    by_cases hi : r.obj = .set g ∧ s.plant.sets[g].state = .incoming
    · refine ⟨?_, fun hn => absurd hi.2 hn⟩
      have parked := (syncAbort_incoming (c := .held) hq hi.1 hi.2).2
      rw [parkBias, hr, if_neg Bool.false_ne_true] at parked
      exact (congrArg ShareRt.bias parked :)
    · obtain ⟨set, share⟩ := syncAbort_other (c := .held) hq hi
      exact ⟨congrArg ShareRt.bias share, fun _ => ⟨set, share⟩⟩

theorem appends_holdSync (s : State) : Appends s (holdSync s) := by
  rcases holdSync_cases s with h | ⟨r, hr, -, h⟩
  · rw [h]
    exact Appends.refl s
  · rw [h]
    exact ⟨_, syncAbort_delivers hr⟩

/-- Answers made pending change the stations alone. -/
theorem answers_changes (a : Answer) (es : List Entry) (s : State) :
    es.foldl (fun t e => answer e.station e.consumer a t) s =
      { s with line.stations := (es.foldl (fun t e => answer e.station e.consumer a t) s).line.stations } := by
  induction es generalizing s with
  | nil => rfl
  | cons e es ih =>
    rw [List.foldl_cons, ih]
    rfl

/-- Entries removed change the queue and the stations alone. -/
theorem removeAll_changes (keep : Entry → Bool) (a : Answer) (s : State) :
    removeAll keep a s =
      { s with
        resv.queue := s.resv.queue.filter keep, line.stations := (removeAll keep a s).line.stations } := by
  unfold removeAll
  dsimp only
  rw [answers_changes]

/-! ### HOLD as a whole -/

/-- What the first steps of HOLD keep of the state before them. -/
def HeldAlong (s t : State) : Prop :=
  t.start = s.start ∧ t.shed = s.shed ∧ t.resv = s.resv ∧ t.line = s.line ∧ t.share.period = s.share.period ∧
    t.conf = s.conf ∧ t.prof = s.prof ∧ t.plant.partition = s.plant.partition ∧ t.plant.generation = s.plant.generation

theorem heldAlong_holdUnloads (s : State) : HeldAlong s (holdUnloads s) := by
  rw [holdUnloads_changes]
  exact ⟨rfl, rfl, rfl, rfl, rfl, rfl, rfl, rfl, rfl⟩

theorem heldAlong_holdSync (s : State) : HeldAlong s (holdSync s) := by
  rw [holdSync_changes]
  exact ⟨rfl, rfl, rfl, rfl, rfl, rfl, rfl, rfl, rfl⟩

theorem HeldAlong.trans {s t u : State} (h : HeldAlong s t) (k : HeldAlong t u) : HeldAlong s u := by
  obtain ⟨h1, h2, h3, h4, h5, h6, h7, h8, h9⟩ := h
  obtain ⟨k1, k2, k3, k4, k5, k6, k7, k8, k9⟩ := k
  exact ⟨k1.trans h1, k2.trans h2, k3.trans h3, k4.trans h4, k5.trans h5, k6.trans h6, k7.trans h7, k8.trans h8,
    k9.trans h9⟩

theorem holdUnloads_sync (s : State) : (holdUnloads s).sync = s.sync := by rw [holdUnloads_changes]

theorem holdUnloads_stamp (s : State) (k : NoticeKind) (a : Option Nat) (v : Option Int) :
    newNotice k a v (holdUnloads s) = newNotice k a v s :=
  newNotice_of (heldAlong_holdUnloads s).2.2.2.2.2.2.2.2 (abortUnloadList_stamp 3 (heldRamping s) s) k a v

theorem holdUnloads_bias (s : State) (g : Fin 8) : (holdUnloads s).biasOut g = s.biasOut g := by
  obtain ⟨taken, others, -⟩ := abortUnload_list 3 (heldRamping s) (heldRamping_nodup s) s
  by_cases hg : g ∈ heldRamping s
  · obtain ⟨-, -, -, bias, -⟩ := taken g hg
    exact bias
  · exact congrArg ShareRt.bias (others g hg).2

/-- A set taken back from its unload. -/
theorem holdUnloads_ramping {s : State} {g : Fin 8} (hs : s.plant.sets[g].state = .unloading)
    (hu : s.share.sets[g].unload = .ramping) :
    (holdUnloads s).plant.sets[g].state = .online ∧ (holdUnloads s).share.sets[g].k = (settings s).rampN ∧
      (holdUnloads s).share.sets[g].unload = .none ∧
      Sent (newNotice .unloadAborted (some g.val) (some 3) s) (holdUnloads s) := by
  obtain ⟨taken, -⟩ := abortUnload_list 3 (heldRamping s) (heldRamping_nodup s) s
  obtain ⟨state, k, unload, -, sent⟩ := taken g ((mem_heldRamping s g).2 ⟨hs, hu⟩)
  exact ⟨state, k, unload, sent⟩

/-- What HOLD makes of the Synchroniser's request. -/
theorem holdSync_request {r : SyncReq} {s : State} (hr : s.sync.req = some r) :
    (r.stage ≠ .close →
      (holdSync s).sync.req = none ∧ (holdSync s).sync.lastAbort = some .held ∧
        Sent (newNotice .syncAborted (some r.obj.code) (some 6) s) (holdSync s)) ∧
    (r.stage = .close → (holdSync s).sync = s.sync) := by
  refine ⟨fun hs => ?_, fun hs => ?_⟩
  · have sync := syncAbort_sync (c := .held) hr
    rw [holdSync_aborts hr hs]
    refine ⟨congrArg Sync.req sync, (congrArg Sync.lastAbort sync :), ?_⟩
    obtain ⟨link, generation⟩ := abortState_changes .held r s
    rw [syncAbort_request hr,
      ← newNotice_of generation (congrArg LinkIf.clock link) .syncAborted (some r.obj.code) (some 6)]
    exact sent_notify_self _ _ _ _
  · rw [holdSync_closing fun q hq => (Option.some.inj (hr.symm.trans hq)) ▸ hs]

/-- Entries removed: the blocks but the queue and the stations stand. -/
theorem removeAll_blocks (keep : Entry → Bool) (a : Answer) (s : State) :
    HeldAlong s { removeAll keep a s with resv := s.resv, line := s.line } ∧
      (removeAll keep a s).plant = s.plant ∧ (removeAll keep a s).share = s.share ∧
      (removeAll keep a s).sync = s.sync ∧ (removeAll keep a s).link = s.link := by
  rw [removeAll_changes]
  exact ⟨⟨rfl, rfl, rfl, rfl, rfl, rfl, rfl, rfl, rfl⟩, rfl, rfl, rfl, rfl⟩

theorem removeAll_queue (keep : Entry → Bool) (a : Answer) (s : State) :
    (removeAll keep a s).resv = { s.resv with queue := s.resv.queue.filter keep } := by
  rw [removeAll_changes]

theorem removeAll_line (keep : Entry → Bool) (a : Answer) (s : State) :
    (removeAll keep a s).line = { s.line with stations := (removeAll keep a s).line.stations } := by
  rw [removeAll_changes]

/-- The entries that HOLD removes. -/
def isActive (e : Entry) : Bool := decide (e.state = .active)

/-- The parts of HOLD after its timers are stopped. -/
def holdRest (b s : State) : State := accountUpdate false b four (removeAll isActive .held (holdSync (holdUnloads s)))

theorem holdPart_eq (s : State) : holdPart s = holdRest s (heldState s) := rfl

section
variable {b s : State}

theorem appends_holdRest (b s : State) :
    Appends (holdUnloads s) (holdRest b s) ∧ Appends (holdSync (holdUnloads s)) (holdRest b s) := by
  obtain ⟨-, -, -, -, link⟩ := removeAll_blocks isActive .held (holdSync (holdUnloads s))
  have last := (appends_of_link link).trans (appends_accountUpdate false b four _)
  exact ⟨(appends_holdSync _).trans last, last⟩

/-- The blocks that stand through the account update of HOLD. -/
theorem holdRest_blocks (h : s.running = false) :
    (holdRest b s).start = s.start ∧ (holdRest b s).shed = s.shed ∧ (holdRest b s).share.period = s.share.period ∧
      (holdRest b s).conf = s.conf ∧ (holdRest b s).prof = s.prof ∧
      (holdRest b s).plant.partition = s.plant.partition ∧ (holdRest b s).plant.generation = s.plant.generation ∧
      (holdRest b s).sync = (holdSync (holdUnloads s)).sync ∧
      (holdRest b s).resv.queue = s.resv.queue.filter isActive ∧
      (holdRest b s).line = { s.line with stations := (holdRest b s).line.stations } := by
  obtain ⟨vstart, vshed, vresv, vline, vperiod, vconf, vprof, vpartition, vgeneration⟩ :=
    (heldAlong_holdUnloads s).trans (heldAlong_holdSync (holdUnloads s))
  have queue := removeAll_queue isActive .held (holdSync (holdUnloads s))
  have line := removeAll_line isActive .held (holdSync (holdUnloads s))
  obtain ⟨⟨ustart, ushed, -, -, uperiod, uconf, uprof, upartition, ugeneration⟩, -, -, usync, -⟩ :=
    removeAll_blocks isActive .held (holdSync (holdUnloads s))
  unfold holdRest
  generalize removeAll isActive .held (holdSync (holdUnloads s)) = u at *
  generalize holdSync (holdUnloads s) = v at *
  obtain ⟨⟨-, ⟨partition, generation, -⟩, -, ⟨-, sync, prof, start, conf⟩, -, period, -⟩, -⟩ :=
    updates_accountUpdate false b four u
  obtain ⟨-, ⟨-, stopped⟩, -⟩ := moves_accountUpdate false b four u
  have running : u.running = false := by
    rw [State.running, show u.start = s.start from ustart.trans vstart]
    exact h
  obtain ⟨shed, queue', line'⟩ := stopped running
  refine ⟨start.trans (ustart.trans vstart), shed.trans (ushed.trans vshed), period.trans (uperiod.trans vperiod),
    conf.trans (uconf.trans vconf), prof.trans (uprof.trans vprof), partition.trans (upartition.trans vpartition),
    generation.trans (ugeneration.trans vgeneration), sync.trans usync, ?_, ?_⟩
  · rw [queue', queue, vresv]
  · rw [line', line, vline]

theorem holdRest_bias (h : s.running = false) (g : Fin 8) : (holdRest b s).biasOut g = s.biasOut g := by
  have stopped : (holdUnloads s).running = false := by
    rw [State.running, (heldAlong_holdUnloads s).1]
    exact h
  obtain ⟨-, -, share, -⟩ := removeAll_blocks isActive .held (holdSync (holdUnloads s))
  obtain ⟨⟨-, -, -, -, shares, -⟩, -⟩ :=
    updates_accountUpdate false b four (removeAll isActive .held (holdSync (holdUnloads s)))
  have removed : (removeAll isActive .held (holdSync (holdUnloads s))).biasOut g = (holdSync (holdUnloads s)).biasOut g :=
    congrArg (fun u : Share => u.sets[g].bias) share
  exact (shares g).1.trans (removed.trans ((holdSync_set stopped g).1.trans (holdUnloads_bias s g)))

theorem holdRest_ramping (h : s.running = false) {g : Fin 8} (hs : s.plant.sets[g].state = .unloading)
    (hu : s.share.sets[g].unload = .ramping) :
    (holdRest b s).plant.sets[g].state = .online ∧ (holdRest b s).share.sets[g].k = (settings s).rampN ∧
      (holdRest b s).share.sets[g].unload = .none ∧
      Sent (newNotice .unloadAborted (some g.val) (some 3) s) (holdRest b s) := by
  obtain ⟨state, k, unload, sent⟩ := holdUnloads_ramping hs hu
  have stopped : (holdUnloads s).running = false := by
    rw [State.running, (heldAlong_holdUnloads s).1]
    exact h
  have idle : (holdUnloads s).plant.sets[g].state ≠ .incoming := fun e => by cases state.symm.trans e
  obtain ⟨set, share⟩ := (holdSync_set stopped g).2 idle
  have later := (appends_holdRest b s).1
  obtain ⟨-, plant', share', -⟩ := removeAll_blocks isActive .held (holdSync (holdUnloads s))
  rw [← plant'] at set
  rw [← share'] at share
  unfold holdRest at later ⊢
  generalize removeAll isActive .held (holdSync (holdUnloads s)) = u at *
  have still : u.plant.sets[g].state ≠ .unloading := fun e => by rw [set, state] at e; cases e
  obtain ⟨plant, record⟩ := (moves_accountUpdate false b four u).set (Or.inl still)
  rw [plant, record, set, share]
  exact ⟨state, k, unload, sent.appends later⟩

theorem holdRest_answers (h : s.running = false) (x : Fin 12) (c : Fin 4) :
    ((holdRest b s).line.stations[x]).answers[c] =
      if ∃ e ∈ s.resv.queue, isActive e = false ∧ e.station = x ∧ e.consumer = c then
        some { answer := .held, delivered := false }
      else (s.line.stations[x]).answers[c] := by
  have answers := removeAll_answers isActive .held (holdSync (holdUnloads s)) x c
  obtain ⟨vstart, -, vresv, vline, -⟩ := (heldAlong_holdUnloads s).trans (heldAlong_holdSync (holdUnloads s))
  obtain ⟨⟨ustart, -⟩, -⟩ := removeAll_blocks isActive .held (holdSync (holdUnloads s))
  unfold holdRest
  generalize removeAll isActive .held (holdSync (holdUnloads s)) = u at *
  obtain ⟨-, ⟨-, stopped⟩, -⟩ := moves_accountUpdate false b four u
  have running : u.running = false := by
    rw [State.running, show u.start = s.start from ustart.trans vstart]
    exact h
  obtain ⟨-, -, line⟩ := stopped running
  rw [line, answers, vresv, vline]

end

theorem grows_holdRest (b s : State) : Grows s (holdRest b s) :=
  (updates_foldl (fun t g => updates_abortUnload 3 g t) (heldRamping s) s).grows.trans ((grows_holdSync _).trans
    ((grows_removeAll isActive .held _).trans (updates_accountUpdate false b four _).grows))

/-! ### The counter of a queue (07 R121) -/

theorem foldl_counter {α : Type} {f : State → α → State} (h : ∀ t a, (f t a).resv.counter = t.resv.counter) (l : List α)
    (s : State) : (l.foldl f s).resv.counter = s.resv.counter := foldl_same (·.resv.counter) h l s

theorem abortUnloads_resv (i : Fin 4) (s : State) : (abortUnloads i s).resv = s.resv := by
  have each (c : Int) (gs : List (Fin 8)) : (gs.foldl (fun t g => abortUnload c g t) s).resv = s.resv := by
    rw [abortUnloadList_changes]
  unfold abortUnloads
  split
  · dsimp only
    split
    · rfl
    · split
      · exact each 2 _
      · split
        · exact each 1 _
        · rfl
  · rfl

theorem blackoutIfDead_resv (b : State) (i : Fin 4) (s : State) : (blackoutIfDead b i s).resv = s.resv := by
  unfold blackoutIfDead
  split
  · split
    · exact (shedAction_rest .blackout (shedOrder s i) s).2.2.2.1
    · rfl
  · rfl

theorem shedUpdate_resv (scan : Bool) (i : Fin 4) (s : State) : (shedUpdate scan i s).resv = s.resv := by
  by_cases hr : s.running = true
  · cases ha : s.plant.accounts[i] with
    | none =>
      unfold shedUpdate
      rw [if_pos hr, ha]
    | some a =>
      obtain ⟨-, -, -, resv, -⟩ := shedUpdate_dwell (scan := scan) hr ha
      exact resv
  · unfold shedUpdate
    rw [if_neg hr]

theorem seeWanted_counter (i : Fin 4) (s : State) : (seeWanted i s).resv.counter = s.resv.counter := by
  unfold seeWanted
  split
  · dsimp only
    split <;> rfl
  · rfl

theorem offerTest_counter {i : Fin 4} {s t : State} (h : offerTest i s = some t) : t.resv.counter = s.resv.counter := by
  unfold offerTest at h
  split at h
  · split at h
    · split at h
      · cases h
        rfl
      · cases h
    · split at h
      · cases h
        rfl
      · cases h
  · cases h

theorem reUpdate_counter (i : Fin 4) (s : State) : (reUpdate i s).resv.counter = s.resv.counter := by
  unfold reUpdate
  rw [seeWanted_counter, shedUpdate_resv, abortUnloads_resv]
  rfl

theorem arbiterUpdate_counter (i : Fin 4) (s : State) : (arbiterUpdate i s).resv.counter = s.resv.counter := by
  unfold arbiterUpdate
  dsimp only
  split
  · split
    next h => rw [reUpdate_counter, offerTest_counter h, seeWanted_counter]
    next => exact seeWanted_counter i s
  · exact seeWanted_counter i s

/-- An account update numbers no entry. -/
theorem accountUpdate_counter (scan : Bool) (b : State) (is : List (Fin 4)) (s : State) :
    (accountUpdate scan b is s).resv.counter = s.resv.counter := by
  unfold accountUpdate handOn eachIsland
  rw [foldl_counter fun t i => arbiterUpdate_counter i t,
    foldl_counter fun t i => congrArg Resv.counter (shedUpdate_resv scan i t),
    foldl_counter fun t i => congrArg Resv.counter (blackoutIfDead_resv b i t),
    foldl_counter fun t i => congrArg Resv.counter (abortUnloads_resv i t)]
  rfl

/-! ### RESUME, part by part -/

theorem mem_listedStations (s : State) (x : Fin 12) : x ∈ listedStations s ↔ s.conf.stations[x] = true := by
  rw [listedStations, List.mem_filter]
  exact and_iff_right (by revert x; decide)

/-- The station polled after another is on the list. -/
theorem stationAfter_listed {s : State} {x y : Fin 12} (h : stationAfter s x = some y) : s.conf.stations[y] = true := by
  unfold stationAfter at h
  split at h
  next z hz =>
    cases h
    exact (mem_listedStations s _).1 (List.mem_of_find?_eq_some hz)
  next => exact (mem_listedStations s _).1 (List.mem_of_head? h)

/-- A station not on the list, if there is one. -/
def unlisted (s : State) (o : Option (Fin 12)) : Bool := o.any fun x => !s.conf.stations[x]

theorem unlisted_none {s : State} {x : Fin 12} (h : unlisted s (some x) = false) : s.conf.stations[x] = true :=
  Bool.not_eq_false' _ ▸ h

/-- The poll slots read anew: a pointer at a station not on the list moves on or is dropped. -/
theorem reaimPolling_listed {s : State} (h : listedStations s ≠ []) :
    reaimPolling s =
      { s with
        line.next := if unlisted s s.line.next then s.line.next.bind (stationAfter s) else s.line.next,
        line.current := if unlisted s s.line.current then none else s.line.current,
        line.poll := if unlisted s s.line.current then none else s.line.poll,
        line.window := if unlisted s s.line.current then none else s.line.window } := by
  unfold reaimPolling
  dsimp only
  rw [if_neg h]
  change (if unlisted s s.line.current then _ else _) = _
  by_cases hc : unlisted s s.line.current = true
  · simp only [if_pos hc]
    change { (if unlisted s s.line.next then _ else _ : State) with line.current := none, line.poll := none, line.window := none } = _
    by_cases hn : unlisted s s.line.next = true
    · simp only [if_pos hn]
    · simp only [if_neg hn]
  · simp only [if_neg hc]
    change (if unlisted s s.line.next then _ else _ : State) = _
    by_cases hn : unlisted s s.line.next = true
    · simp only [if_pos hn]
    · simp only [if_neg hn]

theorem reaimPolling_stations (s : State) : (reaimPolling s).line.stations = s.line.stations := by
  by_cases h : listedStations s = []
  · rw [reaimPolling_none h]
    rfl
  · rw [reaimPolling_listed h]

/-- The stations left to poll are on the list. -/
theorem reaimPolling_aims (s : State) (x : Fin 12)
    (h : (reaimPolling s).line.next = some x ∨ (reaimPolling s).line.current = some x) : s.conf.stations[x] = true := by
  by_cases hl : listedStations s = []
  · rw [reaimPolling_none hl] at h
    rcases h with h | h <;> cases h
  · rw [reaimPolling_listed hl] at h
    rcases h with h | h
    · by_cases hn : unlisted s s.line.next = true
      · obtain ⟨y, -, hy⟩ := Option.bind_eq_some_iff.1 ((if_pos hn).symm.trans h)
        exact stationAfter_listed hy
      · have next : s.line.next = some x := (if_neg hn).symm.trans h
        rw [next] at hn
        exact unlisted_none (Bool.eq_false_iff.2 hn)
    · by_cases hn : unlisted s s.line.current = true
      · cases (if_pos hn).symm.trans h
      · have current : s.line.current = some x := (if_neg hn).symm.trans h
        rw [current] at hn
        exact unlisted_none (Bool.eq_false_iff.2 hn)

/-- A station as RESUME leaves it. -/
def StationRt.resumed (listed : Bool) (r : StationRt) : StationRt :=
  if listed then r else { r with answers := Vector.replicate 4 none }

theorem StationRt.resumed_stands (listed : Bool) (r : StationRt) :
    (r.resumed listed).state = r.state ∧ (r.resumed listed).miss = r.miss := by
  cases listed <;> exact ⟨rfl, rfl⟩

/-- The consumer line at RESUME before the poll slots are read anew. -/
def lineCleared (s : State) : State :=
  let t := unknownStations { removeAll (fun _ => false) .holdEnded s with resv.counter := 1 }
  { t with line.stations := tab (fun x => StationRt.resumed t.conf.stations[x]) t.line.stations }

theorem resumeLine_eq (s : State) : resumeLine s = reaimPolling (lineCleared s) := rfl

theorem lineCleared_changes (s : State) :
    lineCleared s =
      { s with
        resv := (lineCleared s).resv, line.stations := (lineCleared s).line.stations } := by
  unfold lineCleared
  rw [removeAll_changes]
  rfl

theorem resumeLine_changes (s : State) :
    resumeLine s = { s with resv := (resumeLine s).resv, line := (resumeLine s).line } := by
  rw [resumeLine_eq, reaimPolling_line, lineCleared_changes]

theorem lineCleared_queue (s : State) : (lineCleared s).resv.queue = [] ∧ (lineCleared s).resv.counter = 1 := by
  have queue := congrArg Resv.queue (removeAll_queue (fun _ => false) .holdEnded s)
  exact ⟨queue.trans (List.filter_eq_nil_iff.2 fun _ _ => Bool.false_ne_true), rfl⟩

theorem lineCleared_station (s : State) (x : Fin 12) :
    (lineCleared s).line.stations[x] =
      ((removeAll (fun _ => false) .holdEnded s).line.stations[x]).unknown.resumed s.conf.stations[x] := by
  have conf : (removeAll (fun _ => false) .holdEnded s).conf = s.conf := by rw [removeAll_changes]
  have station : (lineCleared s).line.stations[x] =
      ((unknownStations { removeAll (fun _ => false) .holdEnded s with resv.counter := 1 }).line.stations[x]).resumed
        (removeAll (fun _ => false) .holdEnded s).conf.stations[x] := get_tab ..
  rw [station, unknownStations_get, conf]

theorem lineCleared_answers (s : State) (x : Fin 12) (c : Fin 4) :
    ((lineCleared s).line.stations[x]).answers[c] =
      if s.conf.stations[x] = true then
        if ∃ e ∈ s.resv.queue, e.station = x ∧ e.consumer = c then some { answer := .holdEnded, delivered := false }
        else (s.line.stations[x]).answers[c]
      else none := by
  have answers := removeAll_answers (fun _ => false) .holdEnded s x c
  rw [lineCleared_station]
  by_cases h : s.conf.stations[x] = true
  · rw [if_pos h, h]
    refine answers.trans (if_congr ?_ rfl rfl)
    simp only [true_and]
  · rw [if_neg h, Bool.eq_false_iff.2 h]
    exact Vector.getElem_replicate c.isLt

/-! ### RESUME as a whole -/

/-- The part at RESUME before the consumer line is cleared. -/
def resumedImage (s : State) : State := initProfiles (resumePlant s)

/-- The part at RESUME before the account update. -/
def resumeState (s : State) : State := { resumeLine (resumedImage s) with start.adoptWait := some 2 }

theorem resumePart_eq (s : State) : resumePart s = accountUpdate false s four (resumeState s) := rfl

/-- What RESUME writes outside the consumer line. -/
theorem resumeState_blocks (s : State) :
    (resumeState s).conf = s.start.ram ∧ (resumeState s).start = { s.start with adoptWait := some 2 } ∧
      (resumeState s).prof = (resumedImage s).prof ∧ (resumeState s).sync = s.sync ∧
      (resumeState s).plant.generation = s.plant.generation ∧ (resumeState s).plant.partition = s.plant.partition ∧
      ∀ g : Fin 8, (resumeState s).biasOut g = s.biasOut g := by
  rw [resumeState, resumeLine_changes]
  exact ⟨rfl, rfl, rfl, rfl, rfl, rfl, fun g => rfl⟩

theorem resumeState_resv (s : State) : (resumeState s).resv.queue = [] ∧ (resumeState s).resv.counter = 1 := by
  have line := lineCleared_queue (resumedImage s)
  have same : (resumeLine (resumedImage s)).resv = (lineCleared (resumedImage s)).resv := by
    rw [resumeLine_eq, reaimPolling_line]
  exact ⟨(congrArg Resv.queue same).trans line.1, (congrArg Resv.counter same).trans line.2⟩

theorem resumeState_station (s : State) (x : Fin 12) :
    (resumeState s).line.stations[x] = (lineCleared (resumedImage s)).line.stations[x] :=
  congrArg (fun v : Vector StationRt 12 => v[x]) (reaimPolling_stations (lineCleared (resumedImage s)))

theorem resumeState_unknown (s : State) (x : Fin 12) :
    (resumeState s).line.stations[x].state = .unknown ∧ (resumeState s).line.stations[x].miss = 0 := by
  rw [resumeState_station, lineCleared_station]
  obtain ⟨state, miss⟩ := StationRt.resumed_stands (resumedImage s).conf.stations[x]
    ((removeAll (fun _ => false) .holdEnded (resumedImage s)).line.stations[x]).unknown
  exact ⟨state, miss⟩

theorem resumeState_answers (s : State) (x : Fin 12) (c : Fin 4) :
    ((resumeState s).line.stations[x]).answers[c] =
      if s.start.ram.stations[x] = true then
        if ∃ e ∈ s.resv.queue, e.station = x ∧ e.consumer = c then some { answer := .holdEnded, delivered := false }
        else (s.line.stations[x]).answers[c]
      else none := by
  rw [resumeState_station]
  exact lineCleared_answers (resumedImage s) x c

/-- With no station listed the poll slots stop; with one they run on. -/
theorem resumeState_slots (s : State) :
    ((∃ x : Fin 12, s.start.ram.stations[x] = true) → (resumeState s).line.slot = s.line.slot) ∧
    ((∀ x : Fin 12, s.start.ram.stations[x] = false) →
      (resumeState s).line.slot = none ∧ (resumeState s).line.poll = none ∧ (resumeState s).line.window = none) ∧
    ∀ x : Fin 12, ((resumeState s).line.next = some x ∨ (resumeState s).line.current = some x) →
      s.start.ram.stations[x] = true := by
  have conf : (lineCleared (resumedImage s)).conf = s.start.ram := by rw [lineCleared_changes]; rfl
  have slot : (lineCleared (resumedImage s)).line.slot = s.line.slot := by rw [lineCleared_changes]; rfl
  have line : (resumeState s).line = (reaimPolling (lineCleared (resumedImage s))).line := rfl
  rw [line]
  generalize lineCleared (resumedImage s) = z at *
  refine ⟨fun ⟨x, hx⟩ => ?_, fun h => ?_, fun x hx => ?_⟩
  · have listed : listedStations z ≠ [] :=
      List.ne_nil_of_mem ((mem_listedStations z x).2 (by rw [conf]; exact hx))
    rw [reaimPolling_listed listed]
    exact slot
  · have listed : listedStations z = [] :=
      List.filter_eq_nil_iff.2 fun x _ => by rw [conf, h x]; exact Bool.false_ne_true
    rw [reaimPolling_none listed]
    exact ⟨rfl, rfl, rfl⟩
  · rw [← conf]
    exact reaimPolling_aims z x hx

/-- Settles O18. -/
theorem holdAndResume : Obligations.HoldAndResume := by
  refine ⟨fun s => ?_, fun s => ?_⟩
  · have stopped : (heldState s).running = false := rfl
    obtain ⟨start, shed, period, conf, prof, partition, generation, sync, queue, line⟩ := holdRest_blocks (b := s) stopped
    have ramping (g : Fin 8) := holdRest_ramping (b := s) stopped (g := g)
    have bias := holdRest_bias (b := s) stopped
    have answers := holdRest_answers (b := s) stopped
    have later := (appends_holdRest s (heldState s)).2
    have sent := (sends_heldState s).grows (grows_holdRest s (heldState s))
    have timers := timersIdle_of shed (heldState_timers s)
    have groups := heldState_group s
    have op : (heldState s).start.op = .held := rfl
    have idle : (heldState s).share.period = none := rfl
    obtain ⟨hplant, hsync, hresv, hline, hprof, hconf, hshare, hclock⟩ := heldState_blocks s
    have stamp := newNotice_of (congrArg Plant.generation hplant) hclock
    have sync' := (holdUnloads_sync (heldState s)).trans hsync
    have request (r : SyncReq) (hr : s.sync.req = some r) :=
      holdSync_request (s := holdUnloads (heldState s)) ((congrArg Sync.req sync').trans hr)
    simp only [holdUnloads_stamp, stamp] at request
    simp only [hplant, hshare, settings_of hprof, stamp] at ramping
    dsimp only
    rw [holdPart_eq]
    generalize holdRest s (heldState s) = t at *
    generalize holdSync (holdUnloads (heldState s)) = v at *
    generalize heldState s = h at *
    rw [hresv] at queue
    rw [hresv, hline] at answers
    refine ⟨(congrArg Startup.op start).trans op, sent, period.trans idle, fun g => ?_, timers, fun g => ?_, ramping, ?_,
      fun r hr hs => ?_, fun r hr hs => ?_, queue, fun e he hn => ?_, fun x c h => ?_, conf.trans hconf,
      prof.trans hprof, partition.trans (congrArg Plant.partition hplant),
      generation.trans (congrArg Plant.generation hplant)⟩
    · rw [shed]
      exact groups g
    · exact (bias g).trans (congrArg (fun u : Vector ShareRt 8 => u[g].bias) hshare)
    · rw [line, hline]
      exact ⟨rfl, rfl, rfl, rfl, rfl⟩
    · obtain ⟨req, abort, notice⟩ := (request r hr).1 hs
      rw [sync]
      exact ⟨req, abort, notice.appends later⟩
    · rw [sync, (request r hr).2 hs, sync', hr]
    · rw [answers, if_pos ⟨e, he, decide_eq_false hn, rfl, rfl⟩]
    · rw [answers]
      refine if_neg ?_
      rintro ⟨e, he, hn, hx, hc⟩
      exact of_decide_eq_false hn (h e he hx hc)
  · have before := resumeState_blocks s
    have resv := resumeState_resv s
    have unknown := resumeState_unknown s
    have answers := resumeState_answers s
    have slots := resumeState_slots s
    dsimp only
    rw [resumePart_eq]
    have fresh (p : Fin 8) : (resumedImage s).prof.fresh[p] = true := Vector.getElem_replicate p.isLt
    have hprof : (resumedImage s).prof.working = s.prof.working ∧ (resumedImage s).prof.active = s.start.ram.base ∧
        (resumedImage s).prof.stack = [] ∧ ∃ e, (resumedImage s).prof.entry = some e ∧ e.command = .initial ∧
          e.target = s.start.ram.general.initialProfile := ⟨rfl, rfl, rfl, _, rfl, rfl, rfl⟩
    generalize resumeState s = u at *
    obtain ⟨uconf, ustart, uprof, usync, ugeneration, upartition, ubias⟩ := before
    obtain ⟨⟨-, ⟨partition, generation, -⟩, -, ⟨-, sync, prof, start, conf⟩, shares, -, line, stations, -⟩, -⟩ :=
      updates_accountUpdate false s four u
    have counter := accountUpdate_counter false s four u
    obtain ⟨queue, first⟩ := resv
    have moves := moves_accountUpdate false s four u
    have absent (x : Fin 12) (c : Fin 4) := moves.absent (x := x) (c := c) (by rw [queue]; exact fun _ h => nomatch h)
    obtain ⟨m, hm, -⟩ := moves.2.2
    rw [queue] at hm
    generalize accountUpdate false s four u = t at *
    obtain ⟨slot, next, current, poll, window⟩ := line
    obtain ⟨runs, stops, aims⟩ := slots
    have prof := prof.trans uprof
    have start := start.trans ustart
    generalize (resumedImage s).prof = r at *
    obtain ⟨working, active, stack, entry⟩ := hprof
    refine ⟨conf.trans uconf, (congrArg Startup.ram start :), (congrArg Startup.op start :),
      (congrArg Startup.adoptWait start :), fun p => ?_, ?_, ?_, ?_, hm, counter.trans first, fun x => ?_,
      fun x c => ⟨fun h => ?_, fun h he => ?_, fun h hn => ?_⟩, fun h => slot.trans (runs h), fun h => ?_, fun x h => ?_,
      fun g => (shares g).1.trans (ubias g), generation.trans ugeneration, partition.trans upartition, sync.trans usync⟩
    · rw [prof]
      exact ⟨fresh p, congrArg (fun v : Vector Settings 8 => v[p]) working⟩
    · rw [prof, active]
    · rw [prof, stack]
    · rw [prof]
      exact entry
    · exact ⟨(stations x).1.trans (unknown x).1, (stations x).2.trans (unknown x).2⟩
    · rw [(absent x c).2, answers, if_neg (by rw [h]; exact Bool.false_ne_true)]
    · rw [(absent x c).2, answers, if_pos h, if_pos he]
    · rw [(absent x c).2, answers, if_pos h, if_neg fun ⟨e, he, hx⟩ => hn e he hx]
    · obtain ⟨hs, hp, hw⟩ := stops h
      exact ⟨slot.trans hs, poll.trans hp, window.trans hw⟩
    · exact aims x (by rwa [next, current] at h)

end Sys2Proof.Machine

/-! SHED and RESTORE, the fast shed and the blackout shed (05 R94, R95, 06 R107, R109). -/

namespace Sys2Proof.Machine

/-! ### Openings (05 R89) -/

theorem opensAtOnce_iff (s : State) (g : Fin 32) :
    opensAtOnce s g = true ↔
      ∀ c, (s.conf.groups[g]).confirm = some c → s.plant.confirm[c].filtered = some true := by
  unfold opensAtOnce
  split
  next h =>
    refine iff_of_true rfl fun c hc => ?_
    cases h.symm.trans hc
  next c h =>
    rw [decide_eq_true_iff]
    refine ⟨fun hf d hd => ?_, fun hf => hf c h⟩
    cases h.symm.trans hd
    exact hf

theorem opensAtOnce_of {s t : State} (hc : t.conf = s.conf) (hp : t.plant = s.plant) (g : Fin 32) :
    opensAtOnce t g = opensAtOnce s g := by
  unfold opensAtOnce
  rw [hc, hp]

/-! ### SHED and RESTORE (05 section 5.4) -/

theorem groupKind_shed (l : Link) : GroupKind l 32 (shedCommand l) := fun _ => rfl

theorem groupKind_restore (l : Link) : GroupKind l 33 restoreCommand := fun _ => rfl

theorem exec_shed (l : Link) (seq : Byte) (fields : List Byte) (s : State) :
    exec (.shed l seq fields) s = .next (requestFrame l 32 seq fields s) := rfl

theorem exec_restore (l : Link) (seq : Byte) (fields : List Byte) (s : State) :
    exec (.restore l seq fields) s = .next (requestFrame l 33 seq fields s) := rfl

section
variable {l : Link} {g : Fin 32} {s : State}

theorem shedCommand_connected (h : s.shed.groups[g].state = .connected) :
    shedCommand l g s = (notify .manualShed (some g.val) (some (l.code : Int)) (shedAction .manual [g] s), .ok) := by
  rw [shedCommand, h]

theorem shedCommand_inhibited (h : s.shed.groups[g].state = .inhibited) :
    shedCommand l g s = (s, .refused .inhibited) := by
  rw [shedCommand, h]
  rfl

theorem shedCommand_open
    (h : s.shed.groups[g].state = .shedPending ∨ s.shed.groups[g].state = .shed ∨ s.shed.groups[g].state = .shedFailed) :
    shedCommand l g s = (s, .ok) := by
  rcases h with h | h | h <;> rw [shedCommand, h]

theorem restoreCommand_open (h : s.shed.groups[g].state = .shed ∨ s.shed.groups[g].state = .shedFailed) :
    restoreCommand g s = (notify .restored (some g.val) (some 0) (connectGroup g s), .ok) := by
  rcases h with h | h <;> rw [restoreCommand, h]

theorem restoreCommand_pending (h : s.shed.groups[g].state = .shedPending) :
    restoreCommand g s = (s, .refused .wrongState) := by
  rw [restoreCommand, h]
  rfl

theorem restoreCommand_closed (h : s.shed.groups[g].state = .connected ∨ s.shed.groups[g].state = .inhibited) :
    restoreCommand g s = (s, .ok) := by
  rcases h with h | h <;> rw [restoreCommand, h]

end

/-- A group connected is CONNECTED with its output off; the others stand. -/
theorem connectGroup_groups (g h : Fin 32) (s : State) :
    (connectGroup g s).shed.groups[h] =
      if g = h then { state := .connected, cause := none, confirm := none, out := false } else s.shed.groups[h] := by
  obtain ⟨-, -, -, -, -, -, -, -, groups, -⟩ :=
    testGatesOf_rest g (updGroup g (fun _ => { state := .connected, cause := none, confirm := none, out := false }) s)
  have written := get_upd s.shed.groups g h
    (fun _ => ({ state := .connected, cause := none, confirm := none, out := false } : GroupRt))
  exact (congrArg (fun v : Vector GroupRt 32 => v[h]) groups).trans written

/-- Settles O27: both are group commands; SHED moves a CONNECTED group alone, RESTORE one that is open. -/
theorem shedAndRestoreCommands : Obligations.ShedAndRestoreCommands := by
  refine ⟨opensAtOnce_iff, fun l seq s ht => ?_⟩
  have sheds := groupKind_shed l
  have restores := groupKind_restore l
  intro v
  refine ⟨fun n hn => ?badField, fun g => ?_⟩
  case badField =>
    rw [exec_shed, exec_restore, sheds.badField ht seq hn, restores.badField ht seq hn]
    exact ⟨rfl, rfl⟩
  intro n
  rw [exec_shed, exec_restore]
  refine ⟨fun hr => ?stopped, fun hr hp => ?notPresent, fun hr hp => ?present⟩
  case stopped =>
    rw [sheds.wrongState ht seq g hr, restores.wrongState ht seq g hr]
    exact ⟨rfl, rfl⟩
  case notPresent =>
    rw [sheds.notPresent ht seq g hr hp, restores.notPresent ht seq g hr hp]
    exact ⟨rfl, rfl⟩
  case present =>
    have hshed : v.shed = s.shed := validFrame_shed l s
    have hstate : v.shed.groups[g].state = s.shed.groups[g].state := by rw [hshed]
    have hconf : v.conf = s.conf := validFrame_conf l s
    have hplant : v.plant = s.plant := validFrame_plant l s
    rw [sheds.present ht seq g hr hp, restores.present ht seq g hr hp]
    refine ⟨fun h => ?connected, fun h => ?inhibited, fun h => ?pending, fun h => ?opened⟩
    case connected =>
      rw [shedCommand_connected (hstate.trans h), restoreCommand_closed (Or.inl (hstate.trans h))]
      refine ⟨rfl, ?_, fun k hk => ?_, rfl⟩
      · rw [shedAction_groups, if_pos (List.mem_singleton_self g), opensAtOnce_of hconf hplant, hconf]
      · rw [shedAction_groups, if_neg fun e => hk (List.mem_singleton.1 e), hshed]
    case inhibited =>
      rw [shedCommand_inhibited (hstate.trans h), restoreCommand_closed (Or.inr (hstate.trans h))]
      exact ⟨rfl, rfl⟩
    case pending =>
      rw [shedCommand_open (Or.inl (hstate.trans h)), restoreCommand_pending (hstate.trans h)]
      exact ⟨rfl, rfl⟩
    case opened =>
      rw [shedCommand_open (Or.inr (hstate.symm ▸ h)), restoreCommand_open (hstate.symm ▸ h)]
      refine ⟨rfl, rfl, ?_, fun k hk => ?_⟩
      · rw [connectGroup_groups, if_pos rfl]
      · rw [connectGroup_groups, if_neg (Ne.symm hk), hshed]

/-! ### The walk of a shed order (06 R107) -/

theorem walk_zero (load : Fin 32 → Nat) (gs : List (Fin 32)) : walk load 0 gs = ([], false) := by
  cases gs <;> rfl

theorem walk_nil (load : Fin 32 → Nat) (n : Nat) : walk load (n + 1) [] = ([], true) := rfl

theorem walk_cons (load : Fin 32 → Nat) (n : Nat) (g : Fin 32) (gs : List (Fin 32)) :
    walk load (n + 1) (g :: gs) =
      (g :: (walk load (n + 1 - load g) gs).1, (walk load (n + 1 - load g) gs).2) := rfl

section
variable (load : Fin 32 → Nat)

theorem walk_prefix (gs : List (Fin 32)) : ∀ n, (walk load n gs).1 <+: gs := by
  induction gs with
  | nil =>
    intro n
    cases n with
    | zero => exact List.prefix_rfl
    | succ n => exact List.prefix_rfl
  | cons g gs ih =>
    intro n
    cases n with
    | zero => exact List.nil_prefix
    | succ n => exact List.cons_prefix_cons.2 ⟨rfl, ih _⟩

/-- A walk that finds too little takes the whole order. -/
theorem walk_short (gs : List (Fin 32)) :
    ∀ n, (walk load n gs).2 = true → (walk load n gs).1 = gs ∧ (gs.map load).sum < n := by
  induction gs with
  | nil =>
    intro n h
    cases n with
    | zero => cases h
    | succ n => exact ⟨rfl, Nat.succ_pos n⟩
  | cons g gs ih =>
    intro n h
    cases n with
    | zero => cases h
    | succ n =>
      obtain ⟨whole, short⟩ := ih _ h
      refine ⟨congrArg (g :: ·) whole, ?_⟩
      rw [List.map_cons, List.sum_cons]
      omega

theorem walk_enough (gs : List (Fin 32)) :
    ∀ n, (walk load n gs).2 = false → n ≤ ((walk load n gs).1.map load).sum := by
  induction gs with
  | nil =>
    intro n h
    cases n with
    | zero => exact Nat.zero_le _
    | succ n => cases h
  | cons g gs ih =>
    intro n h
    cases n with
    | zero => exact Nat.zero_le _
    | succ n =>
      have enough := ih _ h
      rw [walk_cons, List.map_cons, List.sum_cons]
      omega

/-- Without its last group the walk had found too little. -/
theorem walk_least (gs : List (Fin 32)) :
    ∀ n, (walk load n gs).1 ≠ [] → ((walk load n gs).1.dropLast.map load).sum < n := by
  induction gs with
  | nil =>
    intro n h
    cases n <;> exact absurd rfl h
  | cons g gs ih =>
    intro n h
    cases n with
    | zero => exact absurd rfl h
    | succ n =>
      rw [walk_cons]
      by_cases hr : (walk load (n + 1 - load g) gs).1 = []
      · rw [hr]
        exact Nat.succ_pos n
      · have least := ih _ hr
        rw [List.dropLast_cons_of_ne_nil hr, List.map_cons, List.sum_cons]
        omega

end

/-! ### The load of groups that have yet to open (06 R109) -/

theorem sum_map_filter {α : Type} (p : α → Bool) (f : α → Nat) (l : List α) :
    ((l.filter p).map f).sum = (l.map fun x => if p x = true then f x else 0).sum := by
  induction l with
  | nil => rfl
  | cons x l ih =>
    by_cases h : p x = true
    · rw [List.filter_cons_of_pos h, List.map_cons, List.sum_cons, List.map_cons, List.sum_cons, if_pos h, ih]
    · rw [List.filter_cons_of_neg h, List.map_cons, List.sum_cons, if_neg h, Nat.zero_add, ih]

theorem thirtyTwo_finRange : thirtyTwo = List.finRange 32 := by decide

theorem pendingCredit_sum (s : State) (i : Fin 4) :
    pendingCredit s i =
      ∑ g : Fin 32,
        if groupPresent s g = true ∧ islandOf s (s.conf.groups[g]).sect = some i ∧
            s.shed.groups[g].state = .shedPending then
          (s.prof.active.groups[g]).load
        else 0 := by
  rw [pendingCredit, sum_map_filter, thirtyTwo_finRange, Fin.sum_univ_def]
  refine congrArg List.sum (List.map_congr_left fun g _ => if_congr ?_ rfl rfl)
  rw [Bool.and_eq_true, Bool.and_eq_true, decide_eq_true_iff, decide_eq_true_iff, and_assoc]
  rfl

/-! ### The blackout shed (06 R109) -/

theorem wasAlive_iff (b : State) (x : Fin 4) :
    wasAlive b x = true ↔ ∃ j a, islandOf b x = some j ∧ b.plant.accounts[j] = some a ∧ a.dead = false := by
  unfold wasAlive
  split
  next j hj =>
    split
    next a ha =>
      rw [Bool.not_eq_true']
      refine ⟨fun hd => ⟨j, a, hj, ha, hd⟩, fun ⟨k, c, hk, hc, hd⟩ => ?_⟩
      cases hj.symm.trans hk
      cases ha.symm.trans hc
      exact hd
    next ha =>
      refine ⟨fun h => absurd h Bool.false_ne_true, fun ⟨k, c, hk, hc, hd⟩ => ?_⟩
      cases hj.symm.trans hk
      cases ha.symm.trans hc
  next hj =>
    refine ⟨fun h => absurd h Bool.false_ne_true, fun ⟨k, c, hk, hc, hd⟩ => ?_⟩
    cases hj.symm.trans hk

theorem blackoutIfDead_vacant {b s : State} {i : Fin 4} (h : s.plant.accounts[i] = none) : blackoutIfDead b i s = s := by
  unfold blackoutIfDead
  rw [h]

theorem blackoutIfDead_account {b s : State} {i : Fin 4} {a : Account} (h : s.plant.accounts[i] = some a) :
    blackoutIfDead b i s =
      if s.running = true ∧ a.dead = true ∧ a.sections.any (wasAlive b) = true then blackoutShed i s else s := by
  unfold blackoutIfDead
  rw [h]

theorem anyAlive_iff (b : State) (xs : List (Fin 4)) :
    xs.any (wasAlive b) = true ↔
      ∃ x ∈ xs, ∃ j c, islandOf b x = some j ∧ b.plant.accounts[j] = some c ∧ c.dead = false := by
  rw [List.any_eq_true]
  exact exists_congr fun x => and_congr_right fun _ => wasAlive_iff b x

/-- A notice sent on queues that stand. -/
theorem notify_notices {s t : State} (hl : t.link = s.link) (hg : t.plant.generation = s.plant.generation)
    (k : NoticeKind) (a : Option Nat) (v : Option Int) (l : Link) :
    ((notify k a v t).link.get l).notices = ((s.link.get l).append (newNotice k a v s)).notices := by
  rw [notify_get, hl, newNotice_of hg (congrArg LinkIf.clock hl)]

/-- What a blackout shed leaves. -/
theorem blackoutShed_effect (i : Fin 4) (s : State) :
    let t := blackoutShed i s
    (∀ g ∈ shedOrder s i, t.shed.groups[g] =
      { state := if opensAtOnce s g then .shed else .shedPending, cause := some .blackout,
        confirm := if opensAtOnce s g then none else some s.conf.general.confirmTime, out := true }) ∧
    (∀ g, g ∉ shedOrder s i → t.shed.groups[g] = s.shed.groups[g]) ∧
    (∀ l : Link, (t.link.get l).notices =
      ((s.link.get l).append
        (newNotice .blackoutShed (some i.val) (some ((shedOrder s i).length : Int)) s)).notices) ∧
    t.plant = s.plant ∧ t.shed.dwell = s.shed.dwell ∧ t.share = s.share ∧ t.prof = s.prof := by
  obtain ⟨plant, share, -, -, -, link, prof, -, dwell⟩ := shedAction_rest .blackout (shedOrder s i) s
  have groups := shedAction_groups .blackout (shedOrder s i) s
  refine ⟨fun g hg => (groups g).trans (if_pos hg), fun g hg => (groups g).trans (if_neg hg),
    notify_notices link (congrArg Plant.generation plant) _ _ _, plant, dwell, share, prof⟩

/-! ### The fast shed (06 R107, R108) -/

theorem fastShed_account {s : State} {i : Fin 4} {a : Account} (n : Nat) (h : s.plant.accounts[i] = some a) :
    fastShed i n s =
      if s.running = true ∧ ¬ a.dead = true ∧ 0 < (n : Int) - (a.fast : Int) - (pendingCredit s i : Int) then
        shedSelection .fastShed i ((n : Int) - (a.fast : Int) - (pendingCredit s i : Int)).toNat s
      else s := by
  unfold fastShed
  rw [h]

/-- What a fast shed or a make-up shed leaves. -/
theorem shedSelection_effect {s : State} {i : Fin 4} {a : Account} (k : NoticeKind) (n : Nat)
    (h : s.plant.accounts[i] = some a) :
    let t := shedSelection k i n s
    let w := walk (groupLoad s) n (shedOrder s i)
    (∀ g ∈ w.1, t.shed.groups[g] =
      { state := if opensAtOnce s g then .shed else .shedPending, cause := some .autoFast,
        confirm := if opensAtOnce s g then none else some s.conf.general.confirmTime, out := true }) ∧
    (∀ g, g ∉ w.1 → t.shed.groups[g] = s.shed.groups[g]) ∧
    t.plant.accounts[i] = some { a with shortfall := w.2 } ∧
    (∀ l : Link, (t.link.get l).notices =
      ((s.link.get l).append
        (newNotice k (some (i.val + 4 * w.1.length + if w.2 then 256 else 0)) (some (n : Int)) s)).notices) ∧
    t.shed.dwell = s.shed.dwell ∧ t.share = s.share ∧ t.plant.sets = s.plant.sets ∧ t.prof = s.prof := by
  intro t w
  obtain ⟨plant, share, -, -, -, link, prof, -, dwell⟩ := shedAction_rest .autoFast w.1 s
  have groups := shedAction_groups .autoFast w.1 s
  have account : t.plant.accounts[i] =
      (shedAction .autoFast w.1 s).plant.accounts[i].map fun a => { a with shortfall := w.2 } := by
    refine (get_upd (shedAction .autoFast w.1 s).plant.accounts i i
      fun o => o.map fun a => { a with shortfall := w.2 }).trans (if_pos rfl)
  rw [plant, h] at account
  exact ⟨fun g hg => (groups g).trans (if_pos hg), fun g hg => (groups g).trans (if_neg hg), account,
    notify_notices (t := setShortfall i w.2 (shedAction .autoFast w.1 s)) link
      (congrArg Plant.generation plant :) _ _ _, dwell, share, (congrArg Plant.sets plant :), prof⟩

/-- Settles O26. -/
theorem fastShedTakesTheDeficit : Obligations.FastShedTakesTheDeficit := by
  refine ⟨fun load n order => ⟨walk_prefix load order n, walk_short load order n, walk_enough load order n,
      walk_least load order n⟩,
    fun s g => ⟨opensAtOnce_iff s g, rfl⟩, pendingCredit_sum, fun b i s => ⟨blackoutIfDead_vacant, fun a ha => ?_⟩,
    fun i n a s ha => ?_⟩
  · intro dies
    have account := blackoutIfDead_account (b := b) ha
    have alive := anyAlive_iff b a.sections
    refine ⟨fun h => account.trans (if_neg fun ⟨hr, hd, hx⟩ => h ⟨hr, hd, alive.1 hx⟩), fun ⟨hr, hd, hx⟩ => ?_⟩
    rw [account.trans (if_pos ⟨hr, hd, alive.2 hx⟩)]
    exact blackoutShed_effect i s
  · intro d t
    have account : t = _ := fastShed_account n ha
    refine ⟨fun h => account.trans (if_neg ?_), fun hr hd hp => ?_⟩
    · rintro ⟨hr, hd, hp⟩
      rcases h with h | h | h
      · exact absurd (h.symm.trans hr) Bool.false_ne_true
      · exact hd h
      · exact absurd hp (not_lt.2 h)
    · have amount : (d.toNat : Int) = d := Int.toNat_of_nonneg hp.le
      have effect := shedSelection_effect (s := s) (i := i) .fastShed d.toNat ha
      rw [amount] at effect
      have taken : t = shedSelection .fastShed i d.toNat s :=
        account.trans (if_pos ⟨hr, by rw [hd]; exact Bool.false_ne_true, hp⟩)
      rw [taken]
      exact effect

end Sys2Proof.Machine

/-! The timers of the Shed Controller: confirmations, dwells and restore delays (05 R90, 06 R110 to R116). -/

namespace Sys2Proof.Machine

/-- A notice sent on queues that stand. -/
theorem sends_notify_of {s t : State} (hl : t.link = s.link) (hg : t.plant.generation = s.plant.generation)
    (k : NoticeKind) (a : Option Nat) (v : Option Int) : Sends (newNotice k a v s) s (notify k a v t) := by
  refine sends_of_grows (grows_of_link ?_)
  unfold notify
  rw [newNotice_of hg (congrArg LinkIf.clock hl), hl]

/-! ### Confirm times (05 R90) -/

theorem exec_confirmTimerExpiry {g : Fin 32} {r : Nat} {s : State} (h : s.shed.groups[g].confirm = some r) :
    exec (.confirmTimerExpiry g) s = .next (confirmFails g (elapse r s)) := by
  change execConfirmTimerExpiry g s = _
  rw [execConfirmTimerExpiry, h, onExpiry_some]

/-- A group whose opening was not confirmed. -/
def GroupRt.failed (r : GroupRt) : GroupRt := { r with state := .shedFailed, confirm := none }

/-- The group written, its island's gates tested, the notice sent. -/
def confirmFailed (g : Fin 32) (s : State) : State :=
  notify .shedFailed (some g.val) (s.shed.groups[g].cause.map fun c => (c.code : Int))
    (testGatesOf g (updGroup g GroupRt.failed s))

theorem confirmFails_eq (g : Fin 32) (s : State) :
    confirmFails g s =
      if s.running = true ∧ s.shed.groups[g].cause = some .autoFast then makeUp g (confirmFailed g s)
      else confirmFailed g s := by
  have start : (confirmFailed g s).running = s.running := by
    obtain ⟨-, -, start, -⟩ := testGatesOf_rest g (updGroup g GroupRt.failed s)
    exact running_of start
  rw [← start]
  rfl

theorem confirmFailed_effect (g : Fin 32) (s : State) :
    (confirmFailed g s).shed.groups = upd s.shed.groups g GroupRt.failed ∧ (confirmFailed g s).plant = s.plant ∧
      (confirmFailed g s).prof = s.prof ∧ (confirmFailed g s).conf = s.conf ∧ (confirmFailed g s).start = s.start ∧
      Sends (newNotice .shedFailed (some g.val) (s.shed.groups[g].cause.map fun c => (c.code : Int)) s) s
        (confirmFailed g s) := by
  obtain ⟨plant, -, start, -, -, link, prof, conf, groups, -⟩ := testGatesOf_rest g (updGroup g GroupRt.failed s)
  refine ⟨groups, plant, prof, conf, start, ?_⟩
  exact sends_notify_of link (congrArg Plant.generation plant :) ..

/-- A group that is not CONNECTED is in no selection. -/
theorem not_mem_selection {s : State} {i : Fin 4} {g : Fin 32} {n : Nat} (h : s.shed.groups[g].state ≠ .connected) :
    g ∉ (walk (groupLoad s) n (shedOrder s i)).1 := by
  intro hg
  obtain ⟨-, -, connected, -⟩ := (mem_shedOrder s i g).1 ((walk_prefix _ _ _).subset hg)
  exact h connected

/-- A make-up shed leaves a group that is not CONNECTED as it was. -/
theorem shedSelection_other {s : State} {i : Fin 4} {g : Fin 32} (k : NoticeKind) (n : Nat)
    (h : s.shed.groups[g].state ≠ .connected) : (shedSelection k i n s).shed.groups[g] = s.shed.groups[g] :=
  (shedAction_groups .autoFast _ s g).trans (if_neg (not_mem_selection h))

/-- The end of a confirm time: the group is SHED_FAILED whatever a make-up shed adds. -/
theorem confirmFails_group (g : Fin 32) (s : State) : (confirmFails g s).shed.groups[g] = (s.shed.groups[g]).failed := by
  obtain ⟨groups, -⟩ := confirmFailed_effect g s
  have failed : (confirmFailed g s).shed.groups[g] = (s.shed.groups[g]).failed := by
    rw [groups]
    exact (get_upd ..).trans (if_pos rfl)
  rw [confirmFails_eq]
  split
  · unfold makeUp
    split
    · rw [shedSelection_other _ _ (by rw [failed]; exact nofun), failed]
    · exact failed
  · exact failed

theorem makeUp_island {g : Fin 32} {s : State} {i : Fin 4} (h : groupIsland s g = some i) :
    makeUp g s = shedSelection .makeUpShed i (groupLoad s g) s := by
  unfold makeUp
  rw [h]

theorem grows_afterFailed (g : Fin 32) (s : State) : Grows (confirmFailed g s) (confirmFails g s) := by
  rw [confirmFails_eq]
  split
  · unfold makeUp
    split
    · exact (updates_shedSelection ..).grows
    · exact Grows.refl _
  · exact Grows.refl _

theorem elapse_failed (n : Nat) (s : State) (g : Fin 32) :
    (elapse n s).shed.groups[g].failed = (s.shed.groups[g]).failed := by
  rw [GroupRt.failed, GroupRt.failed, elapse_cause, elapse_out]

/-! ### Restore candidates (06 R114) -/

/-- A cause that automatic restore acts on. -/
def Automatic (s : State) (g : Fin 32) : Prop :=
  s.shed.groups[g].cause = some .autoFast ∨ s.shed.groups[g].cause = some .autoSlow ∨
    s.shed.groups[g].cause = some .blackout

/-- The test of `restoreCandidate`. -/
def isAutomatic (s : State) (g : Fin 32) : Bool :=
  match s.shed.groups[g].cause with
  | some c => c.automatic
  | none => false

theorem isAutomatic_iff (s : State) (g : Fin 32) : isAutomatic s g = true ↔ Automatic s g := by
  unfold Automatic isAutomatic
  cases s.shed.groups[g].cause with
  | none => simp
  | some c => cases c <;> simp [ShedCause.automatic]

theorem restoreCandidate_eq (s : State) (i : Fin 4) :
    restoreCandidate s i = (restoreOrder s i).find? (isAutomatic s) := rfl

theorem restoreCandidate_none (s : State) (i : Fin 4) :
    restoreCandidate s i = none ↔ ∀ g ∈ restoreOrder s i, ¬ Automatic s g := by
  rw [restoreCandidate_eq, List.find?_eq_none]
  exact forall_congr' fun g => imp_congr_right fun _ => not_congr (isAutomatic_iff s g)

theorem restoreCandidate_some (s : State) (i : Fin 4) (g : Fin 32) :
    restoreCandidate s i = some g ↔
      ∃ before after, restoreOrder s i = before ++ g :: after ∧ Automatic s g ∧ ∀ h ∈ before, ¬ Automatic s h := by
  have passed (h : Fin 32) : (!isAutomatic s h) = true ↔ ¬ Automatic s h := by
    rw [Bool.not_eq_true', Bool.eq_false_iff, Ne, isAutomatic_iff]
  simp only [restoreCandidate_eq, List.find?_eq_some_iff_append, isAutomatic_iff, passed]
  constructor
  · rintro ⟨hg, before, after, order, none⟩
    exact ⟨before, after, order, hg, none⟩
  · rintro ⟨before, after, order, hg, none⟩
    exact ⟨hg, before, after, order, none⟩

/-! ### Restore delays (06 R116) -/

theorem exec_restoreDelayExpiry {i : Fin 4} {r : Nat} {s : State} (h : s.shed.restore[i] = some r) :
    exec (.restoreDelayExpiry i) s = .next (restoreEnds i (elapse r s)) := by
  change execRestoreDelayExpiry i s = _
  rw [execRestoreDelayExpiry, h, onExpiry_some]

theorem restoreEnds_fails {i : Fin 4} {s : State} (h : gatesHold s i = false) : restoreEnds i s = cancelRestore i s := by
  unfold restoreEnds
  dsimp only
  split
  · exact if_neg (by rw [show gatesHold (cancelRestore i s) i = gatesHold s i from rfl, h]; exact Bool.false_ne_true)
  · rfl

/-- The candidate connected, and its notice sent. -/
def restored (i : Fin 4) (g : Fin 32) (s : State) : State :=
  notify .restored (some g.val) (some 1) (connectGroup g (cancelRestore i s))

theorem restoreEnds_holds {i : Fin 4} {g : Fin 32} {s : State} (h : gatesHold s i = true)
    (hc : restoreCandidate s i = some g) : restoreEnds i s = startRestore i (restored i g s) := by
  unfold restoreEnds
  dsimp only
  rw [show restoreCandidate (cancelRestore i s) i = some g from hc]
  exact if_pos h

theorem restored_rest (i : Fin 4) (g : Fin 32) (s : State) :
    (restored i g s).plant = s.plant ∧ (restored i g s).prof = s.prof ∧
      (restored i g s).shed.dwell = s.shed.dwell ∧
      Sends (newNotice .restored (some g.val) (some 1) s) s (restored i g s) := by
  obtain ⟨plant, -, -, -, -, link, prof, -, -, dwell, -⟩ := testGatesOf_rest g
    (updGroup g (fun _ => { state := .connected, cause := none, confirm := none, out := false }) (cancelRestore i s))
  exact ⟨plant, prof, dwell, sends_notify_of link (congrArg Plant.generation plant :) ..⟩

/-- No delay runs after the candidate is connected, until the gates start one. -/
theorem restored_restore (i : Fin 4) (g : Fin 32) (s : State) : (restored i g s).shed.restore[i] = none := by
  have cancelled : (cancelRestore i s).shed.restore[i] = none := (get_put ..).trans (if_pos rfl)
  refine (connectGroup_restore g i (cancelRestore i s)).trans ?_
  rw [cancelled]
  exact ite_self _

theorem startRestore_changes (i : Fin 4) (s : State) :
    startRestore i s = { s with shed.restore := (startRestore i s).shed.restore } := by
  unfold startRestore
  split <;> rfl

theorem startRestore_from {i : Fin 4} {s : State} (h : s.shed.restore[i] = none) :
    (startRestore i s).shed.restore[i] = if gatesHold (startRestore i s) i then some (settings s).restoreDelay else none := by
  have gates : gatesHold (startRestore i s) i = gatesHold s i := by
    rw [startRestore_changes]
    rfl
  rw [gates]
  by_cases hg : gatesHold s i = true
  · rw [if_pos hg, startRestore, if_pos ⟨hg, h⟩]
    exact (get_put ..).trans (if_pos rfl)
  · rw [if_neg hg, startRestore, if_neg fun k => hg k.1, h]

/-- Settles O29. -/
theorem confirmAndRestoreTimers : Obligations.ConfirmAndRestoreTimers := by
  refine ⟨fun g r s h => ?_, fun i s => ⟨restoreCandidate_none s i, restoreCandidate_some s i⟩,
    fun i s => gatesHold_iff s i, fun scan i s hr ha => shedUpdate_restore hr ha,
    fun c gs g i s => ⟨shedAction_restore c gs i s, connectGroup_restore g i s⟩, fun i r s h => ⟨fun g hg hc => ?_, fun hg => ?_⟩⟩
  · have running : (elapse r s).running = s.running := running_of (elapse_start r s)
    have cause : (elapse r s).shed.groups[g].cause = s.shed.groups[g].cause := elapse_cause r s g
    have island : groupIsland (elapse r s) g = groupIsland s g := by
      rw [groupIsland, groupIsland, elapse_conf, islandOf_of (elapse_partition r s)]
    have failed : (elapse r s).shed.groups[g].failed = (s.shed.groups[g]).failed := elapse_failed r s g
    obtain ⟨groups, plant, prof, conf, start, sent⟩ := confirmFailed_effect g (elapse r s)
    have split := confirmFails_eq g (elapse r s)
    rw [running, cause] at split
    rw [cause] at sent
    refine ⟨_, exec_confirmTimerExpiry h, (confirmFails_group g _).trans failed, sent.grows (grows_afterFailed g _),
      fun hn => ?_, fun i hr hc hi => ⟨confirmFailed g (elapse r s), ?_, groups, plant, prof.trans (elapse_prof r s)⟩⟩
    · have alone : ¬ (s.running = true ∧ s.shed.groups[g].cause = some .autoFast) := by
        rintro ⟨hr, hc⟩
        rcases hn with hn | hn
        · exact absurd (hn.symm.trans hr) Bool.false_ne_true
        · exact hn hc
      rw [split, if_neg alone, groups, plant]
      exact ⟨fun k hk => get_upd_ne _ (Ne.symm hk) _, rfl⟩
    · have at_island : groupIsland (confirmFailed g (elapse r s)) g = some i := by
        rw [← hi, ← island, groupIsland, groupIsland, conf, islandOf_of (congrArg Plant.partition plant)]
      have load : groupLoad (confirmFailed g (elapse r s)) = groupLoad s :=
        funext fun k => by rw [groupLoad, groupLoad, prof, elapse_prof]
      rw [split, if_pos ⟨hr, hc⟩, makeUp_island at_island, load]
  · obtain ⟨plant, prof, dwell, sent⟩ := restored_rest i g (elapse r s)
    have groups (k : Fin 32) : (restored i g (elapse r s)).shed.groups[k] = _ :=
      connectGroup_groups g k (cancelRestore i (elapse r s))
    have none := restored_restore i g (elapse r s)
    have started := startRestore_from none
    rw [settings_of (prof.trans (elapse_prof r s))] at started
    refine ⟨_, (exec_restoreDelayExpiry h).trans (congrArg Host.Outcome.next (restoreEnds_holds hg hc)), ?_⟩
    refine ⟨?_, fun k hk => ?_, sent.grows (grows_of_link ?_), started, ?_, ?_, ?_⟩
    all_goals rw [startRestore_changes]
    · exact (groups g).trans (if_pos rfl)
    · exact (groups k).trans (if_neg (Ne.symm hk))
    · exact plant
    · exact dwell
    · exact prof.trans (elapse_prof r s)
  · exact (exec_restoreDelayExpiry h).trans (congrArg Host.Outcome.next (restoreEnds_fails hg))

end Sys2Proof.Machine

/-! The dwell timers (06 R110 to R113). -/

namespace Sys2Proof.Machine

/-! ### What an account update makes of a dwell (06 R110 to R112) -/

section
variable {w : Settings} {loaded under active : Bool} {d : Dwell}

theorem dwellNext_neither (ho : loaded = false) (hu : under = false) : dwellNext w loaded under active d = Dwell.idle := by
  rw [dwellNext, ho, hu]
  rfl

theorem dwellNext_under_idle (hu : under = true) (hd : d.state = .idle) : dwellNext w loaded under active d = startUnder w := by
  rw [dwellNext, if_neg (not_not.2 (Or.inr hu)), hd]
  exact if_pos hu

theorem dwellNext_over_idle (ho : loaded = true) (hu : under = false) (hd : d.state = .idle) :
    dwellNext w loaded under active d = startOver w active := by
  rw [dwellNext, if_neg (not_not.2 (Or.inl ho)), hd]
  exact if_neg (by rw [hu]; exact Bool.false_ne_true)

theorem dwellNext_under (hu : under = true) (hd : d.state ≠ .idle) :
    dwellNext w loaded under active d =
      if d.kind = some .underfrequency then d
      else { state := .running, kind := some .underfrequency, remaining := min d.remaining w.underDwell } := by
  rw [dwellNext, if_neg (not_not.2 (Or.inr hu))]
  cases hs : d.state with
  | idle => exact absurd hs hd
  | running => exact if_pos hu
  | frozen => exact if_pos hu

theorem dwellNext_over (ho : loaded = true) (hu : under = false) (hd : d.state ≠ .idle) :
    dwellNext w loaded under active d =
      { state := allowanceState active, kind := some .overload, remaining := d.remaining } := by
  have stays : ¬ under = true := by rw [hu]; exact Bool.false_ne_true
  rw [dwellNext, if_neg (not_not.2 (Or.inl ho))]
  cases hs : d.state with
  | idle => exact absurd hs hd
  | running => exact if_neg stays
  | frozen => exact if_neg stays

theorem dwellAllow_freezes (hd : d.state = .running) (hk : d.kind = some .overload) (ha : active = true) :
    dwellAllow active d = { d with state := .frozen } := by
  rw [dwellAllow, hd]
  exact if_pos ⟨hk, ha⟩

theorem dwellAllow_thaws (hd : d.state = .frozen) (ha : active = false) :
    dwellAllow active d = { d with state := .running } := by
  rw [dwellAllow, hd]
  exact if_neg (by rw [ha]; exact Bool.false_ne_true)

theorem dwellAllow_stands
    (h : d.state = .idle ∨ d.state = .running ∧ (d.kind ≠ some .overload ∨ active = false) ∨
      d.state = .frozen ∧ active = true) : dwellAllow active d = d := by
  rcases h with h | ⟨h, hn⟩ | ⟨h, ha⟩
  · rw [dwellAllow, h]
  · rw [dwellAllow, h]
    refine if_neg fun ⟨hk, ha⟩ => ?_
    rcases hn with hn | hn
    · exact hn hk
    · exact absurd (hn.symm.trans ha) Bool.false_ne_true
  · rw [dwellAllow, h]
    exact if_pos ha

end

theorem under_iff (s : State) (a : Account) :
    a.under s = true ↔
      ∃ f, a.freq = some f ∧ (f : Int) < (s.conf.general.nominal : Int) - ((settings s).underOffset : Int) := by
  unfold Account.under underPart
  cases a.freq with
  | none => simp
  | some f => simp

theorem overload_iff (a : Account) : a.overload = true ↔ a.cap < a.load := decide_eq_true_iff

theorem activePresent_iff (s : State) (i : Fin 4) :
    activePresent s i = true ↔ ∃ e ∈ s.resv.queue, e.state = .active ∧ e.island s = some i := by
  rw [activePresent, Bool.not_eq_true', List.isEmpty_eq_false_iff_exists_mem]
  exact exists_congr fun e => mem_entriesOf

/-! ### The end of a dwell (06 R113) -/

theorem exec_dwellExpiry {i : Fin 4} {s : State} (h : s.shed.dwell[i].state = .running) :
    exec (.dwellExpiry i) s = .next (dwellEnds i (elapse s.shed.dwell[i].remaining s)) := by
  change execDwellExpiry i s = _
  rw [execDwellExpiry, Dwell.timer, if_pos h, onExpiry_some]

theorem shedOrder_elapse (n : Nat) (s : State) (i : Fin 4) : shedOrder (elapse n s) i = shedOrder s i := by
  have same : groupAt (elapse n s) i .connected = groupAt s i .connected := by
    funext lv g
    rw [groupAt, groupAt, groupPresent_of (elapse_conf n s) (congrArg Startup.adopted (elapse_start n s)), groupIsland,
      groupIsland, islandOf_of (elapse_partition n s), elapse_conf, elapse_groupState, groupLevel, groupLevel, elapse_prof]
  rw [shedOrder, shedOrder, same]

/-- Time passing ends no reservation. -/
theorem elapse_queue (n : Nat) (s : State) : ∃ m : Nat, (elapse n s).resv.queue =
    s.resv.queue.map fun e => { e with remaining := e.remaining - m } := by
  unfold elapse
  split
  · exact ⟨n, rfl⟩
  · exact ⟨0, (List.map_id' _).symm⟩

theorem activePresent_elapse (n : Nat) (s : State) (i : Fin 4) : activePresent (elapse n s) i = activePresent s i := by
  obtain ⟨m, queue⟩ := elapse_queue n s
  rw [Bool.eq_iff_iff, activePresent_iff, activePresent_iff, queue]
  constructor
  · rintro ⟨e, he, hs, hi⟩
    obtain ⟨f, hf, rfl⟩ := List.mem_map.1 he
    exact ⟨f, hf, hs, (island_of (elapse_partition n s) _).symm.trans hi⟩
  · rintro ⟨e, he, hs, hi⟩
    exact ⟨_, List.mem_map.2 ⟨e, he, rfl⟩, hs, (island_of (elapse_partition n s) _).trans hi⟩

theorem under_elapse (n : Nat) (s : State) (a : Account) : a.under (elapse n s) = a.under s := by
  rw [Account.under, Account.under, elapse_conf, settings_of (elapse_prof n s)]

/-- The dwell that starts again where a shed condition stands at the end of one. -/
def dwellAgain (s : State) (i : Fin 4) (a : Account) : Dwell :=
  if a.under s then startUnder (settings s) else startOver (settings s) (activePresent s i)

section
variable {i : Fin 4} {a : Account} {s : State}

theorem slowShed_iff (s : State) (a : Account) : a.slowShed s = true ↔ a.cap < a.load ∨ a.under s = true := by
  rw [Account.slowShed, Bool.or_eq_true, overload_iff]

theorem dwellEnds_idle (ha : s.plant.accounts[i] = some a) (h : a.slowShed s = false) :
    dwellEnds i s = setDwell i Dwell.idle s := by
  unfold dwellEnds
  rw [ha]
  exact if_neg (by rw [h]; exact Bool.false_ne_true)

theorem dwellEnds_none (ha : s.plant.accounts[i] = some a) (h : a.slowShed s = true) (ho : shedOrder s i = []) :
    dwellEnds i s =
      setDwell i (dwellAgain s i a) (notify .slowShed none (some (slowValue a.overload (a.under s))) s) := by
  unfold dwellEnds
  rw [ha, ho]
  exact if_pos h

theorem dwellEnds_sheds {g : Fin 32} {rest : List (Fin 32)} (ha : s.plant.accounts[i] = some a)
    (h : a.slowShed s = true) (ho : shedOrder s i = g :: rest) :
    dwellEnds i s =
      setDwell i (dwellAgain s i a)
        (notify .slowShed (some g.val) (some (slowValue a.overload (a.under s))) (shedAction .autoSlow [g] s)) := by
  unfold dwellEnds
  rw [ha, ho]
  exact if_pos h

end

/-- Settles O30. -/
theorem dwellExpirySheds : Obligations.DwellExpirySheds := by
  refine ⟨fun scan i a s ha => ?_, fun i a s hd ha => ?_⟩
  · intro t w d loaded low active dwells
    refine ⟨fun hr => if_neg (by rw [hr]; exact Bool.false_ne_true), fun hr => ?_⟩
    obtain ⟨dwell, groups, plant, resv, link⟩ := shedUpdate_dwell (scan := scan) hr ha
    have over_true (h : loaded) : a.overload = true := (overload_iff a).2 h
    have over_false (h : ¬ loaded) : a.overload = false := Bool.eq_false_iff.2 fun k => h ((overload_iff a).1 k)
    have under_true (h : low) : a.under s = true := (under_iff s a).2 h
    have under_false (h : ¬ low) : a.under s = false := Bool.eq_false_iff.2 fun k => h ((under_iff s a).1 k)
    have active_true (h : active) : activePresent s i = true := (activePresent_iff s i).2 h
    have active_false (h : ¬ active) : activePresent s i = false :=
      Bool.eq_false_iff.2 fun k => h ((activePresent_iff s i).1 k)
    have self : t.shed.dwell[i] = _ := (congrArg (fun v : Vector Dwell 4 => v[i]) dwell).trans
      ((get_put ..).trans (if_pos rfl))
    refine ⟨fun hs => ?_, fun hs => ?_, fun j hj => (congrArg (fun v : Vector Dwell 4 => v[j]) dwell).trans
      (get_put_ne _ (Ne.symm hj) _), groups, plant, resv, link⟩
    · rw [if_pos hs] at self
      refine ⟨fun ho hl => self.trans (dwellNext_neither (over_false ho) (under_false hl)),
        fun hl hi => self.trans (dwellNext_under_idle (under_true hl) hi),
        fun hl hi hk => self.trans ((dwellNext_under (under_true hl) hi).trans (if_pos hk)),
        fun hl hi hk => self.trans ((dwellNext_under (under_true hl) hi).trans (if_neg hk)),
        fun ho hl hi => ?_, fun ho hl hi => ?_⟩
      · have starts := self.trans (dwellNext_over_idle (over_true ho) (under_false hl) hi)
        exact ⟨fun k => starts.trans (by rw [active_true k]; rfl), fun k => starts.trans (by rw [active_false k]; rfl)⟩
      · have runs := self.trans (dwellNext_over (over_true ho) (under_false hl) hi)
        exact ⟨fun k => runs.trans (by rw [active_true k]; rfl), fun k => runs.trans (by rw [active_false k]; rfl)⟩
    · rw [if_neg (by rw [hs]; exact Bool.false_ne_true)] at self
      refine ⟨fun h hk k => self.trans (dwellAllow_freezes h hk (active_true k)),
        fun h k => self.trans (dwellAllow_thaws h (active_false k)), fun h => self.trans (dwellAllow_stands ?_)⟩
      rcases h with h | ⟨h, hk | k⟩ | ⟨h, k⟩
      · exact Or.inl h
      · exact Or.inr (Or.inl ⟨h, Or.inl hk⟩)
      · exact Or.inr (Or.inl ⟨h, Or.inr (active_false k)⟩)
      · exact Or.inr (Or.inr ⟨h, active_true k⟩)
  · intro p w value again
    have account : p.plant.accounts[i] = some a := by rw [elapse_accounts]; exact ha
    have order : shedOrder p i = shedOrder s i := shedOrder_elapse _ s i
    have under : a.under p = a.under s := under_elapse _ s a
    have value_eq : slowValue a.overload (a.under p) = value := by
      rw [under, slowValue]
      exact congrArg (· + _) (if_congr (overload_iff a) rfl rfl)
    have again_eq : dwellAgain p i a = again := by
      rw [dwellAgain, under, activePresent_elapse, settings_of (elapse_prof _ s)]
      rfl
    refine ⟨fun ho hu => ?_, fun h => ?_⟩
    · refine (exec_dwellExpiry hd).trans (congrArg Host.Outcome.next (dwellEnds_idle account ?_))
      rw [Bool.eq_false_iff, Ne, slowShed_iff, under, hu]
      rintro (k | k)
      · exact ho k
      · cases k
    · have slow : a.slowShed p = true := (slowShed_iff p a).2 (by rwa [under])
      refine ⟨fun hn => ?_, fun g rest hg => ?_⟩
      · rw [exec_dwellExpiry hd, dwellEnds_none account slow (order.trans hn), value_eq, again_eq]
      · rw [exec_dwellExpiry hd, dwellEnds_sheds account slow (order.trans hg), value_eq, again_eq]

end Sys2Proof.Machine

/-! The Measurement Scanner: readings, section frequencies and the synchronising channels (02). -/

namespace Sys2Proof.Machine

/-! ### Readings (02 R28 to R32) -/

/-- The value a code stands for. -/
def kwOf (fs code : Nat) : Nat := if code ≤ 818 then 0 else if code ≤ 4049 then (code - 819) * fs / 3276 else fs

theorem kwSample_broken {fs code : Nat} (h : code ≤ 736) : kwSample fs code = none := if_pos h

theorem kwSample_value {fs code : Nat} (h : 737 ≤ code) : kwSample fs code = some (kwOf fs code) := by
  rw [kwSample, if_neg (by omega), kwOf]
  split
  · rfl
  · split <;> rfl

theorem kwOf_le (fs code : Nat) : kwOf fs code ≤ fs := by
  unfold kwOf
  split
  · exact Nat.zero_le fs
  · split
    · have scale : (code - 819) * fs ≤ 3276 * fs := Nat.mul_le_mul_right fs (by omega)
      exact Nat.div_le_of_le_mul scale
    · exact Nat.le_refl fs

theorem pushSample_eq (w : List Nat) (v : Nat) : pushSample w v = (w ++ [v]).drop (w.length + 1 - 4) := by
  rw [pushSample, List.length_append, List.length_singleton]

theorem wireBreak_used {c : KwChan} (h : c.validity ≠ .unused) :
    c.wireBreak =
      { window := [], validity := .invalid, value := if c.validity = .pending then 0 else c.value, overrange := false } := by
  rw [KwChan.wireBreak]
  cases hv : c.validity with
  | unused => exact absurd hv h
  | valid => rfl
  | pending => rfl
  | invalid => rfl

/-- A sample takes its place in the window of a channel in use. -/
theorem sample_window {c : KwChan} (v : Nat) (high : Bool) (h : c.validity ≠ .unused) :
    (c.sample v high).window = pushSample c.window v ∧ (c.sample v high).overrange = high := by
  rw [KwChan.sample]
  cases hv : c.validity with
  | unused => exact absurd hv h
  | valid => exact ⟨rfl, rfl⟩
  | pending => exact ⟨rfl, rfl⟩
  | invalid =>
    dsimp only
    split <;> exact ⟨rfl, rfl⟩

section
variable {c : KwChan} {v : Nat} {high : Bool}

theorem sample_pending (h : c.validity = .pending) :
    (c.sample v high).validity = .valid ∧ (c.sample v high).value = v := by
  rw [KwChan.sample, h]
  exact ⟨rfl, rfl⟩

theorem sample_valid (h : c.validity = .valid) :
    (c.sample v high).validity = .valid ∧ (c.sample v high).value = meanOf (pushSample c.window v) := by
  rw [KwChan.sample, h]
  exact ⟨rfl, rfl⟩

theorem sample_recovers (h : c.validity = .invalid) (hw : (pushSample c.window v).length = 4) :
    (c.sample v high).validity = .valid ∧ (c.sample v high).value = meanOf (pushSample c.window v) := by
  rw [KwChan.sample, h]
  dsimp only
  rw [if_pos hw]
  exact ⟨rfl, rfl⟩

theorem sample_waits (h : c.validity = .invalid) (hw : (pushSample c.window v).length ≠ 4) :
    (c.sample v high).validity = .invalid ∧ (c.sample v high).value = c.value := by
  rw [KwChan.sample, h]
  dsimp only
  rw [if_neg hw]
  exact ⟨rfl, rfl⟩

end

theorem take_broken {fs code : Nat} (c : KwChan) (h : code ≤ 736) : c.take fs code = c.wireBreak := by
  rw [KwChan.take, kwSample_broken h]

theorem take_value {fs code : Nat} (c : KwChan) (h : 737 ≤ code) :
    c.take fs code = c.sample (kwOf fs code) (decide (4050 ≤ code)) := by
  rw [KwChan.take, kwSample_value h]

/-- Settles O31. -/
theorem kwCodeMovesReading : Obligations.KwCodeMovesReading := by
  intro fs code c hc
  dsimp only
  refine ⟨fun h => (take_broken c h).trans (wireBreak_used hc), fun h => ?_⟩
  rw [take_value c h]
  obtain ⟨window, overrange⟩ := sample_window (kwOf fs code) (decide (4050 ≤ code)) hc
  refine ⟨window.trans (pushSample_eq _ _), kwOf_le fs code, overrange, sample_pending, fun hv => ?_, fun hv hw => ?_,
    fun hv hw => ?_⟩
  · rw [window]
    exact sample_valid hv
  · rw [window] at hw ⊢
    obtain ⟨valid, value⟩ := sample_recovers (high := decide (4050 ≤ code)) hv hw
    exact ⟨valid, value.trans (by rw [meanOf, hw])⟩
  · rw [window] at hw
    exact sample_waits hv hw

/-! ### Section frequencies (02 R34 to R36) -/

theorem pushCrossing_eq (r : List Nat) (t : Nat) : pushCrossing r t = (r ++ [t]).drop (r.length + 1 - 9) := by
  rw [pushCrossing, List.length_append, List.length_singleton]

theorem freqOf_span {n : Nat} (h : 0 < n) : freqOf n = 8000000000 / n := if_neg h.ne'

theorem freqOk_iff (f : Nat) : freqOk f = true ↔ 40000 ≤ f ∧ f ≤ 70000 := by
  rw [freqOk, Bool.and_eq_true, decide_eq_true_iff, decide_eq_true_iff]
  exact Iff.rfl

section
variable {c : SectChan} {loss time : Nat}

theorem crossing_loss : (c.crossing loss time).loss = some loss ∧ (c.crossing loss time).live = c.live := by
  unfold SectChan.crossing
  dsimp only
  split
  · split <;> exact ⟨rfl, rfl⟩
  · exact ⟨rfl, rfl⟩

theorem crossing_fills (h : (pushCrossing c.record time).length ≠ 9) :
    c.crossing loss time = { c with record := pushCrossing c.record time, loss := some loss } := if_neg h

theorem crossing_counts (h : (pushCrossing c.record time).length = 9)
    (hf : freqOk (freqOf (spanOf (pushCrossing c.record time))) = true) :
    c.crossing loss time =
      { c with
        record := pushCrossing c.record time, loss := some loss, value := freqOf (spanOf (pushCrossing c.record time)),
        valid := c.valid || decide (c.live = .live) } := (if_pos h).trans (if_pos hf)

theorem crossing_discards (h : (pushCrossing c.record time).length = 9)
    (hf : freqOk (freqOf (spanOf (pushCrossing c.record time))) = false) :
    c.crossing loss time = { c with record := [], loss := some loss, valid := false } :=
  (if_pos h).trans (if_neg (by rw [hf]; exact Bool.false_ne_true))

/-- A crossing that makes a frequency valid has given it. -/
theorem crossing_gains (hc : c.valid = false) (hd : (c.crossing loss time).valid = true) :
    (c.crossing loss time).value = freqOf (spanOf (pushCrossing c.record time)) := by
  by_cases h : (pushCrossing c.record time).length = 9
  · cases hf : freqOk (freqOf (spanOf (pushCrossing c.record time))) with
    | true => rw [crossing_counts h hf]
    | false =>
      rw [crossing_discards h hf] at hd
      cases hd
  · rw [crossing_fills h] at hd
    exact absurd (hc.symm.trans hd) Bool.false_ne_true

end

/-! ### A section's channel replaced (02 R35, R36) -/

/-- FREQ_VALID or FREQ_INVALID changes the queues alone. -/
theorem freqNotice_changes (x : Fin 4) (n : Int) (c d : SectChan) (s : State) :
    freqNotice x n c d s = { s with link := (freqNotice x n c d s).link } := by
  unfold freqNotice
  split
  · rfl
  · split <;> rfl

/-- The channel of section `x` with the frequency that the Plant Image takes from it. -/
def sectTaken (x : Fin 4) (d : SectChan) (s : State) : State :=
  { s with scan.sect := put s.scan.sect x d, plant.freq := put s.plant.freq x d.freq }

section
variable {x : Fin 4} {cause : Int} {d : SectChan} {s : State}

theorem setSect_same (h : s.scan.sect[x].valid = d.valid) :
    setSect x cause d s = { s with scan.sect := put s.scan.sect x d } := if_pos h

theorem setSect_moves (h : s.scan.sect[x].valid ≠ d.valid) :
    setSect x cause d s = updateAt s x (freqNotice x cause s.scan.sect[x] d (sectTaken x d s)) := if_neg h

theorem setSect_sect (y : Fin 4) : (setSect x cause d s).scan.sect[y] = if x = y then d else s.scan.sect[y] := by
  have written : (put s.scan.sect x d)[y] = if x = y then d else s.scan.sect[y] := get_put ..
  by_cases h : s.scan.sect[x].valid = d.valid
  · rw [setSect_same h]
    exact written
  · obtain ⟨⟨-, -, -, ⟨scan, -⟩, -⟩, -⟩ :=
      updates_updateAt s x (freqNotice x cause s.scan.sect[x] d (sectTaken x d s))
    rw [setSect_moves h, scan, freqNotice_changes]
    exact written

/-- A frequency that becomes valid is taken and notified. -/
theorem setSect_gains (hc : s.scan.sect[x].valid = false) (hd : d.valid = true) :
    (setSect x cause d s).plant.freq[x] = some d.value ∧
      Sends (newNotice .freqValid (some x.val) (some (d.value : Int)) s) s (setSect x cause d s) := by
  have moved : s.scan.sect[x].valid ≠ d.valid := by rw [hc, hd]; exact Bool.false_ne_true
  have notice : freqNotice x cause s.scan.sect[x] d (sectTaken x d s) =
      notify .freqValid (some x.val) (some (d.value : Int)) (sectTaken x d s) := by
    rw [freqNotice, if_neg (fun h => Bool.false_ne_true (hc.symm.trans h.1)),
      if_pos ⟨by rw [hc]; exact Bool.false_ne_true, hd⟩]
  have updates := updates_updateAt s x (notify .freqValid (some x.val) (some (d.value : Int)) (sectTaken x d s))
  rw [setSect_moves moved, notice]
  refine ⟨?_, (sends_notify .freqValid (some x.val) (some (d.value : Int)) (sectTaken x d s)).grows updates.grows⟩
  obtain ⟨⟨-, ⟨-, -, freq⟩, -⟩, -⟩ := updates
  have written : (put s.plant.freq x d.freq)[x] = some d.value :=
    (get_put ..).trans ((if_pos rfl).trans (if_pos hd))
  rw [freq]
  exact written

/-- A frequency that ceases to be valid is dropped and notified. -/
theorem setSect_loses (hc : s.scan.sect[x].valid = true) (hd : d.valid = false) :
    (setSect x cause d s).plant.freq[x] = none ∧
      Sends (newNotice .freqInvalid (some x.val) (some cause) s) s (setSect x cause d s) := by
  have moved : s.scan.sect[x].valid ≠ d.valid := by rw [hc, hd]; exact Bool.false_ne_true.symm
  have notice : freqNotice x cause s.scan.sect[x] d (sectTaken x d s) =
      notify .freqInvalid (some x.val) (some cause) (sectTaken x d s) := by
    rw [freqNotice, if_pos ⟨hc, by rw [hd]; exact Bool.false_ne_true⟩]
  have updates := updates_updateAt s x (notify .freqInvalid (some x.val) (some cause) (sectTaken x d s))
  rw [setSect_moves moved, notice]
  refine ⟨?_, (sends_notify .freqInvalid (some x.val) (some cause) (sectTaken x d s)).grows updates.grows⟩
  obtain ⟨⟨-, ⟨-, -, freq⟩, -⟩, -⟩ := updates
  have written : (put s.plant.freq x d.freq)[x] = none :=
    (get_put ..).trans ((if_pos rfl).trans (if_neg (by rw [hd]; exact Bool.false_ne_true)))
  rw [freq]
  exact written

end

/-- Time passing moves the loss timer of a section's channel alone. -/
theorem elapse_sect (n : Nat) (s : State) (x : Fin 4) :
    (elapse n s).scan.sect[x] = { s.scan.sect[x] with loss := ((elapse n s).scan.sect[x]).loss } := by
  unfold elapse
  split
  · simp only [get_tab]
  · rfl

theorem elapse_valid (n : Nat) (s : State) (x : Fin 4) :
    (elapse n s).scan.sect[x].valid = s.scan.sect[x].valid := by rw [elapse_sect]

theorem elapse_lost (n : Nat) (s : State) (x : Fin 4) :
    ((elapse n s).scan.sect[x]).lost = { s.scan.sect[x] with record := [], valid := false, loss := none } := by
  rw [elapse_sect]
  rfl

theorem exec_sectionCrossing {x : Fin 4} {time : Nat} {s : State} (hs : s.started = true) (hp : sectPresent s x = true) :
    exec (.sectionCrossing x time) s =
      .next (setSect x 2 ((s.scan.sect[x]).crossing s.conf.general.lossTime time) s) :=
  congrArg Host.Outcome.next (if_pos ⟨hs, hp⟩)

/-- Settles O33. -/
theorem sectionFrequencies : Obligations.SectionFrequencies := by
  refine ⟨fun x time s hs hp => ?_, fun n => freqOf_span, fun x time s h => ?_, fun x r s h => ?_⟩
  · have full : pushCrossing s.scan.sect[x].record time = _ := pushCrossing_eq _ _
    intro c
    dsimp only
    rw [← full]
    have sect := setSect_sect (x := x) (cause := 2) (d := c.crossing s.conf.general.lossTime time) (s := s)
    have self := (sect x).trans (if_pos rfl)
    obtain ⟨loss, live⟩ := crossing_loss (c := c) (loss := s.conf.general.lossTime) (time := time)
    refine ⟨_, exec_sectionCrossing hs hp, ?_⟩
    rw [self]
    refine ⟨loss, live, fun h => ?_, fun h h1 h2 => ?_, fun h hf => ?_, fun y hy => (sect y).trans (if_neg (Ne.symm hy)),
      fun h => ?_, fun h1 h2 => ?_, fun h1 h2 => setSect_loses h1 h2⟩
    · rw [crossing_fills h]
      exact ⟨rfl, rfl⟩
    · rw [crossing_counts h ((freqOk_iff _).2 ⟨h1, h2⟩)]
      exact ⟨rfl, rfl, rfl⟩
    · have range : freqOk (freqOf (spanOf (pushCrossing c.record time))) = false := by
        rw [Bool.eq_false_iff, Ne, freqOk_iff]
        rintro ⟨h1, h2⟩
        rcases hf with hf | hf
        · exact absurd h1 (not_le.2 hf)
        · exact absurd h2 (not_le.2 hf)
      rw [crossing_discards h range]
      exact ⟨rfl, rfl⟩
    · rw [setSect_same h.symm]
      exact ⟨rfl, rfl⟩
    · have gains := setSect_gains (cause := 2) h1 h2
      rw [crossing_gains h1 h2] at gains
      exact gains
  · refine congrArg Host.Outcome.next (if_neg ?_)
    rintro ⟨hs, hp⟩
    rcases h with h | h
    · exact absurd (h.symm.trans hs) Bool.false_ne_true
    · exact absurd (h.symm.trans hp) Bool.false_ne_true
  · intro p
    have run : exec (.sectionLossTimerExpiry x) s = .next (setSect x 1 (p.scan.sect[x]).lost p) := by
      change execSectionLossTimerExpiry x s = _
      rw [execSectionLossTimerExpiry, h, onExpiry_some]
    have sect := setSect_sect (x := x) (cause := 1) (d := (p.scan.sect[x]).lost) (s := p)
    have lost : (p.scan.sect[x]).lost = { s.scan.sect[x] with record := [], valid := false, loss := none } :=
      elapse_lost r s x
    have valid : p.scan.sect[x].valid = s.scan.sect[x].valid := elapse_valid r s x
    refine ⟨_, run, ((sect x).trans (if_pos rfl)).trans lost, fun y hy => (sect y).trans (if_neg (Ne.symm hy)),
      fun hv => setSect_loses (valid.trans hv) rfl, fun hv => ?_⟩
    rw [setSect_same (valid.trans hv)]
    exact ⟨rfl, rfl⟩

end Sys2Proof.Machine

/-! The synchronising measurements (02 R37 to R39) and the completion of a scan round (02 R26). -/

namespace Sys2Proof.Machine

/-! ### A reference lost (04 R81) -/

section
variable {s : State}

theorem referenceLost_stands (h : ∀ r, s.sync.req = some r → r.stage = .select ∨ r.stage = .close) :
    referenceLost s = s := by
  unfold referenceLost
  split
  next r hr =>
    refine if_neg ?_
    rcases h r hr with hs | hs <;> rw [hs] <;> decide
  next => rfl

theorem referenceLost_aborts {r : SyncReq} (hr : s.sync.req = some r) (hs : r.stage = .matching ∨ r.stage = .phase) :
    referenceLost s = syncAbort .lostReference s := by
  unfold referenceLost
  rw [hr]
  exact if_pos hs

theorem referenceLost_cases (s : State) : referenceLost s = s ∨ referenceLost s = syncAbort .lostReference s := by
  unfold referenceLost
  split
  · split
    · exact Or.inr rfl
    · exact Or.inl rfl
  · exact Or.inl rfl

end

/-- The reference channel replaced. -/
def refTaken (d : SyncChan) (s : State) : State :=
  { s with scan.chanRef := d, scan.phi := if d.freq.isSome then s.scan.phi else none }

theorem setRef_stands {d : SyncChan} {s : State}
    (h : (fRef s).isNone = true ∨ d.freq.isSome = true ∨
      ∀ r, s.sync.req = some r → r.stage = .select ∨ r.stage = .close) : setRef d s = refTaken d s := by
  unfold setRef
  dsimp only
  by_cases hl : (fRef s).isSome = true ∧ d.freq.isNone = true
  · rcases h with h | h | h
    · rw [Option.isNone_iff_eq_none] at h
      rw [h] at hl
      exact absurd hl.1 Bool.false_ne_true
    · rw [Option.isNone_iff_eq_none] at hl
      rw [hl.2] at h
      exact absurd h Bool.false_ne_true
    · rw [if_pos hl]
      exact referenceLost_stands h
  · exact if_neg hl

theorem setRef_loses {d : SyncChan} {r : SyncReq} {s : State} (hf : (fRef s).isSome = true) (hd : d.freq = none)
    (hr : s.sync.req = some r) (hs : r.stage = .matching ∨ r.stage = .phase) :
    setRef d s = syncAbort .lostReference (refTaken d s) := by
  unfold setRef
  dsimp only
  rw [if_pos ⟨hf, by rw [hd]; rfl⟩]
  exact referenceLost_aborts (s := refTaken d s) hr hs

/-- What an abort for a lost reference leaves. -/
theorem setRef_lost {d : SyncChan} {r : SyncReq} {s : State} (hf : (fRef s).isSome = true) (hd : d.freq = none)
    (hr : s.sync.req = some r) (hs : r.stage = .matching ∨ r.stage = .phase) :
    (setRef d s).sync = { req := none, offset := 0, lastAbort := some .lostReference } ∧
      Sends (newNotice .syncAborted (some r.obj.code) (some 3) s) s (setRef d s) ∧
      (setRef d s).scan.selector = .released ∧ (setRef d s).plant.accounts = s.plant.accounts ∧
      (setRef d s).shed = s.shed ∧ (setRef d s).resv = s.resv ∧ (setRef d s).prof = s.prof := by
  have request : (refTaken d s).sync.req = some r := hr
  obtain ⟨link, generation⟩ := abortState_changes .lostReference r (refTaken d s)
  have scan := syncAbort_scan (c := .lostReference) request
  have changes := syncAbort_changes .lostReference (refTaken d s)
  rw [setRef_loses hf hd hr hs]
  refine ⟨syncAbort_sync request, ?_, congrArg Scan.selector scan, ?_, ?_, ?_, ?_⟩
  · rw [syncAbort_request request]
    exact sends_notify_of link generation ..
  · rw [changes]
    rfl
  · exact syncAbort_shed ..
  · exact syncAbort_resv ..
  · exact syncAbort_prof ..

/-! ### Time passing over the synchronising channels -/

theorem elapse_chanRef (n : Nat) (s : State) :
    (elapse n s).scan.chanRef = { s.scan.chanRef with loss := (elapse n s).scan.chanRef.loss } := by
  unfold elapse
  split <;> rfl

theorem elapse_fRef (n : Nat) (s : State) : fRef (elapse n s) = fRef s := by
  rw [fRef, fRef, elapse_selector, elapse_chanRef]

/-- Time passing keeps a request in flight, with its object and stage. -/
theorem elapse_request (n : Nat) (s : State) :
    ∃ m : Nat, (elapse n s).sync.req = s.sync.req ∨ (elapse n s).sync.req = s.sync.req.map (SyncReq.elapse m) := by
  unfold elapse
  split
  · exact ⟨n, Or.inr rfl⟩
  · exact ⟨0, Or.inl rfl⟩

theorem elapse_req_none {n : Nat} {s : State} (h : s.sync.req = none) : (elapse n s).sync.req = none := by
  obtain ⟨m, e | e⟩ := elapse_request n s
  · rw [e, h]
  · rw [e, h]
    rfl

theorem elapse_req_some {n : Nat} {r : SyncReq} {s : State} (h : s.sync.req = some r) :
    ∃ q, (elapse n s).sync.req = some q ∧ q.obj = r.obj ∧ q.stage = r.stage := by
  obtain ⟨m, e | e⟩ := elapse_request n s
  · exact ⟨r, e.trans h, rfl, rfl⟩
  · refine ⟨r.elapse m, ?_, rfl, rfl⟩
    rw [e, h]
    rfl

/-! ### The phase angle (02 R39) -/

theorem phaseOf_range (time : Nat) (ref : List Nat) : -180 ≤ phaseOf time ref ∧ phaseOf time ref ≤ 179 := by
  unfold phaseOf
  dsimp only
  generalize (if spanOf ref / 8 = 0 then Config.angleOfZeroPeriod (time - ref.getLastD 0)
    else (time - ref.getLastD 0) * 360 / (spanOf ref / 8)) = angle
  split <;> omega

theorem phaseOf_period {time : Nat} {ref : List Nat} (h : 0 < (ref.getLastD 0 - ref.headD 0) / 8) :
    phaseOf time ref =
      if min 359 ((time - ref.getLastD 0) * 360 / ((ref.getLastD 0 - ref.headD 0) / 8)) ≤ 180 then
        -((min 359 ((time - ref.getLastD 0) * 360 / ((ref.getLastD 0 - ref.headD 0) / 8)) : Nat) : Int)
      else 360 - ((min 359 ((time - ref.getLastD 0) * 360 / ((ref.getLastD 0 - ref.headD 0) / 8)) : Nat) : Int) := by
  have period : ¬ spanOf ref / 8 = 0 := h.ne'
  unfold phaseOf
  dsimp only
  rw [if_neg period]
  rfl

theorem exec_syncLoss_reference {r : Nat} {s : State} (h : s.scan.chanRef.loss = some r) :
    exec (.syncLossTimerExpiry .reference) s =
      .next (setRef { record := [], freq := none, loss := none } (elapse r s)) := by
  change execSyncLossTimerExpiry .reference s = _
  unfold execSyncLossTimerExpiry
  dsimp only
  rw [h, onExpiry_some]
  rfl

/-- Settles O34. -/
theorem syncMeasurements : Obligations.SyncMeasurements := by
  refine ⟨fun time s h => ?_, fun time s hs hn => ⟨?_, fun h => ?_, fun hf he r hr hst => ?_⟩, phaseOf_range,
    fun time ref => phaseOf_period, fun r s h => ?_, fun s => ⟨fun h => ?_, fun h => ?_⟩, fun r s h => ⟨fun hn => ?_, fun q hf hq hst => ?_⟩⟩
  · have off : ¬ (s.started = true ∧ s.scan.selector ≠ .released) := by
      rintro ⟨hs, hn⟩
      rcases h with h | h
      · exact absurd (h.symm.trans hs) Bool.false_ne_true
      · exact hn h
    exact ⟨congrArg Host.Outcome.next (if_neg off), congrArg Host.Outcome.next (if_neg off)⟩
  · exact congrArg Host.Outcome.next (if_pos ⟨hs, hn⟩)
  · have run : exec (.syncRefCrossing time) s =
        .next (setRef (s.scan.chanRef.crossing s.conf.general.lossTime time) s) :=
      congrArg Host.Outcome.next (if_pos ⟨hs, hn⟩)
    exact run.trans (congrArg Host.Outcome.next (setRef_stands h))
  · have run : exec (.syncRefCrossing time) s =
        .next (setRef (s.scan.chanRef.crossing s.conf.general.lossTime time) s) :=
      congrArg Host.Outcome.next (if_pos ⟨hs, hn⟩)
    obtain ⟨sync, sent, rest⟩ := setRef_lost hf he hr hst
    exact ⟨_, run, (congrArg Sync.req sync :), (congrArg Sync.lastAbort sync :), sent, rest⟩
  · change execSyncLossTimerExpiry .incoming s = _
    unfold execSyncLossTimerExpiry
    dsimp only
    rw [h, onExpiry_some]
    rfl
  · change execSyncLossTimerExpiry .incoming s = _
    unfold execSyncLossTimerExpiry
    dsimp only
    rw [h]
    rfl
  · change execSyncLossTimerExpiry .reference s = _
    unfold execSyncLossTimerExpiry
    dsimp only
    rw [h]
    rfl
  · rw [exec_syncLoss_reference h]
    refine congrArg Host.Outcome.next (setRef_stands ?_)
    rw [elapse_fRef]
    rcases hn with hn | hn
    · exact Or.inl hn
    · refine Or.inr (Or.inr fun k hk => ?_)
      cases hq : s.sync.req with
      | none => cases (elapse_req_none hq).symm.trans hk
      | some q =>
        obtain ⟨k', hk', -, stage⟩ := elapse_req_some (n := r) hq
        cases hk'.symm.trans hk
        rw [stage]
        exact hn q hq
  · obtain ⟨k, hk, obj, stage⟩ := elapse_req_some (n := r) hq
    obtain ⟨sync, sent, selector, accounts, shed, resv, prof⟩ :=
      setRef_lost (d := { record := [], freq := none, loss := none }) ((elapse_fRef r s).symm ▸ hf) rfl hk (stage.symm ▸ hst)
    rw [obj] at sent
    exact ⟨_, exec_syncLoss_reference h, (congrArg Sync.req sync :), (congrArg Sync.offset sync :),
      (congrArg Sync.lastAbort sync :), sent, selector, accounts, shed, resv, prof.trans (elapse_prof r s)⟩

end Sys2Proof.Machine

/-! The completion of a scan round (02 R26, 01 R23). -/

namespace Sys2Proof.Machine

/-! ### Section voltages (02 R33, R35) -/

theorem liveNext_dead {live dead v : Nat} (before : Live) (h : v ≤ dead) : liveNext live dead before v = .dead := if_pos h

theorem liveNext_live {live dead v : Nat} {before : Live} (h : dead < v)
    (hl : live ≤ v ∨ before = .live ∧ live ≤ v + 50) : liveNext live dead before v = .live := by
  unfold liveNext
  dsimp only
  rw [if_neg (not_le.2 h)]
  refine if_pos ?_
  cases before with
  | live => exact decide_eq_true (by rcases hl with hl | ⟨-, hl⟩ <;> omega)
  | dead => exact decide_eq_true (by rcases hl with hl | ⟨hb, -⟩ <;> [exact hl; cases hb])
  | uncertain => exact decide_eq_true (by rcases hl with hl | ⟨hb, -⟩ <;> [exact hl; cases hb])

theorem liveNext_uncertain {live dead v : Nat} {before : Live} (h : dead < v) (hl : v < live)
    (hb : before = .live → v + 50 < live) : liveNext live dead before v = .uncertain := by
  unfold liveNext
  dsimp only
  rw [if_neg (not_le.2 h)]
  refine if_neg ?_
  cases before with
  | live => exact Bool.eq_false_iff.1 (decide_eq_false (not_le.2 (hb rfl)))
  | dead => exact Bool.eq_false_iff.1 (decide_eq_false (not_le.2 hl))
  | uncertain => exact Bool.eq_false_iff.1 (decide_eq_false (not_le.2 hl))

section
variable {g : GeneralCfg} {code : Nat} {c : SectChan}

/-- Every sample gives the voltage and the live state, and touches neither the value nor the loss timer. -/
theorem volts_takes :
    (c.volts g code).volt = code * 1250 / 4095 ∧
      (c.volts g code).live = liveNext g.liveThr g.deadThr c.live (code * 1250 / 4095) ∧
      (c.volts g code).loss = c.loss ∧ (c.volts g code).value = c.value := by
  unfold SectChan.volts
  dsimp only
  split
  next h => exact ⟨rfl, rfl, rfl, rfl⟩
  · split <;> exact ⟨rfl, rfl, rfl, rfl⟩

theorem volts_live (h : (c.volts g code).live = .live) :
    (c.volts g code).record = c.record ∧
      (c.volts g code).valid = (c.valid || (decide (c.live ≠ .live) && decide (c.record.length = 9))) := by
  rw [volts_takes.2.1] at h
  have eq : c.volts g code = { c with
      volt := voltOf code, live := liveNext g.liveThr g.deadThr c.live (voltOf code),
      valid := c.valid || (decide (c.live ≠ .live) && decide (c.record.length = 9)) } := if_pos h
  rw [eq]
  exact ⟨rfl, rfl⟩

theorem volts_falls (hc : c.live = .live) (h : (c.volts g code).live ≠ .live) :
    (c.volts g code).record = [] ∧ (c.volts g code).valid = false := by
  rw [volts_takes.2.1] at h
  have eq : c.volts g code = { c with
      volt := voltOf code, live := liveNext g.liveThr g.deadThr c.live (voltOf code), record := [], valid := false } :=
    (if_neg h).trans (if_pos hc)
  rw [eq]
  exact ⟨rfl, rfl⟩

theorem volts_stays (hc : c.live ≠ .live) (h : (c.volts g code).live ≠ .live) : (c.volts g code).valid = c.valid := by
  rw [volts_takes.2.1] at h
  have eq : c.volts g code = { c with
      volt := voltOf code, live := liveNext g.liveThr g.deadThr c.live (voltOf code) } :=
    (if_neg h).trans (if_neg hc)
  rw [eq]

end

/-! ### The notices of a round (02 R26) -/

/-- The generation and the clock that a notice carries. -/
def SameStamp (s t : State) : Prop := t.plant.generation = s.plant.generation ∧ t.link.clock = s.link.clock

/-- Steps that each send their own notices send them all, in order. -/
theorem delivers_foldl {α : Type} {f : State → α → State} {ns : α → List Notice} {s : State}
    (h : ∀ t a, SameStamp s t → Delivers (ns a) t (f t a) ∧ SameStamp s (f t a)) (l : List α) :
    ∀ t, SameStamp s t → Delivers (l.flatMap ns) t (l.foldl f t) ∧ SameStamp s (l.foldl f t) := by
  induction l with
  | nil => exact fun t ht => ⟨delivers_nil_of_link rfl, ht⟩
  | cons a l ih =>
    intro t ht
    obtain ⟨first, stamp⟩ := h t a ht
    obtain ⟨rest, last⟩ := ih (f t a) stamp
    exact ⟨first.trans rest, last⟩

theorem delivers_stamped {s t : State} (h : SameStamp s t) (k : NoticeKind) (a : Option Nat) (v : Option Int) :
    Delivers [newNotice k a v s] t (notify k a v t) ∧ SameStamp s (notify k a v t) := by
  obtain ⟨generation, clock⟩ := h
  rw [← newNotice_of generation clock]
  exact ⟨delivers_notify k a v t, generation, clock⟩

/-- The notices of a reading that went from `c` to `d`. -/
def kwSends (s : State) (g : Fin 8) (fs : Nat) (c d : KwChan) : List Notice :=
  (if c.validity ≠ .invalid ∧ d.validity = .invalid then
      [newNotice .readingInvalid (some g.val) (some (d.value : Int)) s]
    else if c.validity = .invalid ∧ d.validity = .valid then
      [newNotice .readingValid (some g.val) (some (d.value : Int)) s]
    else []) ++
    if c.overrange = false ∧ d.overrange = true then [newNotice .readingOverrange (some g.val) (some (fs : Int)) s] else []

/-- The notice of a frequency that went from `c` to `d`. -/
def freqSends (s : State) (x : Fin 4) (c d : SectChan) : List Notice :=
  if c.valid = true ∧ d.valid = false then [newNotice .freqInvalid (some x.val) (some 3) s]
  else if c.valid = false ∧ d.valid = true then [newNotice .freqValid (some x.val) (some (d.value : Int)) s]
  else []

/-- No notice, or one. -/
theorem delivers_if {s t : State} (h : SameStamp s t) (p : Prop) [Decidable p] (k : NoticeKind) (a : Option Nat)
    (v : Option Int) :
    Delivers (if p then [newNotice k a v s] else []) t (if p then notify k a v t else t) ∧
      SameStamp s (if p then notify k a v t else t) := by
  by_cases hp : p
  · rw [if_pos hp, if_pos hp]
    exact delivers_stamped h k a v
  · rw [if_neg hp, if_neg hp]
    exact ⟨delivers_nil_of_link rfl, h⟩

theorem delivers_kwNotices {s t : State} (h : SameStamp s t) (g : Fin 8) (fs : Nat) (c d : KwChan) :
    Delivers (kwSends s g fs c d) t (kwNotices g fs c d t) ∧ SameStamp s (kwNotices g fs c d t) := by
  have valid : ∃ u, (if c.validity ≠ .invalid ∧ d.validity = .invalid then
        notify .readingInvalid (some g.val) (some (d.value : Int)) t
      else if c.validity = .invalid ∧ d.validity = .valid then
        notify .readingValid (some g.val) (some (d.value : Int)) t
      else t) = u ∧ SameStamp s u ∧ Delivers (if c.validity ≠ .invalid ∧ d.validity = .invalid then
        [newNotice .readingInvalid (some g.val) (some (d.value : Int)) s]
      else if c.validity = .invalid ∧ d.validity = .valid then
        [newNotice .readingValid (some g.val) (some (d.value : Int)) s]
      else []) t u := by
    by_cases hi : c.validity ≠ .invalid ∧ d.validity = .invalid
    · rw [if_pos hi, if_pos hi]
      obtain ⟨sent, stamp⟩ := delivers_stamped h .readingInvalid (some g.val) (some (d.value : Int))
      exact ⟨_, rfl, stamp, sent⟩
    · rw [if_neg hi, if_neg hi]
      obtain ⟨sent, stamp⟩ := delivers_if h (c.validity = .invalid ∧ d.validity = .valid) .readingValid (some g.val)
        (some (d.value : Int))
      exact ⟨_, rfl, stamp, sent⟩
  obtain ⟨u, hu, stamp, sent⟩ := valid
  have after := delivers_if stamp (¬ c.overrange = true ∧ d.overrange = true) .readingOverrange (some g.val) (some (fs : Int))
  have whole : kwNotices g fs c d t =
      if ¬ c.overrange = true ∧ d.overrange = true then notify .readingOverrange (some g.val) (some (fs : Int)) u else u := by
    rw [← hu]
    rfl
  rw [whole]
  refine ⟨?_, after.2⟩
  have same : (if c.overrange = false ∧ d.overrange = true then
      [newNotice .readingOverrange (some g.val) (some (fs : Int)) s] else []) =
      if ¬ c.overrange = true ∧ d.overrange = true then
        [newNotice .readingOverrange (some g.val) (some (fs : Int)) s] else [] :=
    if_congr (and_congr_left fun _ => Bool.not_eq_true _ |>.symm ▸ Iff.rfl) rfl rfl
  rw [kwSends, same]
  exact sent.trans after.1

theorem delivers_freqNotice {s t : State} (h : SameStamp s t) (x : Fin 4) (c d : SectChan) :
    Delivers (freqSends s x c d) t (freqNotice x 3 c d t) ∧ SameStamp s (freqNotice x 3 c d t) := by
  unfold freqSends freqNotice
  simp only [Bool.not_eq_true]
  by_cases hi : c.valid = true ∧ d.valid = false
  · rw [if_pos hi, if_pos hi]
    exact delivers_stamped h ..
  · rw [if_neg hi, if_neg hi]
    exact delivers_if h ..

theorem kwNotices_changes (g : Fin 8) (fs : Nat) (c d : KwChan) (s : State) :
    kwNotices g fs c d s = { s with link := (kwNotices g fs c d s).link } := by
  unfold kwNotices
  dsimp only
  repeat' split
  all_goals rfl

/-- Steps that change the queues alone change the queues alone. -/
theorem foldl_link {α : Type} {f : State → α → State} (h : ∀ t a, f t a = { t with link := (f t a).link }) (l : List α) :
    ∀ s, l.foldl f s = { s with link := (l.foldl f s).link } := by
  induction l with
  | nil => exact fun _ => rfl
  | cons a l ih =>
    intro s
    rw [List.foldl_cons, ih (f s a), h s a]

/-- The notices of a round change the queues alone. -/
theorem roundNotices_changes (old : State) (smp : Samples) (s : State) :
    roundNotices old smp s = { s with link := (roundNotices old smp s).link } := by
  unfold roundNotices
  dsimp only
  rw [foldl_link (fun t x => freqNotice_changes x 3 old.scan.sect[x] (sectAfter old smp x) t),
    foldl_link (fun t g => kwNotices_changes g old.conf.sets[g].fs old.scan.kw[g] (kwAfter old smp g) t)]

/-- The state with the round's results, before its notices. -/
def roundTaken (smp : Samples) (s : State) : State :=
  { s with scan := scanAfter s smp, start.adoptWait := s.start.adoptWait.map (· - 1) }

/-- The state that the account update of a round starts from. -/
def roundState (smp : Samples) (s : State) : State :=
  let t := roundNotices s smp (roundTaken smp s)
  { t with plant.freq := tab (fun x _ => (t.scan.sect[x]).freq) t.plant.freq }

theorem roundState_changes (smp : Samples) (s : State) :
    roundState smp s =
      { s with
        scan := scanAfter s smp, start.adoptWait := s.start.adoptWait.map (· - 1),
        plant.freq := tab (fun x _ => ((scanAfter s smp).sect[x]).freq) s.plant.freq,
        link := (roundNotices s smp (roundTaken smp s)).link } := by
  unfold roundState
  rw [roundNotices_changes]
  rfl

theorem scanRound_eq (smp : Samples) (s : State) :
    scanRound smp s =
      if vrefFell s (roundTaken smp s) then referenceLost (accountUpdate true s four (roundState smp s))
      else accountUpdate true s four (roundState smp s) := rfl

theorem scanAfter_kw (smp : Samples) (s : State) (g : Fin 8) : (scanAfter s smp).kw[g] = kwAfter s smp g :=
  get_tab (fun i _ => kwAfter s smp i) s.scan.kw g

theorem scanAfter_sect (smp : Samples) (s : State) (x : Fin 4) : (scanAfter s smp).sect[x] = sectAfter s smp x :=
  get_tab (fun x _ => sectAfter s smp x) s.scan.sect x

/-- A round sends the notices of its readings and frequencies. -/
theorem delivers_roundState (smp : Samples) (s : State) : Delivers (roundSends s (roundState smp s)) s (roundState smp s) := by
  have start : SameStamp s (roundTaken smp s) := ⟨rfl, rfl⟩
  obtain ⟨readings, stamp⟩ := delivers_foldl
    (fun t g ht => delivers_kwNotices ht g s.conf.sets[g].fs s.scan.kw[g] (kwAfter s smp g)) eight _ start
  obtain ⟨frequencies, -⟩ := delivers_foldl
    (fun t x ht => delivers_freqNotice ht x s.scan.sect[x] (sectAfter s smp x)) four _ stamp
  have sends : roundSends s (roundState smp s) =
      (eight.flatMap fun g => kwSends s g s.conf.sets[g].fs s.scan.kw[g] (kwAfter s smp g)) ++
        four.flatMap fun x => freqSends s x s.scan.sect[x] (sectAfter s smp x) := by
    simp only [← scanAfter_kw, ← scanAfter_sect]
    rw [roundState_changes]
    rfl
  rw [sends]
  exact readings.trans frequencies

/-! ### The round as a whole -/

theorem exec_roundTimerExpiry {smp : Samples} {r : Nat} {s : State} (h : s.scan.round = some r) :
    exec (.roundTimerExpiry smp) s = .next (scanRound smp (elapse r s)) := by
  change execRoundTimerExpiry smp s = _
  rw [execRoundTimerExpiry, h, onExpiry_some]

theorem vrefFell_iff (old new : State) :
    vrefFell old new = true ↔
      old.scan.selector = .settled ∧ old.scan.vref.live ≠ .dead ∧ new.scan.vref.live = .dead := by
  rw [vrefFell, Bool.and_eq_true, Bool.and_eq_true, decide_eq_true_iff, decide_eq_true_iff, decide_eq_true_iff, and_assoc]

/-- What an abort of the Synchroniser's request leaves alone in every block. -/
theorem syncAbort_keeps (c : AbortCause) (s : State) :
    (∀ i, getFilter (syncAbort c s) i = getFilter s i) ∧ (syncAbort c s).plant.partition = s.plant.partition ∧
      (syncAbort c s).plant.generation = s.plant.generation ∧ (syncAbort c s).plant.freq = s.plant.freq ∧
      (syncAbort c s).start = s.start ∧ (syncAbort c s).prof = s.prof ∧ (syncAbort c s).conf = s.conf := by
  have changes := syncAbort_changes c s
  refine ⟨fun i => ?_, ?_, ?_, ?_, ?_, ?_, ?_⟩
  · rw [changes]
    exact getFilter_of ⟨rfl, rfl, rfl, rfl, rfl⟩ i
  all_goals rw [changes]

theorem syncAbort_latch (c : AbortCause) (s : State) (g : Fin 8) :
    (syncAbort c s).plant.sets[g].latch = s.plant.sets[g].latch := by
  cases hr : s.sync.req with
  | none => rw [syncAbort_idle hr]
  | some r =>
    by_cases hi : r.obj = .set g ∧ s.plant.sets[g].state = .incoming
    · exact (congrArg SetRt.latch (syncAbort_incoming (c := c) hr hi.1 hi.2).1 :)
    · exact congrArg SetRt.latch (syncAbort_other (c := c) hr hi).1

/-- An abort leaves the round timer, the readings and the sections' channels. -/
theorem syncAbort_channels (c : AbortCause) (s : State) :
    (syncAbort c s).scan.round = s.scan.round ∧ (syncAbort c s).scan.kw = s.scan.kw ∧
      (syncAbort c s).scan.sect = s.scan.sect := by
  cases hr : s.sync.req with
  | none =>
    rw [syncAbort_idle hr]
    exact ⟨rfl, rfl, rfl⟩
  | some r =>
    have scan := syncAbort_scan (c := c) hr
    exact ⟨(congrArg Scan.round scan :), (congrArg Scan.kw scan :), (congrArg Scan.sect scan :)⟩

/-- What the reference lost event of a round leaves of the account update before it. -/
def RoundKept (u t : State) : Prop :=
  ((∀ i, getFilter t i = getFilter u i) ∧ t.plant.partition = u.plant.partition ∧
    t.plant.generation = u.plant.generation ∧ t.plant.freq = u.plant.freq ∧ t.start = u.start ∧ t.prof = u.prof ∧
    t.conf = u.conf) ∧
  (t.scan.round = u.scan.round ∧ t.scan.kw = u.scan.kw ∧ t.scan.sect = u.scan.sect) ∧
  ∀ g : Fin 8, t.plant.sets[g].latch = u.plant.sets[g].latch

theorem roundKept_referenceLost (s : State) : RoundKept s (referenceLost s) := by
  rcases referenceLost_cases s with h | h
  · rw [h]
    exact ⟨⟨fun _ => rfl, rfl, rfl, rfl, rfl, rfl, rfl⟩, ⟨rfl, rfl, rfl⟩, fun _ => rfl⟩
  · rw [h]
    exact ⟨syncAbort_keeps _ s, syncAbort_channels _ s, syncAbort_latch _ s⟩

theorem roundKept_scanRound (smp : Samples) (s : State) :
    RoundKept (accountUpdate true s four (roundState smp s)) (scanRound smp s) := by
  rw [scanRound_eq]
  split
  · exact roundKept_referenceLost _
  · exact ⟨⟨fun _ => rfl, rfl, rfl, rfl, rfl, rfl, rfl⟩, ⟨rfl, rfl, rfl⟩, fun _ => rfl⟩

section
variable {smp : Samples} {s : State}

theorem scanRound_steady (h : vrefFell s (roundTaken smp s) = false) :
    scanRound smp s = accountUpdate true s four (roundState smp s) := by
  rw [scanRound_eq, if_neg (by rw [h]; exact Bool.false_ne_true)]

theorem accountUpdate_request (scan : Bool) (b : State) (is : List (Fin 4)) (s : State) :
    (accountUpdate scan b is s).sync = s.sync := by
  obtain ⟨⟨-, -, -, ⟨-, sync, -⟩, -⟩, -⟩ := updates_accountUpdate scan b is s
  exact sync

theorem roundState_sync (smp : Samples) (s : State) : (roundState smp s).sync = s.sync := by rw [roundState_changes]

/-- With no request in MATCH or PHASE the round ends with its account update. -/
theorem scanRound_unlost (h : ∀ r, s.sync.req = some r → r.stage = .select ∨ r.stage = .close) :
    scanRound smp s = accountUpdate true s four (roundState smp s) := by
  rw [scanRound_eq]
  split
  · refine referenceLost_stands ?_
    rw [accountUpdate_request, roundState_sync]
    exact h
  · rfl

theorem scanRound_lost {r : SyncReq} (h : vrefFell s (roundTaken smp s) = true) (hr : s.sync.req = some r)
    (hs : r.stage = .matching ∨ r.stage = .phase) :
    scanRound smp s = syncAbort .lostReference (accountUpdate true s four (roundState smp s)) := by
  rw [scanRound_eq, if_pos h]
  refine referenceLost_aborts ?_ hs
  rw [accountUpdate_request, roundState_sync]
  exact hr

end

/-- The channels of a round, from those before the time that ended it. -/
theorem kwAfter_elapse (n : Nat) (smp : Samples) (s : State) (g : Fin 8) :
    kwAfter (elapse n s) smp g =
      if setPresent s g then (s.scan.kw[g]).take (s.conf.sets[g]).fs smp.kw[g] else s.scan.kw[g] := by
  rw [kwAfter, setPresent_of (elapse_conf n s), elapse_kw, elapse_conf]

theorem sectAfter_elapse (n : Nat) (smp : Samples) (s : State) (x : Fin 4) :
    sectAfter (elapse n s) smp x =
      if sectPresent s x then ((elapse n s).scan.sect[x]).volts s.conf.general smp.secv[x]
      else (elapse n s).scan.sect[x] := by
  rw [sectAfter, sectPresent_of (elapse_conf n s), elapse_conf]

/-- The accounts of a recomputation (01 R20 to R23). -/
theorem recompute_cases (is : List (Fin 4)) (i : Fin 4) (s : State) :
    (i ∉ is → (recompute is s).plant.accounts[i] = s.plant.accounts[i]) ∧
    (i ∈ is → s.plant.partition = none → (recompute is s).plant.accounts[i] = none) ∧
    ∀ p, i ∈ is → s.plant.partition = some p →
      ((p[i] ≠ i ∨ ∀ x : Fin 4, p[x] = i → sectPresent s x = false) → (recompute is s).plant.accounts[i] = none) ∧
      (p[i] = i → (∃ x : Fin 4, p[x] = i ∧ sectPresent s x = true) →
        ∃ a, (recompute is s).plant.accounts[i] = some a ∧ AccountOf s i a ∧
          a.shortfall = ((s.plant.accounts[i]).map (·.shortfall)).getD false) := by
  refine ⟨recompute_unlisted, fun hi hp => recompute_vacant hi fun q hq => ?_, fun p hi hp => ⟨fun h => ?_, fun h hv => ?_⟩⟩
  · cases hp.symm.trans hq
  · refine recompute_vacant hi fun q hq hqi x hx => ?_
    cases hp.symm.trans hq
    rcases h with h | h
    · exact absurd hqi h
    · exact h x hx
  · obtain ⟨a, account, of, shortfall⟩ := recompute_account hp hi h hv
    refine ⟨a, account, of, shortfall.trans ?_⟩
    cases s.plant.accounts[i] <;> rfl

/-- The two ways a round can end, with the request as it stands before the round. -/
theorem scanRound_ends (smp : Samples) (s : State) :
    let u := accountUpdate true s four (roundState smp s)
    let fell : Prop := s.scan.selector = .settled ∧ s.scan.vref.live ≠ .dead ∧ (roundState smp s).scan.vref.live = .dead
    (¬ fell → scanRound smp s = u) ∧ (s.sync.req = none → scanRound smp s = u) ∧
    ∀ r, s.sync.req = some r →
      ((r.stage = .select ∨ r.stage = .close) → scanRound smp s = u) ∧
      (fell → (r.stage = .matching ∨ r.stage = .phase) → scanRound smp s = syncAbort .lostReference u) := by
  have vref : (roundState smp s).scan = (roundTaken smp s).scan := by
    rw [roundState_changes]
    rfl
  intro u fell
  have iff : vrefFell s (roundTaken smp s) = true ↔ fell := by
    rw [vrefFell_iff, ← vref]
  refine ⟨fun h => scanRound_steady (Bool.eq_false_iff.2 fun k => h (iff.1 k)),
    fun h => scanRound_unlost fun r hr => ?_, fun r hr => ⟨fun hs => scanRound_unlost fun q hq => ?_,
      fun hf hs => scanRound_lost (iff.2 hf) hr hs⟩⟩
  · cases h.symm.trans hr
  · cases hr.symm.trans hq
    exact hs

/-- What stands through a round, and what its results are. -/
theorem scanRound_effect (smp : Samples) (s : State) :
    let t := scanRound smp s
    t.scan.round = some 20 ∧ (∀ g : Fin 8, t.scan.kw[g] = kwAfter s smp g) ∧
      (∀ x : Fin 4, t.scan.sect[x] = sectAfter s smp x) ∧
      (∀ x : Fin 4, t.plant.freq[x] = if t.scan.sect[x].valid then some t.scan.sect[x].value else none) ∧
      t.start = { s.start with adoptWait := s.start.adoptWait.map (· - 1) } ∧
      (∀ i, getFilter t i = getFilter s i) ∧ (∀ g : Fin 8, t.plant.sets[g].latch = s.plant.sets[g].latch) ∧
      t.plant.partition = s.plant.partition ∧ t.plant.generation = s.plant.generation ∧ t.prof = s.prof ∧
      t.conf = s.conf := by
  have kept := roundKept_scanRound smp s
  have changes := roundState_changes smp s
  obtain ⟨⟨filters, ⟨partition, generation, freq⟩, latch, ⟨scan, -, prof, start, conf⟩, -⟩, -⟩ :=
    updates_accountUpdate true s four (roundState smp s)
  dsimp only
  generalize scanRound smp s = t at *
  generalize accountUpdate true s four (roundState smp s) = u at *
  obtain ⟨⟨kfilters, kpartition, kgeneration, kfreq, kstart, kprof, kconf⟩, ⟨kround, kkw, ksect⟩, klatch⟩ := kept
  have qscan : (roundState smp s).scan = scanAfter s smp := by rw [changes]
  have qfreq : (roundState smp s).plant.freq = tab (fun x _ => ((scanAfter s smp).sect[x]).freq) s.plant.freq := by
    rw [changes]
  have sects (x : Fin 4) : t.scan.sect[x] = (scanAfter s smp).sect[x] := by rw [ksect, scan, qscan]
  refine ⟨?_, fun g => ?_, fun x => (sects x).trans (scanAfter_sect smp s x), fun x => ?_, ?_, fun i => ?_, fun g => ?_,
    ?_, ?_, ?_, ?_⟩
  · rw [kround, scan, qscan]
    rfl
  · rw [kkw, scan, qscan]
    exact scanAfter_kw smp s g
  · rw [sects x, kfreq, freq, qfreq]
    exact get_tab (fun x _ => ((scanAfter s smp).sect[x]).freq) s.plant.freq x
  · rw [kstart, start, changes]
  · rw [kfilters, filters, changes]
    exact getFilter_of ⟨rfl, rfl, rfl, rfl, rfl⟩ i
  · rw [klatch, latch, changes]
  · rw [kpartition, partition, changes]
  · rw [kgeneration, generation, changes]
  · rw [kprof, prof, changes]
  · rw [kconf, conf, changes]

/-- With no request in flight a round moves no bias, and takes the two voltages where it converted them. -/
theorem scanRound_idle {smp : Samples} {s : State} (h : s.sync.req = none) :
    (scanRound smp s).scan = scanAfter s smp ∧ ∀ g : Fin 8, (scanRound smp s).biasOut g = s.biasOut g := by
  have steady : scanRound smp s = accountUpdate true s four (roundState smp s) := (scanRound_ends smp s).2.1 h
  obtain ⟨⟨-, -, -, ⟨scan, -⟩, shares, -⟩, -⟩ := updates_accountUpdate true s four (roundState smp s)
  rw [steady]
  refine ⟨?_, fun g => ?_⟩
  · rw [scan, roundState_changes]
  · rw [(shares g).1, roundState_changes]
    rfl

/-- Settles O32. -/
theorem roundCompletes : Obligations.RoundCompletes := by
  refine ⟨recompute_cases, fun scan b is s => ⟨rfl, (updates_accountUpdate scan b is s).1⟩, fun smp r s h => ?_,
    fun smp s h => ?_, fun g code c => ?_⟩
  · intro p
    have prof : p.prof = s.prof := elapse_prof r s
    have conf : p.conf = s.conf := elapse_conf r s
    have start : p.start = s.start := elapse_start r s
    have selector : p.scan.selector = s.scan.selector := elapse_selector r s
    have converting : p.scan.converting = s.scan.converting := elapse_converting r s
    have vin : p.scan.vin = s.scan.vin := elapse_vin r s
    have vref : p.scan.vref = s.scan.vref := elapse_vref r s
    have phi : p.scan.phi = s.scan.phi := elapse_phi r s
    have kws := kwAfter_elapse r smp s
    have sects := sectAfter_elapse r smp s
    obtain ⟨round, kw, sect, freq, tstart, filters, latch, partition, generation, tprof, tconf⟩ := scanRound_effect smp p
    have changes := roundState_changes smp p
    have qscan : (roundState smp p).scan = scanAfter p smp := by rw [changes]
    have qvref : (roundState smp p).scan.vref = if s.scan.converting then (s.scan.vref).take s.conf.general smp.vref else s.scan.vref := by
      rw [qscan, ← converting, ← vref, ← conf]
      rfl
    have ends := scanRound_ends smp p
    have adoptWait := congrArg Startup.adoptWait tstart
    rw [start] at adoptWait
    rw [selector, vref] at ends
    refine ⟨_, exec_roundTimerExpiry h, round, fun g => (kw g).trans (kws g), fun x => (sect x).trans (sects x), freq,
      fun hn hc => ?_, adoptWait, filters, fun g => ?_, partition.trans (elapse_partition r s),
      generation.trans (elapse_generation r s), tprof.trans prof, tconf.trans conf,
      (congrArg Startup.op tstart :).trans (congrArg Startup.op start :), fun hn g => ?_, roundState smp p,
      ⟨?_, ?_, ?_, ?_, ?_, ?_, ?_, qvref, ?_, ?_, ?_⟩, ⟨?_, ?_, ?_, ?_, ?_, ?_, ?_, ?_, ?_, ?_⟩,
      delivers_roundState smp p, ends⟩
    case refine_1 =>
      rw [(scanRound_idle (elapse_req_none hn)).1]
      have on : p.scan.converting = true := converting.trans hc
      refine ⟨congrArg VoltChan.volt (if_pos on), congrArg VoltChan.volt (if_pos on)⟩
    case refine_2 => exact (latch g).trans (congrArg (fun v : Vector SetRt 8 => v[g].latch) (elapse_sets r s))
    case refine_3 => exact ((scanRound_idle (elapse_req_none hn)).2 g).trans (elapse_bias r s g)
    case refine_4 => exact qscan ▸ vector_ext fun g => (scanAfter_kw smp p g).trans (kw g).symm
    case refine_5 => exact qscan ▸ vector_ext fun x => (scanAfter_sect smp p x).trans (sect x).symm
    case refine_6 =>
      refine vector_ext fun x => ?_
      rw [freq x, sect x, changes]
      exact (get_tab (fun x _ => ((scanAfter p smp).sect[x]).freq) p.plant.freq x).trans
        (congrArg SectChan.freq (scanAfter_sect smp p x))
    case refine_7 =>
      rw [qscan]
      rfl
    case refine_8 =>
      rw [qscan, ← selector]
      rfl
    case refine_9 => exact (congrArg Scan.selector qscan :).trans selector
    case refine_10 =>
      rw [qscan, ← converting, ← vin, ← conf]
      rfl
    case refine_11 => exact (congrArg Scan.chanIn qscan :)
    case refine_12 => exact (congrArg Scan.chanRef qscan :)
    case refine_13 => exact (congrArg Scan.phi qscan :).trans phi
    case refine_21 => rw [changes, prof]
    case refine_22 => rw [changes, conf]
    case refine_23 => rw [changes, tstart]
    all_goals rw [changes]
  · change execRoundTimerExpiry smp s = _
    rw [execRoundTimerExpiry, h]
    rfl
  · obtain ⟨volt, live, loss, value⟩ := volts_takes (g := g) (code := code) (c := c)
    dsimp only
    refine ⟨volt, fun h => live.trans (liveNext_dead _ h), fun h hl => live.trans (liveNext_live h hl),
      fun h hl hb => live.trans (liveNext_uncertain h hl hb), volts_falls, loss, fun hc hd => ?_, fun h => ?_,
      fun h => (volts_live h).1, value, fun x hx => ?_⟩
    · rw [(volts_live hd).2, decide_eq_true hc, Bool.true_and]
    · by_cases hd : (c.volts g code).live = .live
      · rw [(volts_live hd).2, decide_eq_false (not_not.2 (h.2 hd)), Bool.false_and, Bool.or_false]
      · exact volts_stays (fun k => hd (h.1 k)) hd
    · rw [volt, live, VoltChan.take, hx]
      rfl

end Sys2Proof.Machine

/-! The Sharing Engine: targets, steps and the sharing pass (03 R42 to R50). -/

namespace Sys2Proof.Machine

/-! ### The targets of a pool (03 R45) -/

/-- Shares of a pool, each rounded down, against the whole. -/
theorem floor_shares (pool whole : Nat) (hw : 0 < whole) (l : List Nat) :
    whole * (l.map fun e => pool * e / whole).sum ≤ pool * l.sum ∧
      pool * l.sum + l.length ≤ whole * ((l.map fun e => pool * e / whole).sum + l.length) := by
  induction l with
  | nil => exact ⟨Nat.le_refl _, Nat.le_refl _⟩
  | cons e l ih =>
    obtain ⟨low, high⟩ := ih
    have floor_le : whole * (pool * e / whole) ≤ pool * e := Nat.mul_div_le _ _
    have lt_floor : pool * e < whole * (pool * e / whole + 1) := Nat.lt_mul_div_succ _ hw
    simp only [List.map_cons, List.sum_cons, List.length_cons, Nat.mul_add, Nat.mul_one] at *
    omega

theorem shareTarget_eq {s : State} {f : Figures} (h : 0 < f.prop) (g : Fin 8) :
    shareTarget s f g = f.pool * effRating s (settings s).rampN g / f.prop := if_neg h.ne'

/-- Settles O35. -/
theorem shareTargetsFillThePool : Obligations.ShareTargetsFillThePool := by
  intro s i freq on f shares hf
  have prop : ((shares.map (effRating s (settings s).rampN)).sum) = f.prop := rfl
  have targets : shares.map (shareTarget s f) =
      (shares.map (effRating s (settings s).rampN)).map fun e => f.pool * e / f.prop := by
    rw [List.map_map]
    exact List.map_congr_left fun g _ => shareTarget_eq hf g
  obtain ⟨low, high⟩ := floor_shares f.pool f.prop hf (shares.map (effRating s (settings s).rampN))
  rw [← targets, prop] at low high
  rw [List.length_map] at high
  have some_share : 0 < shares.length := by
    rw [List.length_pos_iff]
    intro hn
    rw [hn] at prop
    exact hf.ne prop
  refine ⟨Nat.le_of_mul_le_mul_left (low.trans (Nat.mul_comm _ _).le) hf, ?_⟩
  refine Nat.lt_of_mul_lt_mul_left (a := f.prop) ?_
  rw [Nat.mul_comm f.prop f.pool]
  omega

/-! ### A step and the SATURATED flag (03 R49) -/

theorem updShare_get (g h : Fin 8) (f : ShareRt → ShareRt) (s : State) :
    (updShare g f s).share.sets[h] = if g = h then f s.share.sets[g] else s.share.sets[h] := get_upd ..

section
variable {g : Fin 8} {step : Int} {s : State}

/-- A step over the upper bound. -/
theorem applyStep_high (h : 1000 < s.biasOut g + step) :
    applyStep g step s =
      if s.share.sets[g].sat = .clear then
        notify .biasSaturated (some g.val) (some 1000) (updShare g (fun r => { r with bias := 1000, sat := .atMax }) s)
      else updShare g (fun r => { r with bias := 1000, sat := .atMax }) s := if_pos h

/-- A step under the lower bound. -/
theorem applyStep_low (h : s.biasOut g + step < -1000) :
    applyStep g step s =
      if s.share.sets[g].sat = .clear then
        notify .biasSaturated (some g.val) (some (-1000)) (updShare g (fun r => { r with bias := -1000, sat := .atMin }) s)
      else updShare g (fun r => { r with bias := -1000, sat := .atMin }) s :=
  (if_neg (show ¬ 1000 < s.biasOut g + step by omega)).trans (if_pos h)

/-- A step inside the bounds. -/
theorem applyStep_inside (h1 : -1000 ≤ s.biasOut g + step) (h2 : s.biasOut g + step ≤ 1000) :
    applyStep g step s =
      updShare g
        (fun r => { r with bias := s.biasOut g + step, sat := (s.share.sets[g].sat).after (s.biasOut g + step) }) s :=
  (if_neg (not_lt.2 h2)).trans (if_neg (not_lt.2 h1))

end

/-- The record of a set after a step. -/
def ShareRt.stepped (step : Int) (r : ShareRt) : ShareRt :=
  if 1000 < r.bias + step then { r with bias := 1000, sat := .atMax }
  else if r.bias + step < -1000 then { r with bias := -1000, sat := .atMin }
  else { r with bias := r.bias + step, sat := r.sat.after (r.bias + step) }

theorem ShareRt.stepped_keeps (step : Int) (r : ShareRt) :
    (r.stepped step).bias = clamp (-1000) 1000 (r.bias + step) ∧ (r.stepped step).k = r.k ∧
      (r.stepped step).unload = r.unload ∧ (r.stepped step).openPulse = r.openPulse ∧
      (r.stepped step).openWait = r.openWait := by
  unfold ShareRt.stepped clamp
  split
  · exact ⟨by dsimp only; omega, rfl, rfl, rfl, rfl⟩
  · split
    · exact ⟨by dsimp only; omega, rfl, rfl, rfl, rfl⟩
    · exact ⟨by dsimp only; omega, rfl, rfl, rfl, rfl⟩

/-- A step writes the record of its set alone. -/
theorem applyStep_share (g h : Fin 8) (step : Int) (s : State) :
    (applyStep g step s).share.sets[h] = if g = h then (s.share.sets[g]).stepped step else s.share.sets[h] := by
  unfold ShareRt.stepped
  by_cases high : 1000 < s.biasOut g + step
  · rw [if_pos (show 1000 < s.share.sets[g].bias + step from high), applyStep_high high]
    split <;> exact get_upd ..
  · rw [if_neg (show ¬ 1000 < s.share.sets[g].bias + step from high)]
    by_cases low : s.biasOut g + step < -1000
    · rw [if_pos (show s.share.sets[g].bias + step < -1000 from low), applyStep_low low]
      split <;> exact get_upd ..
    · rw [if_neg (show ¬ s.share.sets[g].bias + step < -1000 from low),
        applyStep_inside (not_lt.1 low) (not_lt.1 high)]
      exact get_upd ..

/-- SATURATED after a step inside the bounds. -/
theorem Sat.after_eq (b : Int) (sat : Sat) :
    sat.after b = if sat = .atMax ∧ b = 1000 then .atMax else if sat = .atMin ∧ b = -1000 then .atMin else .clear := by
  cases sat with
  | clear => simp [Sat.after]
  | atMax => simp [Sat.after]
  | atMin => simp [Sat.after]

/-- Settles O37. -/
theorem stepSaturates : Obligations.StepSaturates := by
  intro g step s b t
  have record : t.share.sets[g] = (s.share.sets[g]).stepped step := (applyStep_share g g step s).trans (if_pos rfl)
  refine ⟨?_, fun h => ⟨?_, fun hc => ?_⟩, fun h => ⟨?_, fun hc => ?_⟩, fun h1 h2 => ⟨?_, ?_⟩, fun hn => ?_,
    fun k hk => (applyStep_share g k step s).trans (if_neg (Ne.symm hk))⟩
  · exact (congrArg ShareRt.bias record).trans (ShareRt.stepped_keeps step _).1
  · exact (congrArg ShareRt.sat record).trans (congrArg ShareRt.sat (if_pos h))
  · have run : t = _ := (applyStep_high h).trans (if_pos hc)
    rw [run]
    exact sends_notify .biasSaturated (some g.val) (some 1000) (updShare g (fun r => { r with bias := 1000, sat := .atMax }) s)
  · have low : ¬ 1000 < b := by omega
    exact (congrArg ShareRt.sat record).trans (congrArg ShareRt.sat ((if_neg low).trans (if_pos h)))
  · have run : t = _ := (applyStep_low h).trans (if_pos hc)
    rw [run]
    exact sends_notify .biasSaturated (some g.val) (some (-1000)) (updShare g (fun r => { r with bias := -1000, sat := .atMin }) s)
  · have inside := congrArg ShareRt.sat ((if_neg (not_lt.2 h2)).trans (if_neg (not_lt.2 h1)) :
      (s.share.sets[g]).stepped step = _)
    exact (congrArg ShareRt.sat record).trans (inside.trans (Sat.after_eq b _))
  · exact (congrArg State.link (applyStep_inside h1 h2) :)
  · by_cases high : 1000 < b
    · exact (congrArg State.link ((applyStep_high high).trans (if_neg hn)) :)
    · by_cases low : b < -1000
      · exact (congrArg State.link ((applyStep_low low).trans (if_neg hn)) :)
      · exact (congrArg State.link (applyStep_inside (not_lt.1 low) (not_lt.1 high)) :)

end Sys2Proof.Machine

/-! The sharing pass (03 R42 to R50). -/

namespace Sys2Proof.Machine

/-! ### What a pass touches -/

/-- From `s` to `t` sharing records moved and BIAS_SATURATED notices were sent, nothing else. -/
def Passes (s t : State) : Prop :=
  (t.plant = s.plant ∧ t.scan = s.scan ∧ t.sync = s.sync ∧ t.shed = s.shed ∧ t.resv = s.resv ∧ t.line = s.line ∧
    t.prof = s.prof ∧ t.start = s.start ∧ t.conf = s.conf ∧ t.pending = s.pending ∧ t.share.period = s.share.period) ∧
  (∃ ns, Delivers ns s t ∧ ∀ n ∈ ns, n.kind = .biasSaturated) ∧
  (∀ l : Link,
    (t.link.get l).active = (s.link.get l).active ∧ (t.link.get l).timer = (s.link.get l).timer ∧
      (t.link.get l).sending = (s.link.get l).sending ∧ (t.link.get l).waiting = (s.link.get l).waiting ∧
      (t.link.get l).frame = (s.link.get l).frame) ∧
  t.link.clock = s.link.clock ∧ t.link.joint = s.link.joint

theorem Passes.refl (s : State) : Passes s s :=
  ⟨⟨rfl, rfl, rfl, rfl, rfl, rfl, rfl, rfl, rfl, rfl, rfl⟩, ⟨[], delivers_nil_of_link rfl, fun _ h => nomatch h⟩,
    fun _ => ⟨rfl, rfl, rfl, rfl, rfl⟩, rfl, rfl⟩

theorem Passes.trans {s t u : State} (h : Passes s t) (k : Passes t u) : Passes s u := by
  obtain ⟨⟨h1, h2, h3, h4, h5, h6, h7, h8, h9, h10, h11⟩, ⟨ns, hn, hk⟩, hl, hc, hj⟩ := h
  obtain ⟨⟨k1, k2, k3, k4, k5, k6, k7, k8, k9, k10, k11⟩, ⟨ms, kn, kk⟩, kl, kc, kj⟩ := k
  refine ⟨⟨k1.trans h1, k2.trans h2, k3.trans h3, k4.trans h4, k5.trans h5, k6.trans h6, k7.trans h7, k8.trans h8,
    k9.trans h9, k10.trans h10, k11.trans h11⟩, ⟨ns ++ ms, hn.trans kn, fun n hm => ?_⟩, fun l => ?_, kc.trans hc,
    kj.trans hj⟩
  · rcases List.mem_append.1 hm with hm | hm
    · exact hk n hm
    · exact kk n hm
  · obtain ⟨a1, a2, a3, a4, a5⟩ := hl l
    obtain ⟨b1, b2, b3, b4, b5⟩ := kl l
    exact ⟨b1.trans a1, b2.trans a2, b3.trans a3, b4.trans a4, b5.trans a5⟩

theorem passes_updShare (g : Fin 8) (f : ShareRt → ShareRt) (s : State) : Passes s (updShare g f s) :=
  ⟨⟨rfl, rfl, rfl, rfl, rfl, rfl, rfl, rfl, rfl, rfl, rfl⟩, ⟨[], delivers_nil_of_link rfl, fun _ h => nomatch h⟩,
    fun _ => ⟨rfl, rfl, rfl, rfl, rfl⟩, rfl, rfl⟩

theorem passes_saturated (a : Option Nat) (v : Option Int) (s : State) : Passes s (notify .biasSaturated a v s) := by
  refine ⟨⟨rfl, rfl, rfl, rfl, rfl, rfl, rfl, rfl, rfl, rfl, rfl⟩,
    ⟨_, delivers_notify .biasSaturated a v s, fun n h => ?_⟩, fun l => ?_, rfl, rfl⟩
  · rw [List.mem_singleton.1 h]
    rfl
  · rw [notify_get]
    exact ⟨append_active .., append_timer .., append_sending .., append_waiting .., append_frame ..⟩

theorem passes_applyStep (g : Fin 8) (step : Int) (s : State) : Passes s (applyStep g step s) := by
  unfold applyStep
  dsimp only
  split
  · split
    · exact (passes_updShare ..).trans (passes_saturated ..)
    · exact passes_updShare ..
  · split
    · split
      · exact (passes_updShare ..).trans (passes_saturated ..)
      · exact passes_updShare ..
    · exact passes_updShare ..

theorem passes_foldl {α : Type} {f : State → α → State} (h : ∀ t a, Passes t (f t a)) (l : List α) (s : State) :
    Passes s (l.foldl f s) := by
  induction l generalizing s with
  | nil => exact Passes.refl s
  | cons a l ih => exact (h s a).trans (ih _)

/-! ### Records moved one after another -/

/-- In a fold that moves what `π` reads at one place only, that place is moved from what it was. -/
theorem foldl_at {α β : Type} {f : State → α → State} {π : State → β} {a : α} {s₀ : State}
    (hp : ∀ t b, Passes t (f t b)) (h : ∀ t b, Passes s₀ t → b ≠ a → π (f t b) = π t) (l : List α) :
    ∀ s, Passes s₀ s → l.Nodup →
      (a ∈ l → ∃ t, Passes s₀ t ∧ π t = π s ∧ π (l.foldl f s) = π (f t a)) ∧ (a ∉ l → π (l.foldl f s) = π s) := by
  induction l with
  | nil => exact fun s _ _ => ⟨fun h => (nomatch h), fun _ => rfl⟩
  | cons b l ih =>
    intro s hs hn
    obtain ⟨hb, hn⟩ := List.nodup_cons.1 hn
    obtain ⟨inside, outside⟩ := ih (f s b) (hs.trans (hp s b)) hn
    refine ⟨fun ha => ?_, fun ha => ?_⟩
    · by_cases e : b = a
      · subst e
        exact ⟨s, hs, rfl, outside hb⟩
      · obtain ⟨t, passes, same, moved⟩ := inside ((List.mem_cons.1 ha).resolve_left (Ne.symm e))
        exact ⟨t, passes, same.trans (h s b hs e), moved⟩
    · obtain ⟨hne, hl⟩ := not_or.1 (fun k => ha (List.mem_cons.2 k))
      exact (outside hl).trans (h s b hs (Ne.symm hne))

/-- A step of a fold that writes the record of its own set, from that record alone. -/
def Writes (f : State → Fin 8 → State) (r : Fin 8 → ShareRt → ShareRt) : Prop :=
  ∀ t g h, (f t g).share.sets[h] = if g = h then r g t.share.sets[g] else t.share.sets[h]

theorem foldl_writes {f : State → Fin 8 → State} {r : Fin 8 → ShareRt → ShareRt} (hp : ∀ t b, Passes t (f t b))
    (h : Writes f r) (l : List (Fin 8)) (hn : l.Nodup) (s : State) (g : Fin 8) :
    (l.foldl f s).share.sets[g] = if g ∈ l then r g s.share.sets[g] else s.share.sets[g] := by
  obtain ⟨inside, outside⟩ := foldl_at (π := fun t => t.share.sets[g]) (a := g) hp
    (fun t b _ hb => (h t b g).trans (if_neg hb)) l s (Passes.refl s) hn
  by_cases hg : g ∈ l
  · obtain ⟨t, -, same, moved⟩ := inside hg
    rw [if_pos hg, moved, ← same]
    exact (h t g g).trans (if_pos rfl)
  · rw [if_neg hg]
    exact outside hg

/-! ### What the figures of an island read -/

/-- `t` reads as `s` for the sets listed. -/
def ReadsAs (on : List (Fin 8)) (s t : State) : Prop :=
  t.plant.sets = s.plant.sets ∧ t.scan = s.scan ∧ t.sync = s.sync ∧ t.prof = s.prof ∧ t.conf = s.conf ∧
    ∀ g ∈ on, t.share.sets[g] = s.share.sets[g]

section
variable {on : List (Fin 8)} {s t : State} {g : Fin 8}

theorem readsAs_role (h : ReadsAs on s t) (hg : g ∈ on) : roleOf t g = roleOf s g := by
  obtain ⟨plant, scan, -, prof, -, share⟩ := h
  rw [roleOf, roleOf, plant, scan, prof, share g hg]

theorem readsAs_eff (h : ReadsAs on s t) (n : Nat) (hg : g ∈ on) : effRating t n g = effRating s n g := by
  obtain ⟨-, -, -, -, conf, share⟩ := h
  rw [effRating, effRating, conf, share g hg]

theorem readsAs_base (h : ReadsAs on s t) (n : Nat) (hg : g ∈ on) : baseTarget t n g = baseTarget s n g := by
  obtain ⟨plant, -, -, prof, -, share⟩ := h
  rw [baseTarget, baseTarget, plant, prof, share g hg]

theorem readsAs_reading (h : ReadsAs on s t) (g : Fin 8) : reading t g = reading s g := by
  obtain ⟨-, scan, -⟩ := h
  rw [reading, reading, scan]

theorem readsAs_settings (h : ReadsAs on s t) : settings t = settings s := settings_of h.2.2.2.1

/-- The sets of a role, in a list whose records read alike. -/
theorem readsAs_ofRole (h : ReadsAs on s t) (r : Role) :
    (on.filter fun g => decide (roleOf t g = r)) = on.filter fun g => decide (roleOf s g = r) :=
  List.filter_congr fun g hg => by rw [readsAs_role h hg]

theorem readsAs_figures (h : ReadsAs on s t) (i : Fin 4) (freq : Option Nat) : figures t i freq on = figures s i freq on := by
  have same := readsAs_settings h
  have loads : on.map (reading t) = on.map (reading s) := List.map_congr_left fun g _ => readsAs_reading h g
  have bases : ((on.filter fun g => decide (roleOf s g = .base)).map (baseTarget t (settings s).rampN)) =
      (on.filter fun g => decide (roleOf s g = .base)).map (baseTarget s (settings s).rampN) :=
    List.map_congr_left fun g hg => readsAs_base h _ (List.mem_filter.1 hg).1
  have held : ((on.filter fun g => decide (roleOf s g = .held)).map (reading t)) =
      (on.filter fun g => decide (roleOf s g = .held)).map (reading s) :=
    List.map_congr_left fun g _ => readsAs_reading h g
  have effs : ((on.filter fun g => decide (roleOf s g = .share)).map (effRating t (settings s).rampN)) =
      (on.filter fun g => decide (roleOf s g = .share)).map (effRating s (settings s).rampN) :=
    List.map_congr_left fun g hg => readsAs_eff h _ (List.mem_filter.1 hg).1
  have ferr : freqError t i freq = freqError s i freq := by
    obtain ⟨-, -, sync, -, conf, -⟩ := h
    unfold freqError freqTarget
    rw [sync, conf]
  unfold figures
  dsimp only
  rw [readsAs_ofRole h, readsAs_ofRole h, readsAs_ofRole h, same, loads, bases, held, effs, ferr]

theorem readsAs_step (h : ReadsAs on s t) (f : Figures) (hg : g ∈ on) : stepOf t f g = stepOf s f g := by
  have same := readsAs_settings h
  have target : shareTarget t f g = shareTarget s f g := by
    rw [shareTarget, shareTarget, same, readsAs_eff h _ hg]
  have error (n : Nat) : scaledError t n g = scaledError s n g := by
    obtain ⟨-, -, -, -, conf, -⟩ := id h
    rw [scaledError, scaledError, readsAs_reading h, conf]
  unfold stepOf
  dsimp only
  rw [readsAs_role h hg, same, target, readsAs_base h _ hg, error, error]

theorem readsAs_ramp (h : ReadsAs on s t) (n : Nat) (hg : g ∈ on) : rampNext t n g = rampNext s n g := by
  obtain ⟨plant, scan, -, prof, -, share⟩ := h
  rw [rampNext, rampNext, plant, scan, prof, share g hg]

end

/-! ### The pass of an island (03 R43 to R50) -/

/-- A record with its ramp counter limited to N. -/
def ShareRt.capped (n : Nat) (r : ShareRt) : ShareRt := { r with k := min r.k n }

/-- The records of the listed sets with their ramp counters limited. -/
def capOn (n : Nat) (on : List (Fin 8)) (s : State) : State := on.foldl (fun t g => updShare g (ShareRt.capped n) t) s

/-- A record after a step, if there is one. -/
def ShareRt.steppedBy (o : Option Int) (r : ShareRt) : ShareRt :=
  match o with
  | some step => r.stepped step
  | none => r

/-- A step taken, if there is one. -/
def stepBy (o : Option Int) (g : Fin 8) (s : State) : State :=
  match o with
  | some step => applyStep g step s
  | none => s

theorem passes_stepBy (o : Option Int) (g : Fin 8) (s : State) : Passes s (stepBy o g s) := by
  cases o with
  | none => exact Passes.refl s
  | some step => exact passes_applyStep g step s

theorem stepBy_share (o : Option Int) (g h : Fin 8) (s : State) :
    (stepBy o g s).share.sets[h] = if g = h then (s.share.sets[g]).steppedBy o else s.share.sets[h] := by
  cases o with
  | some step => exact applyStep_share g h step s
  | none =>
    by_cases e : g = h
    · rw [if_pos e]
      exact congrArg (fun k : Fin 8 => s.share.sets[k]) e.symm
    · exact (if_neg e).symm

/-- A record with its new ramp counter. -/
def ShareRt.ramped (k : Nat) (r : ShareRt) : ShareRt := { r with k := k }

/-- The pass of a live island on the sets listed. -/
def passOn (i : Fin 4) (freq : Option Nat) (on : List (Fin 8)) (s : State) : State :=
  let n := (settings s).rampN
  let q := capOn n on s
  on.foldl (fun t g => updShare g (ShareRt.ramped (rampNext q n g)) t)
    (on.foldl (fun t g => stepBy (stepOf q (figures q i freq on) g) g t) q)

theorem passIsland_vacant {i : Fin 4} {s : State} (h : s.plant.accounts[i] = none) : passIsland i s = s := by
  unfold passIsland
  rw [h]

theorem passIsland_dead {i : Fin 4} {a : Account} {s : State} (h : s.plant.accounts[i] = some a) (hd : a.dead = true) :
    passIsland i s = s := by
  unfold passIsland
  rw [h]
  exact if_pos hd

theorem passIsland_live {i : Fin 4} {a : Account} {s : State} (h : s.plant.accounts[i] = some a) (hd : a.dead = false) :
    passIsland i s = passOn i a.freq (onlineSets s i) s := by
  have live : ¬ a.dead = true := by rw [hd]; exact Bool.false_ne_true
  unfold passIsland
  rw [h]
  refine (if_neg live).trans ?_
  unfold passOn
  rfl

theorem passes_passOn (i : Fin 4) (freq : Option Nat) (on : List (Fin 8)) (s : State) : Passes s (passOn i freq on s) :=
  (passes_foldl (fun t g => passes_updShare g _ t) on s).trans
    ((passes_foldl (fun t g => passes_stepBy _ g t) on _).trans (passes_foldl (fun t g => passes_updShare g _ t) on _))

theorem passes_passIsland (i : Fin 4) (s : State) : Passes s (passIsland i s) := by
  cases h : s.plant.accounts[i] with
  | none =>
    rw [passIsland_vacant h]
    exact Passes.refl s
  | some a =>
    cases hd : a.dead with
    | true =>
      rw [passIsland_dead h hd]
      exact Passes.refl s
    | false =>
      rw [passIsland_live h hd]
      exact passes_passOn ..

theorem capOn_get {n : Nat} {on : List (Fin 8)} (hn : on.Nodup) (s : State) (g : Fin 8) :
    (capOn n on s).share.sets[g] = if g ∈ on then (s.share.sets[g]).capped n else s.share.sets[g] :=
  foldl_writes (r := fun _ => ShareRt.capped n) (fun t b => passes_updShare b _ t) (fun t b h => updShare_get b h _ t) on hn s g

/-- A set's record after the pass of its island. -/
theorem passOn_get {i : Fin 4} {freq : Option Nat} {on : List (Fin 8)} (hn : on.Nodup) (s : State) (g : Fin 8) :
    (passOn i freq on s).share.sets[g] =
      if g ∈ on then
        (((s.share.sets[g]).capped (settings s).rampN).steppedBy
          (stepOf (capOn (settings s).rampN on s) (figures (capOn (settings s).rampN on s) i freq on) g)).ramped
            (rampNext (capOn (settings s).rampN on s) (settings s).rampN g)
      else s.share.sets[g] := by
  unfold passOn
  dsimp only
  have capped := capOn_get (n := (settings s).rampN) hn s g
  generalize capOn (settings s).rampN on s = q at *
  have steps : Writes (fun t g => stepBy (stepOf q (figures q i freq on) g) g t)
      (fun g => ShareRt.steppedBy (stepOf q (figures q i freq on) g)) := fun t b h => stepBy_share _ b h t
  have ramps : Writes (fun t g => updShare g (ShareRt.ramped (rampNext q (settings s).rampN g)) t)
      (fun g => ShareRt.ramped (rampNext q (settings s).rampN g)) := fun t b h => updShare_get b h _ t
  rw [foldl_writes (fun t b => passes_updShare b _ t) ramps on hn, foldl_writes (fun t b => passes_stepBy _ b t) steps on hn]
  by_cases hg : g ∈ on
  · rw [if_pos hg] at capped ⊢
    rw [if_pos hg, if_pos hg, capped]
  · rw [if_neg hg] at capped ⊢
    rw [if_neg hg, if_neg hg, capped]

/-! ### The passes of all islands -/

theorem mem_four : ∀ i : Fin 4, i ∈ four := by decide

theorem mem_onlineSets (s : State) (i : Fin 4) (g : Fin 8) :
    g ∈ onlineSets s i ↔ setPresent s g = true ∧ s.plant.sets[g].state.isOnline = true ∧ setIsland s g = some i := by
  rw [onlineSets, List.mem_filter, Bool.and_eq_true, Bool.and_eq_true, decide_eq_true_iff, and_assoc]
  exact and_iff_right (mem_eight g)

theorem onlineSets_nodup (s : State) (i : Fin 4) : (onlineSets s i).Nodup := List.Nodup.filter _ (by decide)

theorem onlineSets_of {s t : State} (hp : t.plant.partition = s.plant.partition) (hs : t.plant.sets = s.plant.sets)
    (hc : t.conf = s.conf) (i : Fin 4) : onlineSets t i = onlineSets s i := by
  unfold onlineSets setIsland
  refine List.filter_congr fun g _ => ?_
  rw [setPresent_of hc, hs, hc, islandOf_of hp]

theorem Passes.online {s t : State} (h : Passes s t) (i : Fin 4) : onlineSets t i = onlineSets s i := by
  obtain ⟨⟨plant, -, -, -, -, -, -, -, conf, -⟩, -⟩ := h
  exact onlineSets_of (congrArg Plant.partition plant) (congrArg Plant.sets plant) conf i

/-- The pass of an island leaves the records of every other set. -/
theorem passIsland_other {i : Fin 4} {s : State} {g : Fin 8} (h : g ∉ onlineSets s i) :
    (passIsland i s).share.sets[g] = s.share.sets[g] := by
  cases ha : s.plant.accounts[i] with
  | none => rw [passIsland_vacant ha]
  | some a =>
    cases hd : a.dead with
    | true => rw [passIsland_dead ha hd]
    | false => rw [passIsland_live ha hd, passOn_get (onlineSets_nodup s i), if_neg h]

/-- The records of an island's online sets. -/
def recordsOf (s₀ : State) (i : Fin 4) (s : State) : List ShareRt := (onlineSets s₀ i).map fun g => s.share.sets[g]

/-- Among the passes of all islands, an island's own finds its sets as they were and leaves them as they end. -/
theorem passes_island (s : State) (i : Fin 4) :
    ∃ t, Passes s t ∧ (∀ g ∈ onlineSets s i, t.share.sets[g] = s.share.sets[g]) ∧
      ∀ g ∈ onlineSets s i, (eachIsland four passIsland s).share.sets[g] = (passIsland i t).share.sets[g] := by
  have others (t : State) (j : Fin 4) (ht : Passes s t) (hj : j ≠ i) :
      recordsOf s i (passIsland j t) = recordsOf s i t := by
    refine List.map_congr_left fun g hg => passIsland_other fun hk => hj ?_
    rw [ht.online] at hk
    obtain ⟨-, -, island⟩ := (mem_onlineSets s i g).1 hg
    obtain ⟨-, -, island'⟩ := (mem_onlineSets s j g).1 hk
    exact Option.some.inj (island'.symm.trans island)
  obtain ⟨inside, -⟩ := foldl_at (π := recordsOf s i) (f := fun t j => passIsland j t) (a := i) (s₀ := s)
    (fun t j => passes_passIsland j t) others four s (Passes.refl s) (by decide)
  obtain ⟨t, passes, same, moved⟩ := inside (mem_four i)
  exact ⟨t, passes, List.map_inj_left.1 same, List.map_inj_left.1 moved⟩

theorem passes_eachIsland (s : State) : Passes s (eachIsland four passIsland s) :=
  passes_foldl (fun t i => passes_passIsland i t) four s

/-- The passes leave the records of the sets that are not online. -/
theorem eachIsland_offline {s : State} {g : Fin 8} (h : s.plant.sets[g].state.isOnline = false) :
    (eachIsland four passIsland s).share.sets[g] = s.share.sets[g] := by
  have off (t : State) (j : Fin 4) (ht : Passes s t) : (passIsland j t).share.sets[g] = t.share.sets[g] := by
    refine passIsland_other fun hk => ?_
    rw [ht.online] at hk
    obtain ⟨-, on, -⟩ := (mem_onlineSets s j g).1 hk
    exact absurd (h.symm.trans on) Bool.false_ne_true
  have stands (l : List (Fin 4)) : ∀ t, Passes s t → (l.foldl (fun t i => passIsland i t) t).share.sets[g] = t.share.sets[g] := by
    induction l with
    | nil => exact fun _ _ => rfl
    | cons j l ih => exact fun t ht => (ih _ (ht.trans (passes_passIsland j t))).trans (off t j ht)
  exact stands four s (Passes.refl s)

/-! ### The openings after the passes (03 R56, R57) -/

/-- A record whose opening begins. -/
def ShareRt.opened (y : SyncCfg) (r : ShareRt) : ShareRt :=
  { r with unload := .opening, openPulse := some y.pulse, openWait := some y.confirm }

/-- The openings that `s₂` asks for. -/
def openAll (s₂ s : State) : State := eight.foldl (fun t g => if opensNow s₂ g then openSet g t else t) s

theorem passes_openSet (s₂ : State) (g : Fin 8) (s : State) : Passes s (if opensNow s₂ g then openSet g s else s) := by
  split
  · exact passes_updShare ..
  · exact Passes.refl s

theorem openAll_get (s₂ : State) (g : Fin 8) (s : State) :
    (openAll s₂ s).share.sets[g] =
      if opensNow s₂ g then (s.share.sets[g]).opened s.conf.sync else s.share.sets[g] := by
  have one (t : State) (b h : Fin 8) : (if opensNow s₂ b then openSet b t else t).share.sets[h] =
      if b = h then (if opensNow s₂ b then (t.share.sets[b]).opened t.conf.sync else t.share.sets[b])
      else t.share.sets[h] := by
    by_cases ho : opensNow s₂ b = true
    · rw [if_pos ho, if_pos ho]
      exact updShare_get b h _ t
    · rw [if_neg ho, if_neg ho]
      by_cases e : b = h
      · rw [if_pos e]
        exact congrArg (fun k : Fin 8 => t.share.sets[k]) e.symm
      · rw [if_neg e]
  obtain ⟨inside, -⟩ := foldl_at (π := fun t => t.share.sets[g]) (a := g) (s₀ := s)
    (fun t b => passes_openSet s₂ b t) (fun t b _ hb => (one t b g).trans (if_neg hb)) eight s (Passes.refl s) (by decide)
  obtain ⟨t, passes, same, moved⟩ := inside (mem_eight g)
  obtain ⟨⟨-, -, -, -, -, -, -, -, conf, -⟩, -⟩ := passes
  refine moved.trans ((one t g g).trans ((if_pos rfl).trans ?_))
  rw [same, conf]

theorem opensNow_iff (s : State) (g : Fin 8) :
    opensNow s g = true ↔
      s.plant.sets[g].state = .unloading ∧ s.share.sets[g].unload = .ramping ∧
        (s.share.sets[g].k = 0 ∨ s.scan.kw[g].validity = .valid ∧
          s.scan.kw[g].value ≤ (s.conf.sets[g]).rating * (settings s).openThr / 1000) := by
  simp only [opensNow, Bool.and_eq_true, Bool.or_eq_true, decide_eq_true_iff, and_assoc]
  exact Iff.rfl

/-! ### The sharing period (03 R42) -/

/-- The period timer started anew. -/
def periodStarted (s : State) : State := { s with share.period := some (settings s).sharePeriod }

theorem sharingPass_eq (s : State) :
    sharingPass s =
      openAll (eachIsland four passIsland (periodStarted s)) (eachIsland four passIsland (periodStarted s)) := rfl

theorem passes_sharingPass (s : State) : Passes (periodStarted s) (sharingPass s) := by
  rw [sharingPass_eq]
  exact (passes_eachIsland _).trans (passes_foldl (fun t g => passes_openSet _ g t) eight _)

/-- Every ramp counter limited to N. -/
def capAll (s : State) : State :=
  { s with share.sets := tab (fun _ x => { x with k := min x.k (settings s).rampN }) s.share.sets }

theorem capAll_get (s : State) (g : Fin 8) : (capAll s).share.sets[g] = (s.share.sets[g]).capped (settings s).rampN :=
  get_tab (fun _ => ShareRt.capped (settings s).rampN) s.share.sets g

/-- An online set after the passes of all islands. -/
theorem eachIsland_online {s : State} {i : Fin 4} {a : Account} {g : Fin 8} (ha : s.plant.accounts[i] = some a)
    (hd : a.dead = false) (hg : g ∈ onlineSets s i) :
    (eachIsland four passIsland s).share.sets[g] =
      (((s.share.sets[g]).capped (settings s).rampN).steppedBy
        (stepOf (capAll s) (figures (capAll s) i a.freq (onlineSets s i)) g)).ramped
          (rampNext (capAll s) (settings s).rampN g) := by
  obtain ⟨t, passes, same, moved⟩ := passes_island s i
  have online := passes.online i
  obtain ⟨⟨plant, scan, sync, -, -, -, prof, -, conf, -⟩, -⟩ := passes
  have account : t.plant.accounts[i] = some a := by rw [plant]; exact ha
  have n : settings t = settings s := settings_of prof
  have cap : Passes t (capOn (settings s).rampN (onlineSets s i) t) := passes_foldl (fun t g => passes_updShare g _ t) _ t
  have reads : ReadsAs (onlineSets s i) (capAll s) (capOn (settings s).rampN (onlineSets s i) t) := by
    obtain ⟨⟨cplant, cscan, csync, -, -, -, cprof, -, cconf, -⟩, -⟩ := cap
    refine ⟨congrArg Plant.sets (cplant.trans plant), cscan.trans scan, csync.trans sync, cprof.trans prof,
      cconf.trans conf, fun h hh => ?_⟩
    rw [capOn_get (onlineSets_nodup s i), if_pos hh, same h hh, capAll_get]
  rw [moved g hg, passIsland_live account hd, online, passOn_get (onlineSets_nodup s i), if_pos hg, same g hg, n,
    readsAs_figures reads, readsAs_step reads _ hg, readsAs_ramp reads _ hg]

/-! ### Roles, figures, steps and ramps (03 R43 to R50) -/

section
variable {s : State} {g : Fin 8}

/-- What makes an online set a held one. -/
def HeldRole (s : State) (g : Fin 8) : Prop :=
  s.scan.kw[g].validity ≠ .valid ∨ s.prof.active.sets[g].mode = .hold ∨
    s.plant.sets[g].state = .unloading ∧ s.share.sets[g].unload = .opening

theorem roleOf_held (h : HeldRole s g) : roleOf s g = .held := by
  unfold roleOf
  by_cases hv : s.scan.kw[g].validity ≠ .valid
  · exact if_pos hv
  · rw [if_neg hv]
    by_cases ho : s.plant.sets[g].state = .unloading ∧ s.share.sets[g].unload = .opening
    · exact if_pos ho
    · rw [if_neg ho]
      have hold : s.prof.active.sets[g].mode = .hold := (h.resolve_left hv).resolve_right ho
      rw [hold]

theorem roleOf_mode (h : ¬ HeldRole s g) :
    roleOf s g = match s.prof.active.sets[g].mode with | .share => .share | .base => .base | .hold => .held := by
  obtain ⟨hv, h⟩ := not_or.1 h
  obtain ⟨-, ho⟩ := not_or.1 h
  exact (if_neg hv).trans (if_neg ho)

theorem roleOf_share (h : ¬ HeldRole s g) (hm : s.prof.active.sets[g].mode = .share) : roleOf s g = .share := by
  rw [roleOf_mode h, hm]

theorem roleOf_base (h : ¬ HeldRole s g) (hm : s.prof.active.sets[g].mode = .base) : roleOf s g = .base := by
  rw [roleOf_mode h, hm]

end

theorem hasShare_iff (s : State) (i : Fin 4) (freq : Option Nat) (on : List (Fin 8)) :
    (figures s i freq on).hasShare = true ↔ ∃ g ∈ on, roleOf s g = .share := by
  change (!(on.filter fun g => decide (roleOf s g = .share)).isEmpty) = true ↔ _
  rw [Bool.not_eq_true', List.isEmpty_eq_false_iff_exists_mem]
  refine exists_congr fun g => ?_
  rw [List.mem_filter, decide_eq_true_iff]

theorem freqTarget_other {s : State} {i : Fin 4} (h : ∀ r, s.sync.req = some r → r.inIsland ≠ some i) :
    freqTarget s i = s.conf.general.nominal := by
  unfold freqTarget
  split
  next r hr => rw [if_neg (h r hr), Int.add_zero]
  next => exact Int.add_zero _

theorem freqTarget_incoming {s : State} {i : Fin 4} {r : SyncReq} (hr : s.sync.req = some r) (hi : r.inIsland = some i) :
    freqTarget s i = (s.conf.general.nominal : Int) + s.sync.offset := by
  unfold freqTarget
  rw [hr]
  exact congrArg _ (if_pos hi)

section
variable {s : State} {n : Nat} {g : Fin 8}

theorem rampNext_sharing (hs : s.plant.sets[g].state = .online) (hm : s.prof.active.sets[g].mode = .share) :
    rampNext s n g =
      if s.scan.kw[g].validity = .valid then
        (if s.share.sets[g].k < n then s.share.sets[g].k + 1 else n) else s.share.sets[g].k := by
  cases hu : s.share.sets[g].unload <;> simp only [rampNext, hs, hm, hu]

theorem rampNext_steady (hs : s.plant.sets[g].state = .online)
    (hm : s.prof.active.sets[g].mode = .base ∨ s.prof.active.sets[g].mode = .hold) : rampNext s n g = n := by
  rcases hm with hm | hm <;> cases hu : s.share.sets[g].unload <;> simp only [rampNext, hs, hm, hu]

theorem rampNext_unloading {u : UnloadStage} (hs : s.plant.sets[g].state = .unloading) (hu : s.share.sets[g].unload = u) :
    rampNext s n g = if u = .ramping then s.share.sets[g].k - 1 else s.share.sets[g].k := by
  unfold rampNext
  rw [hs, hu]
  cases u <;> rfl

end

/-- The limit of a step (03 R48). -/
def stepLimit (w : Settings) (x : Int) : Int := clamp (-(w.smax : Int)) w.smax (x.tdiv 64)

section
variable {s : State} {f : Figures} {g : Fin 8}

theorem stepOf_held (h : roleOf s g = .held) : stepOf s f g = none := by
  unfold stepOf
  rw [h]

theorem stepOf_share (h : roleOf s g = .share) :
    stepOf s f g =
      some (stepLimit (settings s)
        ((settings s).gl * scaledError s (shareTarget s f g) g + (settings s).gf * f.ferr)) := by
  unfold stepOf
  rw [h]
  rfl

theorem stepOf_base (h : roleOf s g = .base) :
    stepOf s f g =
      some (if f.hasShare then
          stepLimit (settings s) ((settings s).gl * scaledError s (baseTarget s (settings s).rampN g) g)
        else
          stepLimit (settings s)
            ((settings s).gl * scaledError s (baseTarget s (settings s).rampN g) g + (settings s).gf * f.ferr)) := by
  unfold stepOf
  rw [h]
  rfl

end

theorem sub_sub_cast (a b c : Nat) : ((a - b - c : Nat) : Int) = max 0 ((a : Int) - b - c) := by omega

/-- A step, if there is one, in the terms of the bias. -/
theorem steppedBy_keeps (o : Option Int) (r : ShareRt) :
    (r.steppedBy o).bias = (match o with | some st => clamp (-1000) 1000 (r.bias + st) | none => r.bias) ∧
      (r.steppedBy o).unload = r.unload ∧ (r.steppedBy o).openPulse = r.openPulse := by
  cases o with
  | none => exact ⟨rfl, rfl, rfl⟩
  | some st =>
    obtain ⟨bias, -, unload, pulse, -⟩ := ShareRt.stepped_keeps st r
    exact ⟨bias, unload, pulse⟩

/-- Whether a set's opening begins, from what its record holds after the passes. -/
theorem opensNow_pass {s t : State} {g : Fin 8} (ht : Passes s t) :
    opensNow t g = true ↔
      s.plant.sets[g].state = .unloading ∧ t.share.sets[g].unload = .ramping ∧
        (t.share.sets[g].k = 0 ∨ s.scan.kw[g].validity = .valid ∧
          s.scan.kw[g].value ≤ (s.conf.sets[g]).rating * (settings s).openThr / 1000) := by
  obtain ⟨⟨plant, scan, -, -, -, -, prof, -, conf, -⟩, -⟩ := ht
  rw [opensNow_iff, plant, scan, conf, settings_of prof]

/-- The record of an online set after the passes of all islands, read from `q`. -/
theorem eachIsland_record {s q : State} {i : Fin 4} {a : Account} {g : Fin 8} (ha : s.plant.accounts[i] = some a)
    (hd : a.dead = false) (hg : g ∈ onlineSets s i) (hq : ReadsAs (onlineSets s i) q (capAll (periodStarted s))) :
    (eachIsland four passIsland (periodStarted s)).share.sets[g] =
      (((s.share.sets[g]).capped (settings s).rampN).steppedBy
        (stepOf q (figures q i a.freq (onlineSets s i)) g)).ramped (rampNext q (settings s).rampN g) := by
  have record := eachIsland_online (s := periodStarted s) ha hd hg
  rw [show onlineSets (periodStarted s) i = onlineSets s i from rfl, readsAs_figures hq, readsAs_step hq _ hg,
    readsAs_ramp hq _ hg] at record
  exact record

/-- What the sharing pass makes of an online set (03 R49, R50, R56, R57). -/
theorem sharingPass_online {s q : State} {i : Fin 4} {a : Account} {g : Fin 8} (ha : s.plant.accounts[i] = some a)
    (hd : a.dead = false) (hg : g ∈ onlineSets s i) (hq : ReadsAs (onlineSets s i) q (capAll (periodStarted s))) :
    (sharingPass s).biasOut g =
      (match stepOf q (figures q i a.freq (onlineSets s i)) g with
        | some st => clamp (-1000) 1000 (s.biasOut g + st)
        | none => s.biasOut g) ∧
    (sharingPass s).share.sets[g].k = rampNext q (settings s).rampN g ∧
    (s.plant.sets[g].state = .unloading → s.share.sets[g].unload = .ramping →
      if rampNext q (settings s).rampN g = 0 ∨
          (s.scan.kw[g].validity = .valid ∧
            s.scan.kw[g].value ≤ (s.conf.sets[g]).rating * (settings s).openThr / 1000) then
        (sharingPass s).share.sets[g].unload = .opening ∧
          (sharingPass s).share.sets[g].openPulse = some s.conf.sync.pulse ∧
          (sharingPass s).share.sets[g].openWait = some s.conf.sync.confirm
      else (sharingPass s).share.sets[g].unload = .ramping ∧
        (sharingPass s).share.sets[g].openPulse = s.share.sets[g].openPulse) := by
  have passes := passes_eachIsland (periodStarted s)
  have opens := opensNow_pass (g := g) passes
  have conf : (eachIsland four passIsland (periodStarted s)).conf = s.conf := by
    obtain ⟨⟨-, -, -, -, -, -, -, -, conf, -⟩, -⟩ := passes
    exact conf
  have record := eachIsland_record ha hd hg hq
  have after := openAll_get (eachIsland four passIsland (periodStarted s)) g (eachIsland four passIsland (periodStarted s))
  rw [← sharingPass_eq, conf] at after
  obtain ⟨bias, unload, pulse⟩ := steppedBy_keeps (stepOf q (figures q i a.freq (onlineSets s i)) g)
    ((s.share.sets[g]).capped (settings s).rampN)
  generalize sharingPass s = t at *
  generalize eachIsland four passIsland (periodStarted s) = e at *
  have ebias : e.share.sets[g].bias = _ := (congrArg ShareRt.bias record).trans bias
  have ek : e.share.sets[g].k = rampNext q (settings s).rampN g := congrArg ShareRt.k record
  have eunload : e.share.sets[g].unload = s.share.sets[g].unload := (congrArg ShareRt.unload record).trans unload
  have epulse : e.share.sets[g].openPulse = s.share.sets[g].openPulse := (congrArg ShareRt.openPulse record).trans pulse
  have kept : t.share.sets[g].bias = e.share.sets[g].bias ∧ t.share.sets[g].k = e.share.sets[g].k := by
    rw [after]
    split <;> exact ⟨rfl, rfl⟩
  refine ⟨kept.1.trans ebias, kept.2.trans ek, fun hs hu => ?_⟩
  have opens : opensNow e g = true ↔ rampNext q (settings s).rampN g = 0 ∨ s.scan.kw[g].validity = .valid ∧
      s.scan.kw[g].value ≤ (s.conf.sets[g]).rating * (settings s).openThr / 1000 := by
    rw [opens, ek]
    exact ⟨fun ⟨_, _, h⟩ => h, fun h => ⟨hs, eunload.trans hu, h⟩⟩
  by_cases ho : rampNext q (settings s).rampN g = 0 ∨ s.scan.kw[g].validity = .valid ∧
      s.scan.kw[g].value ≤ (s.conf.sets[g]).rating * (settings s).openThr / 1000
  · rw [if_pos ho, after, if_pos (opens.2 ho)]
    exact ⟨rfl, rfl, rfl⟩
  · rw [if_neg ho, after, if_neg fun k => ho (opens.1 k)]
    exact ⟨eunload.trans hu, epulse⟩

/-- The sharing pass leaves a set that is not online. -/
theorem sharingPass_offline {s : State} {g : Fin 8} (h : s.plant.sets[g].state.isOnline = false) :
    (sharingPass s).share.sets[g] = s.share.sets[g] := by
  have shut : ¬ opensNow (eachIsland four passIsland (periodStarted s)) g = true := by
    rw [opensNow_pass (passes_eachIsland (periodStarted s))]
    rintro ⟨hs, -⟩
    rw [show s.plant.sets[g].state = .unloading from hs] at h
    cases h
  rw [sharingPass_eq, openAll_get, if_neg shut]
  exact eachIsland_offline (s := periodStarted s) h

/-- The records that the pass reads, the period timer aside. -/
theorem readsAs_capAll (on : List (Fin 8)) {p : State} {n : Nat} (h : n = (settings p).rampN) :
    ReadsAs on { p with share.sets := tab (fun _ x => { x with k := min x.k n }) p.share.sets }
      (capAll (periodStarted p)) := by
  subst h
  exact ⟨rfl, rfl, rfl, rfl, rfl, fun _ _ => rfl⟩

theorem exec_sharingPeriodExpiry {r : Nat} {s : State} (h : s.share.period = some r) :
    exec .sharingPeriodExpiry s = .next (sharingPass (elapse r s)) := by
  change execSharingPeriodExpiry s = _
  rw [execSharingPeriodExpiry, h, onExpiry_some]

/-- Settles O36. -/
theorem sharingPassSteps : Obligations.SharingPassSteps := by
  refine ⟨fun r s h => ?_, fun s g => ⟨roleOf_held, roleOf_share, roleOf_base⟩, fun s i freq on => ?_, fun s n g => ?_⟩
  · have run := exec_sharingPeriodExpiry h
    have hsets : (elapse r s).plant.sets = s.plant.sets := elapse_sets r s
    have haccounts : (elapse r s).plant.accounts = s.plant.accounts := elapse_accounts r s
    have hprof : (elapse r s).prof = s.prof := elapse_prof r s
    have hconf : (elapse r s).conf = s.conf := elapse_conf r s
    have hstart : (elapse r s).start = s.start := elapse_start r s
    have hpending : (elapse r s).pending = s.pending := elapse_pending r s
    have hkw : (elapse r s).scan.kw = s.scan.kw := elapse_kw r s
    have hbias (g : Fin 8) : (elapse r s).share.sets[g].bias = s.share.sets[g].bias := elapse_bias r s g
    have hk (g : Fin 8) : (elapse r s).share.sets[g].k = s.share.sets[g].k := elapse_k r s g
    have hunload (g : Fin 8) : (elapse r s).share.sets[g].unload = s.share.sets[g].unload := elapse_unload r s g
    have online (i : Fin 4) : onlineSets (elapse r s) i = onlineSets s i :=
      onlineSets_of (elapse_partition r s) hsets hconf i
    have reads (i : Fin 4) := readsAs_capAll (onlineSets s i) (p := elapse r s) (n := (settings s).rampN)
      (congrArg Settings.rampN (settings_of hprof).symm)
    dsimp only
    generalize elapse r s = p at *
    have hw : settings p = settings s := settings_of hprof
    generalize ({ p with share.sets := tab (fun _ x => { x with k := min x.k (settings s).rampN }) p.share.sets } : State) = q at *
    have passes := passes_sharingPass p
    obtain ⟨⟨plant, scan, sync, shed, resv, line, prof, start, conf, pending, period⟩, notices, links, clock, joint⟩ := passes
    refine ⟨_, run, ?_, fun i a g ha hd hg => ?_, fun g hg => ?_, notices, links, clock, joint, plant,
      scan, sync, shed, resv, line, prof.trans hprof, start.trans hstart, conf.trans hconf, pending.trans hpending⟩
    · exact period.trans (congrArg (fun x : Settings => some x.sharePeriod) hw)
    · rw [← haccounts] at ha
      rw [← online] at hg
      obtain ⟨bias, k, opening⟩ := sharingPass_online ha hd hg (by rw [online]; exact reads i)
      rw [online, show p.biasOut g = s.biasOut g from hbias g] at bias
      rw [hw] at k opening
      rw [hsets, hunload, hkw, hconf] at opening
      exact ⟨bias, k, opening⟩
    · have same := sharingPass_offline (s := p) (g := g) (by rw [hsets]; exact hg)
      rw [State.gcbOpen, State.gcbOpen, same]
      exact ⟨hbias g, hk g, hunload g, rfl⟩
  · dsimp only
    refine ⟨?_, rfl, hasShare_iff s i freq on, fun h => ?_, fun m h => ⟨fun hn => ?_, fun r hr hi => ?_⟩, fun g =>
      ⟨stepOf_held, fun hs hp => ?_, fun hs hp => ⟨_, stepOf_share hs⟩, fun hb hh => ?_, fun hb hh => ?_⟩⟩
    · exact sub_sub_cast _ _ _
    · rw [h]
      rfl
    · rw [h]
      exact congrArg (fun x => clamp (-2000) 2000 (x - (m : Int))) (freqTarget_other hn)
    · rw [h]
      exact congrArg (fun x => clamp (-2000) 2000 (x - (m : Int))) (freqTarget_incoming hr hi)
    · rw [stepOf_share hs, shareTarget_eq hp]
      rfl
    · rw [stepOf_base hb, if_pos hh]
      rfl
    · rw [stepOf_base hb, if_neg (by rw [hh]; exact Bool.false_ne_true)]
      rfl
  · dsimp only
    refine ⟨fun hs hm hv hk => ?_, fun hs hm hv => ?_, fun hs hm => ?_, fun hs hu => ?_, fun hs hu => ?_⟩
    · rw [rampNext_sharing hs hm, if_pos hv]
      split <;> omega
    · rw [rampNext_sharing hs hm]
      exact if_neg hv
    · exact rampNext_steady hs hm
    · rw [rampNext_unloading hs hu, if_pos rfl]
    · rw [rampNext_unloading hs hu]
      rfl

end Sys2Proof.Machine

/-! UNLOAD, its aborts and its timers (03 R55 to R59). -/

namespace Sys2Proof.Machine

/-! ### UNLOAD (03 R55) -/

section
variable {l : Link} {seq : Byte} {s : State}

/-- UNLOAD of a set number is answered with what the Sharing Engine does. -/
theorem exec_unload (ht : Takes l s) (n : Byte) :
    exec (.unload l seq [n]) s =
      .next (answerTo l 18 seq (unloadSet [(n.toNat : Int)] (validFrame l s)).2 (unloadSet [(n.toNat : Int)] (validFrame l s)).1) :=
  congrArg Host.Outcome.next (request_taken rfl (readFields_one n) (by decide) ht)

theorem unloadSet_badField {v : Nat} (h : 8 ≤ v) : unloadSet [(v : Int)] s = (s, .refused .badField) := by
  unfold unloadSet
  rw [arg_zero, index_none h]
  rfl

/-- UNLOAD of a set, after the set number is read. -/
theorem unloadSet_index (g : Fin 8) :
    unloadSet [(g.val : Int)] s =
      if ¬ setPresent s g = true then (s, .refused .notPresent)
      else if ¬ s.running = true then (s, .refused .wrongState)
      else if s.share.sets[g].unload ≠ .none then (s, .busy)
      else if s.plant.sets[g].state ≠ .online then (s, .refused .notReady)
      else if ¬ otherOnline s g = true then (s, .refused .lastSet)
      else if ¬ capacityOk s g = true then (s, .refused .capacity)
      else
        (updateSetIsland s g (updShare g (fun r => { r with unload := .ramping }) (setSetState g .unloading s)), .ok) := by
  unfold unloadSet
  rw [arg_zero, index_nat]
  rfl

theorem byte_of_set (g : Fin 8) : ((BitVec.ofNat 8 g.val).toNat : Int) = (g.val : Int) := by
  have small : g.val < 2 ^ 8 := by omega
  rw [BitVec.toNat_ofNat, Nat.mod_eq_of_lt small]

variable {g : Fin 8}

theorem otherOnline_iff {i : Fin 4} (h : setIsland s g = some i) :
    otherOnline s g = true ↔ ∃ k ∈ capacitySets s i, k ≠ g := by
  unfold otherOnline
  rw [h]
  simp only [List.any_eq_true, decide_eq_true_iff]

theorem capacityOk_iff {i : Fin 4} {a : Account} (h : setIsland s g = some i) (ha : s.plant.accounts[i] = some a) :
    capacityOk s g = true ↔
      a.isOver = false ∧ a.load + a.resv + (s.conf.sets[g]).rating * (settings s).loadLimit / 1000 ≤ a.cap := by
  unfold capacityOk
  rw [h]
  simp only [ha, Bool.and_eq_true, Bool.not_eq_true', decide_eq_true_iff]
  exact Iff.rfl

end

/-- What UNLOAD reads, after a valid frame. -/
theorem validFrame_capacitySets (l : Link) (s : State) (i : Fin 4) : capacitySets (validFrame l s) i = capacitySets s i := by
  unfold capacitySets setIsland
  refine List.filter_congr fun g _ => ?_
  rw [setPresent_of (validFrame_conf l s), validFrame_plant, validFrame_conf,
    islandOf_of (congrArg Plant.partition (validFrame_plant l s))]

theorem validFrame_setIsland (l : Link) (s : State) (g : Fin 8) : setIsland (validFrame l s) g = setIsland s g := by
  unfold setIsland
  rw [validFrame_conf, islandOf_of (congrArg Plant.partition (validFrame_plant l s))]

/-- UNLOAD, command by command. -/
theorem unload_answers (l : Link) (seq : Byte) {s : State} (ht : Takes l s) :
    let v := validFrame l s
    (∀ n : Byte, 8 ≤ n.toNat → exec (.unload l seq [n]) s = .next (turnedAway l 18 seq (.refused .badField) s)) ∧
    ∀ g : Fin 8,
      let c := Instr.unload l seq [BitVec.ofNat 8 g.val]
      (setPresent s g = false → exec c s = .next (turnedAway l 18 seq (.refused .notPresent) s)) ∧
      (setPresent s g = true → s.running = false →
        exec c s = .next (turnedAway l 18 seq (.refused .wrongState) s)) ∧
      (setPresent s g = true → s.running = true → s.share.sets[g].unload ≠ .none →
        exec c s = .next (turnedAway l 18 seq .busy s)) ∧
      (setPresent s g = true → s.running = true → s.share.sets[g].unload = .none →
        (s.plant.sets[g].state ≠ .online → exec c s = .next (turnedAway l 18 seq (.refused .notReady) s)) ∧
        ∀ (i : Fin 4) (a : Account), s.plant.sets[g].state = .online → setIsland s g = some i →
          s.plant.accounts[i] = some a →
          ((∀ h ∈ capacitySets s i, h = g) → exec c s = .next (turnedAway l 18 seq (.refused .lastSet) s)) ∧
          ((∃ h ∈ capacitySets s i, h ≠ g) →
            let part := (s.conf.sets[g]).rating * (settings s).loadLimit / 1000
            ((a.isOver = true ∨ a.cap < a.load + a.resv + part) →
              exec c s = .next (turnedAway l 18 seq (.refused .capacity) s)) ∧
            (a.isOver = false → a.load + a.resv + part ≤ a.cap →
              let q := updShare g (fun r => { r with unload := .ramping }) (setSetState g .unloading v)
              exec c s = .next (answerTo l 18 seq .ok (updateSetIsland v g q)) ∧
              UpdateFrame q (updateSetIsland v g q)))) := by
  intro v
  refine ⟨fun n hn => ?_, fun g => ?_⟩
  · rw [exec_unload ht, unloadSet_badField hn]
    rfl
  intro c
  have run : exec c s = .next (answerTo l 18 seq (unloadSet [(g.val : Int)] v).2 (unloadSet [(g.val : Int)] v).1) := by
    rw [exec_unload ht, byte_of_set]
  have away {r : Reply} (h : unloadSet [(g.val : Int)] v = (v, r)) : exec c s = .next (turnedAway l 18 seq r s) := by
    rw [run, h]
    rfl
  have index := unloadSet_index (s := v) g
  have present : setPresent v g = setPresent s g := setPresent_of (validFrame_conf l s) g
  have running : v.running = s.running := validFrame_running l s
  have share : v.share = s.share := validFrame_share l s
  have plant : v.plant = s.plant := validFrame_plant l s
  have conf : v.conf = s.conf := validFrame_conf l s
  have blocks : settings v = settings s := settings_of (validFrame_prof l s)
  rw [present, running, share, plant] at index
  refine ⟨fun hp => away (index.trans (if_pos (by rw [hp]; exact Bool.false_ne_true))), fun hp hr => ?_,
    fun hp hr hu => ?_, fun hp hr hu => ⟨fun hs => ?_, fun i a hs hi ha => ?_⟩⟩
  · exact away (index.trans ((if_neg (not_not.2 hp)).trans (if_pos (by rw [hr]; exact Bool.false_ne_true))))
  · rw [if_neg (not_not.2 hp), if_neg (not_not.2 hr), if_pos hu] at index
    exact away index
  · rw [if_neg (not_not.2 hp), if_neg (not_not.2 hr), if_neg (not_not.2 hu), if_pos hs] at index
    exact away index
  · rw [if_neg (not_not.2 hp), if_neg (not_not.2 hr), if_neg (not_not.2 hu), if_neg (not_not.2 hs)] at index
    have island : setIsland v g = some i := (validFrame_setIsland l s g).trans hi
    have account : v.plant.accounts[i] = some a := by rw [plant]; exact ha
    have other := otherOnline_iff island
    have capacity := capacityOk_iff island account
    rw [validFrame_capacitySets] at other
    rw [conf, blocks] at capacity
    refine ⟨fun hl => ?_, fun ho => ⟨fun hc => ?_, fun hover hcap => ⟨?_, ?_⟩⟩⟩
    · rw [if_pos fun k => (other.1 k).elim fun h ⟨hm, hne⟩ => hne (hl h hm)] at index
      exact away index
    · have full : ¬ capacityOk v g = true := by
        rw [capacity]
        rintro ⟨hover, hcap⟩
        rcases hc with hc | hc
        · exact absurd (hover.symm.trans hc) Bool.false_ne_true
        · exact absurd hcap (not_le.2 hc)
      rw [if_neg (not_not.2 (other.2 ho)), if_pos full] at index
      exact away index
    · rw [if_neg (not_not.2 (other.2 ho)), if_neg (not_not.2 (capacity.2 ⟨hover, hcap⟩))] at index
      rw [run, index]
    · exact (updates_updateSetIsland v g _).1

/-! ### The aborts of an account update (03 R59) -/

theorem mem_rampingSets (s : State) (i : Fin 4) (g : Fin 8) :
    g ∈ rampingSets s i ↔
      g ∈ onlineSets s i ∧ s.plant.sets[g].state = .unloading ∧ s.share.sets[g].unload = .ramping := by
  rw [rampingSets, List.mem_filter, Bool.and_eq_true, decide_eq_true_iff, decide_eq_true_iff]

/-- The cause of the aborts that an account calls for. -/
def abortsFor (s : State) (i : Fin 4) (a : Account) : Option Int :=
  if capacitySets s i = [] then some 2 else if a.isOver then some 1 else none

/-- The unloads of the ramping sets aborted, and the account taken again. -/
def rampsAborted (c : Int) (i : Fin 4) (s : State) : State :=
  recompute [i] ((rampingSets s i).foldl (fun t g => abortUnload c g t) s)

theorem abortUnloads_cases {i : Fin 4} {a : Account} {s : State} (ha : s.plant.accounts[i] = some a) :
    abortUnloads i s =
      if rampingSets s i = [] then s
      else match abortsFor s i a with
        | some c => rampsAborted c i s
        | none => s := by
  unfold abortUnloads abortsFor
  rw [ha]
  dsimp only
  simp only [List.isEmpty_iff]
  by_cases hr : rampingSets s i = []
  · rw [if_pos hr, if_pos hr]
  · rw [if_neg hr, if_neg hr]
    by_cases hc : capacitySets s i = []
    · rw [if_pos hc, if_pos hc]
      rfl
    · rw [if_neg hc, if_neg hc]
      by_cases ho : a.isOver = true
      · rw [if_pos ho, if_pos ho]
        rfl
      · rw [if_neg ho, if_neg ho]

/-- What the aborts leave. -/
theorem rampsAborted_effect (c : Int) (i : Fin 4) (s : State) :
    (∀ g ∈ rampingSets s i, (rampsAborted c i s).plant.sets[g].state = .online ∧
      (rampsAborted c i s).share.sets[g].k = (settings s).rampN ∧ (rampsAborted c i s).share.sets[g].unload = .none ∧
      (rampsAborted c i s).biasOut g = s.biasOut g ∧
      Sent (newNotice .unloadAborted (some g.val) (some c) s) (rampsAborted c i s)) ∧
    (∀ g, g ∉ rampingSets s i → (rampsAborted c i s).plant.sets[g] = s.plant.sets[g] ∧
      (rampsAborted c i s).share.sets[g] = s.share.sets[g]) ∧
    (∀ b, (rampsAborted c i s).plant.accounts[i] = some b → AccountOf (rampsAborted c i s) i b) ∧
    ∀ j : Fin 4, j ≠ i → (rampsAborted c i s).plant.accounts[j] = s.plant.accounts[j] := by
  have nodup : (rampingSets s i).Nodup := List.Nodup.filter _ (onlineSets_nodup s i)
  obtain ⟨taken, others, -, accounts, -⟩ := abortUnload_list c (rampingSets s i) nodup s
  refine ⟨taken, others, fun b => recompute_accountOf, fun j hj => ?_⟩
  refine (recompute_unlisted (fun h => hj (List.mem_singleton.1 h))).trans ?_
  exact congrArg (fun v : Vector (Option Account) 4 => v[j]) accounts

/-! ### The timers of an opening (03 R57, R58) -/

theorem exec_openConfirmWaitExpiry {g : Fin 8} {r : Nat} {s : State} (h : s.share.sets[g].openWait = some r) :
    exec (.openConfirmWaitExpiry g) s = .next (unloadFails g (elapse r s)) := by
  change execOpenConfirmWaitExpiry g s = _
  rw [execOpenConfirmWaitExpiry, h, onExpiry_some]

/-- A notice just sent, in the terms of an earlier state with the same generation and clock. -/
theorem sent_notify_of {s t : State} (h : SameStamp s t) (k : NoticeKind) (a : Option Nat) (v : Option Int) :
    Sent (newNotice k a v s) (notify k a v t) := by
  rw [← newNotice_of h.1 h.2]
  exact sent_notify_self k a v t

/-- An unload that fails (03 R58). -/
theorem unloadFails_effect {g : Fin 8} {s : State} (hs : s.plant.sets[g].state = .unloading) :
    let t := unloadFails g s
    t.plant.sets[g].state = .online ∧ t.share.sets[g].k = (settings s).rampN ∧ t.biasOut g = s.biasOut g ∧
      t.share.sets[g].unload = .none ∧ t.share.sets[g].openWait = none ∧ t.gcbOpen g = false ∧
      Sent (newNotice .unloadFailed (some g.val) none s) t ∧
      (∀ h : Fin 8, h ≠ g → t.biasOut h = s.biasOut h ∧ t.gcbOpen h = s.gcbOpen h) ∧
      (∀ i, getFilter t i = getFilter s i) ∧ t.scan = s.scan ∧ t.sync = s.sync ∧ t.prof = s.prof ∧
      t.start = s.start ∧ t.conf = s.conf := by
  have run : unloadFails g s = notify .unloadFailed (some g.val) none
      (updShare g (fun r => { r with openPulse := none }) (updateSetIsland s g (toOnline g (settings s).rampN s))) :=
    if_pos hs
  have others (h : Fin 8) : (toOnline g (settings s).rampN s).share.sets[h] =
      if g = h then { s.share.sets[g] with k := (settings s).rampN, unload := .none, openWait := none }
      else s.share.sets[h] := get_upd ..
  have state : (toOnline g (settings s).rampN s).plant.sets[g].state = .online :=
    congrArg SetRt.state ((get_upd ..).trans (if_pos rfl) : (toOnline g (settings s).rampN s).plant.sets[g] = _)
  have filters : ∀ i, getFilter (toOnline g (settings s).rampN s) i = getFilter s i :=
    getFilter_of ⟨rfl, rfl, rfl, rfl, rfl⟩
  have stamp : SameStamp s (toOnline g (settings s).rampN s) := ⟨rfl, rfl⟩
  have blocks : (toOnline g (settings s).rampN s).scan = s.scan ∧ (toOnline g (settings s).rampN s).sync = s.sync ∧
    (toOnline g (settings s).rampN s).prof = s.prof ∧ (toOnline g (settings s).rampN s).start = s.start ∧
    (toOnline g (settings s).rampN s).conf = s.conf := ⟨rfl, rfl, rfl, rfl, rfl⟩
  dsimp only
  rw [run]
  generalize toOnline g (settings s).rampN s = q at *
  obtain ⟨set, record⟩ := updateSetIsland_set (b := s) (g := g) (h := g) (s := q) (by rw [state]; exact nofun)
  obtain ⟨⟨ufilters, ⟨-, ugeneration, -⟩, -, ⟨uscan, usync, uprof, ustart, uconf⟩, ushares, -, -, -, -, uclock, -⟩, -⟩ :=
    updates_updateSetIsland s g q
  generalize updateSetIsland s g q = u at *
  have final (h : Fin 8) : (updShare g (fun r => { r with openPulse := none }) u).share.sets[h] =
      if g = h then { u.share.sets[g] with openPulse := none } else u.share.sets[h] := updShare_get ..
  have self := (final g).trans (if_pos rfl)
  rw [record, others g, if_pos rfl] at self
  have notice := sent_notify_of (s := s) (t := updShare g (fun r => { r with openPulse := none }) u)
    ⟨ugeneration.trans stamp.1, uclock.trans stamp.2⟩ .unloadFailed (some g.val) none
  obtain ⟨qscan, qsync, qprof, qstart, qconf⟩ := blocks
  refine ⟨(congrArg SetRt.state set).trans state, (congrArg ShareRt.k self :), (congrArg ShareRt.bias self :),
    (congrArg ShareRt.unload self :), (congrArg ShareRt.openWait self :),
    (congrArg (fun x : ShareRt => x.openPulse.isSome) self :), notice, fun h hh => ?_,
    fun i => (getFilter_of ⟨rfl, rfl, rfl, rfl, rfl⟩ i).trans ((ufilters i).trans (filters i)), uscan.trans qscan,
    usync.trans qsync, uprof.trans qprof, ustart.trans qstart, uconf.trans qconf⟩
  have away : g ≠ h := Ne.symm hh
  have beside := (final h).trans (if_neg away)
  have before := (others h).trans (if_neg away)
  obtain ⟨ubias, uopen, -⟩ := ushares h
  exact ⟨(congrArg ShareRt.bias beside :).trans (ubias.trans (congrArg ShareRt.bias before)),
    (congrArg (fun x : ShareRt => x.openPulse.isSome) beside :).trans
      (uopen.trans (congrArg (fun x : ShareRt => x.openPulse.isSome) before))⟩

/-- Settles O38. -/
theorem unloadRuns : Obligations.UnloadRuns := by
  refine ⟨fun l seq s ht => unload_answers l seq ht, fun i a s ha => ?_, fun g r s h => ?_, fun g r s h => ⟨fun hs => ?_, fun hs => ?_⟩⟩
  · have cases_eq := abortUnloads_cases ha
    have mem := mem_rampingSets s i
    dsimp only
    refine ⟨fun h => ?_, fun c hc hg => ?_⟩
    · rw [cases_eq]
      by_cases hr : rampingSets s i = []
      · exact if_pos hr
      · rcases h with h | h
        · rw [if_neg hr, show abortsFor s i a = none from h]
        · obtain ⟨g, hg⟩ := List.exists_mem_of_ne_nil _ hr
          exact absurd ((mem g).1 hg) (h g)
    · obtain ⟨g, hg⟩ := hg
      have some_ramp : rampingSets s i ≠ [] := List.ne_nil_of_mem ((mem g).2 hg)
      have frame := (updates_abortUnloads i s).1
      rw [if_neg some_ramp, show abortsFor s i a = some c from hc] at cases_eq
      obtain ⟨taken, others, account, rest⟩ := rampsAborted_effect c i s
      rw [cases_eq] at frame ⊢
      exact ⟨fun k hk => taken k ((mem k).2 hk), fun k hk => others k fun hm => hk ((mem k).1 hm), account, rest, frame⟩
  · change execGcbOpenPulseExpiry g s = _
    rw [execGcbOpenPulseExpiry, h, onExpiry_some]
  · refine (exec_openConfirmWaitExpiry h).trans (congrArg Host.Outcome.next (if_neg ?_))
    rw [elapse_sets]
    exact hs
  · have unloading : (elapse r s).plant.sets[g].state = .unloading := by rw [elapse_sets]; exact hs
    obtain ⟨state, k, bias, unload, wait, shut, sent, others, filters, scan, sync, prof, start, conf⟩ :=
      unloadFails_effect unloading
    refine ⟨_, exec_openConfirmWaitExpiry h, state, ?_, bias.trans (elapse_bias r s g), unload, wait, shut, sent,
      fun k hk => ⟨(others k hk).1.trans (elapse_bias r s k), (others k hk).2⟩, filters, scan, sync,
      prof.trans (elapse_prof r s), start.trans (elapse_start r s), conf.trans (elapse_conf r s)⟩
    rw [k, settings_of (elapse_prof r s)]

end Sys2Proof.Machine

/-! The commands that begin a synchronisation (04 R65, R66), CLEAR TRIP (01 R11) and the banked writes of the image and of
the groups (01 R5, 05 R94). -/

namespace Sys2Proof.Machine

/-! ### Commands on the state after a valid frame -/

/-- A valid frame changes the interface alone. -/
theorem validFrame_eq (l : Link) (s : State) : validFrame l s = { s with link := (validFrame l s).link } := by
  obtain ⟨hplant, hscan, hshare, hsync, hshed, hresv, hline, hprof, hstart, hconf, hpending, -⟩ := validFrame_rest l s
  generalize validFrame l s = v at *
  obtain ⟨plant, scan, share, sync, shed, resv, line, link, prof, start, pending, conf⟩ := v
  cases hplant; cases hscan; cases hshare; cases hsync; cases hshed; cases hresv
  cases hline; cases hprof; cases hstart; cases hconf; cases hpending
  rfl

theorem byte_toNat {n : Nat} (h : n < 256) : ((BitVec.ofNat 8 n).toNat : Int) = (n : Int) := by
  rw [BitVec.toNat_ofNat, Nat.mod_eq_of_lt h]

/-- A request whose owner leaves the state as the frame left it is turned away. -/
theorem exec_turnedAway {c : Instr} {l : Link} {kind : Nat} {seq : Byte} {s : State} {p : State × Reply}
    (run : exec c s = .next (answerTo l kind seq p.2 p.1)) {r : Reply} (h : p = (validFrame l s, r)) :
    exec c s = .next (turnedAway l kind seq r s) := by
  rw [run, h]
  rfl

theorem exec_answered {c : Instr} {l : Link} {kind : Nat} {seq : Byte} {s t : State} {p : State × Reply}
    (run : exec c s = .next (answerTo l kind seq p.2 p.1)) {r : Reply} (h : p = (t, r)) :
    exec c s = .next (answerTo l kind seq r t) := by
  rw [run, h]

/-! ### CONNECT SET and CLOSE TIE (04 R65, R66) -/

section
variable (l : Link) (x : Nat) (s : State)

/-- CONNECT SET of a set, after its fields are read. -/
theorem connectSet_index (g : Fin 8) :
    connectSet l [(g.val : Int), (x : Int)] s =
      if ¬ s.running = true then (s, .refused .wrongState)
      else if s.sync.req.isSome = true then (s, .busy)
      else if (x : Int) ≠ (s.plant.generation : Int) then (s, .refused .stale)
      else if ¬ setPresent s g = true then (s, .refused .notPresent)
      else if s.plant.sets[g].state = .tripped then (s, .refused .tripped)
      else if ¬ connectReady s g = true then (s, .refused .notReady)
      else
        (takeSync (newReq s.conf.sync (.set g) l s.conf.sets[g].sect none none false) (setSetState g .incoming s), .ok) := by
  unfold connectSet
  rw [arg_zero, index_nat]
  rfl

theorem connectSet_badField {n : Nat} (h : 8 ≤ n) : connectSet l [(n : Int), (x : Int)] s = (s, .refused .badField) := by
  unfold connectSet
  rw [arg_zero, index_none h]
  rfl

/-- CLOSE TIE of a tie, after its fields are read. -/
theorem closeTie_index (k : Fin 4) :
    closeTie l [(k.val : Int), (x : Int)] s =
      if ¬ s.running = true then (s, .refused .wrongState)
      else if s.sync.req.isSome = true then (s, .busy)
      else if (x : Int) ≠ (s.plant.generation : Int) then (s, .refused .stale)
      else if ¬ tieUsable s k = true then (s, .refused .notPresent)
      else if s.plant.tie[k].filtered ≠ some false then (s, .refused .alreadyClosed)
      else
        (takeSync
          (newReq s.conf.sync (.tie k) l (tieLow k) (some (tieHigh k)) (islandOf s (tieHigh k))
            (decide (islandOf s (tieLow k) = islandOf s (tieHigh k)))) s, .ok) := by
  unfold closeTie
  rw [arg_zero, index_nat]
  rfl

theorem closeTie_badField {n : Nat} (h : 4 ≤ n) : closeTie l [(n : Int), (x : Int)] s = (s, .refused .badField) := by
  unfold closeTie
  rw [arg_zero, index_none h]
  rfl

/-- The checks of CONNECT SET read the state before the frame. -/
theorem connectSet_valid (g : Fin 8) :
    connectSet l [(g.val : Int), (x : Int)] (validFrame l s) =
      if ¬ s.running = true then (validFrame l s, .refused .wrongState)
      else if s.sync.req.isSome = true then (validFrame l s, .busy)
      else if (x : Int) ≠ (s.plant.generation : Int) then (validFrame l s, .refused .stale)
      else if ¬ setPresent s g = true then (validFrame l s, .refused .notPresent)
      else if s.plant.sets[g].state = .tripped then (validFrame l s, .refused .tripped)
      else if ¬ connectReady s g = true then (validFrame l s, .refused .notReady)
      else
        (takeSync (newReq s.conf.sync (.set g) l s.conf.sets[g].sect none none false)
          (setSetState g .incoming (validFrame l s)), .ok) := by
  rw [validFrame_eq l s]
  exact connectSet_index l x _ g

/-- The checks of CLOSE TIE read the state before the frame. -/
theorem closeTie_valid (k : Fin 4) :
    closeTie l [(k.val : Int), (x : Int)] (validFrame l s) =
      if ¬ s.running = true then (validFrame l s, .refused .wrongState)
      else if s.sync.req.isSome = true then (validFrame l s, .busy)
      else if (x : Int) ≠ (s.plant.generation : Int) then (validFrame l s, .refused .stale)
      else if ¬ tieUsable s k = true then (validFrame l s, .refused .notPresent)
      else if s.plant.tie[k].filtered ≠ some false then (validFrame l s, .refused .alreadyClosed)
      else
        (takeSync
          (newReq s.conf.sync (.tie k) l (tieLow k) (some (tieHigh k)) (islandOf s (tieHigh k))
            (decide (islandOf s (tieLow k) = islandOf s (tieHigh k)))) (validFrame l s), .ok) := by
  rw [validFrame_eq l s]
  exact closeTie_index l x _ k

end

theorem connectReady_iff (s : State) (g : Fin 8) :
    connectReady s g = true ↔
      s.plant.sets[g].state = .offline ∧ s.plant.ready[g].filtered = some true ∧ s.gcbOpen g = false := by
  simp only [connectReady, Bool.and_eq_true, decide_eq_true_iff, Bool.not_eq_true', and_assoc]

section
variable {l : Link} {seq : Byte} {s : State}

theorem exec_connectSet (ht : Takes l s) (n hi lo : Byte) :
    exec (.connectSet l seq [n, hi, lo]) s =
      .next (answerTo l 24 seq (connectSet l [(n.toNat : Int), ((hi ++ lo).toNat : Int)] (validFrame l s)).2
        (connectSet l [(n.toNat : Int), ((hi ++ lo).toNat : Int)] (validFrame l s)).1) :=
  congrArg Host.Outcome.next (request_taken rfl (readFields_oneTwo n hi lo) (by decide) ht)

theorem exec_closeTie (ht : Takes l s) (n hi lo : Byte) :
    exec (.closeTie l seq [n, hi, lo]) s =
      .next (answerTo l 25 seq (closeTie l [(n.toNat : Int), ((hi ++ lo).toNat : Int)] (validFrame l s)).2
        (closeTie l [(n.toNat : Int), ((hi ++ lo).toNat : Int)] (validFrame l s)).1) :=
  congrArg Host.Outcome.next (request_taken rfl (readFields_oneTwo n hi lo) (by decide) ht)

end

/-- Settles O39, down the checks of CONNECT SET in their order. -/
theorem connectSetChecks : Obligations.ConnectSetChecks := by
  intro l seq hi lo s ht v
  refine ⟨fun n hn => exec_turnedAway (exec_connectSet ht n hi lo) (connectSet_badField _ _ _ hn), fun g => ?_⟩
  intro c
  have run := exec_connectSet (seq := seq) ht (BitVec.ofNat 8 g.val) hi lo
  rw [byte_toNat (by omega)] at run
  have chain := connectSet_valid l (hi ++ lo).toNat s g
  refine ⟨fun hr => ?_, fun hr hq => ?_, fun hr hq => ?_⟩
  · rw [if_pos (by rw [hr]; exact Bool.false_ne_true)] at chain
    exact exec_turnedAway run chain
  · rw [if_neg (not_not.2 hr), if_pos hq] at chain
    exact exec_turnedAway run chain
  rw [if_neg (not_not.2 hr), if_neg (by rw [hq]; exact Bool.false_ne_true)] at chain
  refine ⟨fun hg => ?_, fun hg => ?_⟩
  · rw [if_pos (Int.ofNat_inj.not.2 hg)] at chain
    exact exec_turnedAway run chain
  rw [if_neg (not_not.2 (Int.ofNat_inj.2 hg))] at chain
  refine ⟨fun hp => ?_, fun hp => ?_⟩
  · rw [if_pos (by rw [hp]; exact Bool.false_ne_true)] at chain
    exact exec_turnedAway run chain
  rw [if_neg (not_not.2 hp)] at chain
  have ready := connectReady_iff s g
  refine ⟨fun hs => ?_, fun hs hn => ?_, fun hs hf ho => ?_⟩
  · rw [if_pos hs] at chain
    exact exec_turnedAway run chain
  · have turned : ¬ connectReady s g = true := by
      rw [ready]
      rintro ⟨offline, filtered, shut⟩
      rcases hn with hn | hn | hn
      · exact hn offline
      · exact hn filtered
      · exact absurd (shut.symm.trans hn) Bool.false_ne_true
    rw [if_neg hs, if_pos turned] at chain
    exact exec_turnedAway run chain
  · rw [if_neg (by rw [hs]; decide), if_neg (not_not.2 (ready.2 ⟨hs, hf, ho⟩))] at chain
    refine ⟨_, _, exec_answered run chain, rfl, rfl, rfl, rfl, rfl, rfl, rfl, rfl, rfl, rfl, rfl, rfl, rfl, rfl, rfl, rfl, ?_⟩
    refine ⟨?_, fun h hne => ?_, ?_⟩
    · exact (get_upd v.plant.sets g g _).trans ((if_pos rfl).trans (by rw [validFrame_plant]))
    · exact (get_upd_ne v.plant.sets (Ne.symm hne) _).trans (by rw [validFrame_plant])
    · exact ⟨validFrame_share l s, validFrame_shed l s, validFrame_resv l s, validFrame_line l s, validFrame_prof l s, rfl,
        validFrame_start l s⟩

/-- Settles O40, down the checks of CLOSE TIE in their order. -/
theorem closeTieChecks : Obligations.CloseTieChecks := by
  intro l seq hi lo s ht v
  refine ⟨fun n hn => exec_turnedAway (exec_closeTie ht n hi lo) (closeTie_badField _ _ _ hn), fun k => ?_⟩
  intro c
  have run := exec_closeTie (seq := seq) ht (BitVec.ofNat 8 k.val) hi lo
  rw [byte_toNat (by omega)] at run
  have chain := closeTie_valid l (hi ++ lo).toNat s k
  refine ⟨fun hr => ?_, fun hr hq => ?_, fun hr hq => ?_⟩
  · rw [if_pos (by rw [hr]; exact Bool.false_ne_true)] at chain
    exact exec_turnedAway run chain
  · rw [if_neg (not_not.2 hr), if_pos hq] at chain
    exact exec_turnedAway run chain
  rw [if_neg (not_not.2 hr), if_neg (by rw [hq]; exact Bool.false_ne_true)] at chain
  refine ⟨fun hg => ?_, fun hg => ?_⟩
  · rw [if_pos (Int.ofNat_inj.not.2 hg)] at chain
    exact exec_turnedAway run chain
  rw [if_neg (not_not.2 (Int.ofNat_inj.2 hg))] at chain
  refine ⟨fun hp => ?_, fun hp hf => ?_, fun hp hf => ?_⟩
  · rw [if_pos (by rw [hp]; exact Bool.false_ne_true)] at chain
    exact exec_turnedAway run chain
  · rw [if_neg (not_not.2 hp), if_pos hf] at chain
    exact exec_turnedAway run chain
  · rw [if_neg (not_not.2 hp), if_neg (not_not.2 hf)] at chain
    exact ⟨_, _, exec_answered run chain, rfl, rfl, rfl, rfl, rfl, rfl, rfl, rfl, rfl, rfl, rfl, rfl, rfl, rfl, rfl, rfl, rfl,
      validFrame_plant l s, validFrame_share l s, validFrame_shed l s, validFrame_resv l s, validFrame_line l s,
      validFrame_prof l s, rfl, validFrame_start l s⟩

/-! ### CLEAR TRIP (01 R11) -/

/-- CLEAR TRIP of a set, after its field is read. -/
theorem clearTripOf_index (s : State) (g : Fin 8) :
    clearTripOf [(g.val : Int)] s =
      if ¬ setPresent s g = true then (s, .refused .notPresent)
      else if ¬ s.running = true then (s, .refused .wrongState)
      else if s.plant.sets[g].state ≠ .tripped then (s, .refused .notReady)
      else if s.plant.gcb[g].filtered ≠ some false then (s, .refused .notReady)
      else if stillActive s g = true then (s, .refused .stillActive)
      else (notify .tripCleared (some g.val) none (updSet g (fun _ => { state := .offline, latch := false }) s), .ok) := by
  unfold clearTripOf
  rw [arg_zero, index_nat]
  rfl

theorem clearTripOf_badField (s : State) {n : Nat} (h : 8 ≤ n) : clearTripOf [(n : Int)] s = (s, .refused .badField) := by
  unfold clearTripOf
  rw [arg_zero, index_none h]
  rfl

/-- The checks of CLEAR TRIP read the state before the frame. -/
theorem clearTripOf_valid (l : Link) (s : State) (g : Fin 8) :
    clearTripOf [(g.val : Int)] (validFrame l s) =
      if ¬ setPresent s g = true then (validFrame l s, .refused .notPresent)
      else if ¬ s.running = true then (validFrame l s, .refused .wrongState)
      else if s.plant.sets[g].state ≠ .tripped then (validFrame l s, .refused .notReady)
      else if s.plant.gcb[g].filtered ≠ some false then (validFrame l s, .refused .notReady)
      else if stillActive s g = true then (validFrame l s, .refused .stillActive)
      else
        (notify .tripCleared (some g.val) none (updSet g (fun _ => { state := .offline, latch := false }) (validFrame l s)),
          .ok) := by
  rw [validFrame_eq l s]
  exact clearTripOf_index _ g

theorem stillActive_iff (s : State) (g : Fin 8) :
    stillActive s g = true ↔ (s.conf.sets[g]).sense = .level ∧ s.plant.trip[g].filtered = some true := by
  rw [stillActive, Bool.and_eq_true, decide_eq_true_iff, decide_eq_true_iff]

theorem exec_clearTrip {l : Link} {seq : Byte} {s : State} (ht : Takes l s) (n : Byte) :
    exec (.clearTrip l seq [n]) s =
      .next (answerTo l 19 seq (clearTripOf [(n.toNat : Int)] (validFrame l s)).2
        (clearTripOf [(n.toNat : Int)] (validFrame l s)).1) :=
  congrArg Host.Outcome.next (request_taken rfl (readFields_one n) (by decide) ht)

/-- Settles O44, down the checks of CLEAR TRIP in their order. -/
theorem clearTripChecks : Obligations.ClearTripChecks := by
  intro l seq s ht v
  refine ⟨fun n hn => exec_turnedAway (exec_clearTrip ht n) (clearTripOf_badField _ hn), fun g => ?_⟩
  intro c
  have run := exec_clearTrip (seq := seq) ht (BitVec.ofNat 8 g.val)
  rw [byte_toNat (by omega)] at run
  have chain := clearTripOf_valid l s g
  refine ⟨fun hp => ?_, fun hp hr => ?_, fun hp hr => ?_⟩
  · rw [if_pos (by rw [hp]; exact Bool.false_ne_true)] at chain
    exact exec_turnedAway run chain
  · rw [if_neg (not_not.2 hp), if_pos (by rw [hr]; exact Bool.false_ne_true)] at chain
    exact exec_turnedAway run chain
  rw [if_neg (not_not.2 hp), if_neg (not_not.2 hr)] at chain
  refine ⟨fun hs => ?_, fun hs => ?_⟩
  · rw [if_pos hs] at chain
    exact exec_turnedAway run chain
  rw [if_neg (not_not.2 hs)] at chain
  refine ⟨fun hb => ?_, fun hb => ⟨fun hl ha => ?_, fun hq => ?_⟩⟩
  · rw [if_pos hb] at chain
    exact exec_turnedAway run chain
  · rw [if_neg (not_not.2 hb), if_pos ((stillActive_iff s g).2 ⟨hl, ha⟩)] at chain
    exact exec_turnedAway run chain
  · have quiet : ¬ stillActive s g = true := by
      rw [stillActive_iff]
      rintro ⟨level, active⟩
      rcases hq with edge | inactive
      · rw [edge] at level
        cases level
      · exact inactive active
    rw [if_neg (not_not.2 hb), if_neg quiet] at chain
    exact exec_answered run chain

/-! ### SET MODE and SET BASE POINT (01 R5) -/

theorem modeOf_code (m : Mode) : modeOf (m.code : Int) = some m := by cases m <;> rfl

theorem modeOf_none {n : Nat} (h : 3 ≤ n) : modeOf (n : Int) = none := by
  unfold modeOf
  rw [if_neg (by omega), if_neg (by omega), if_neg (by omega)]

theorem writeField_one (n : Nat) : writeField .w1 (n : Int) = [BitVec.ofNat 8 n] := by
  rw [writeField, BitVec.ofInt_natCast]

theorem arg_one (a b : Int) (vs : List Int) : arg (a :: b :: vs) 1 = b := rfl

/-- SET MODE of a set, after its fields are read. -/
theorem setModeOf_index (s : State) (g : Fin 8) (m : Mode) :
    setModeOf [(g.val : Int), (m.code : Int)] s =
      if ¬ setPresent s g = true then (s, .refused .notPresent)
      else if ¬ s.running = true then (s, .refused .wrongState)
      else if s.entering = true then (s, .busy)
      else
        (updateSetIsland s g (updSetBank g (fun b => { b with mode := m }) s), .done false [BitVec.ofNat 8 m.code]) := by
  unfold setModeOf
  rw [arg_zero, index_nat, arg_one, modeOf_code, ← writeField_one]
  rfl

theorem setModeOf_badField (s : State) {n m : Nat} (h : 8 ≤ n ∨ 3 ≤ m) :
    setModeOf [(n : Int), (m : Int)] s = (s, .refused .badField) := by
  unfold setModeOf
  rw [arg_zero, arg_one]
  rcases h with h | h
  · rw [index_none h]
    rfl
  · rw [modeOf_none h]
    cases index 8 (n : Int) <;> rfl

/-- SET BASE POINT of a set, after its fields are read. -/
theorem setBaseOf_index (s : State) (g : Fin 8) (x : Int) :
    setBaseOf [(g.val : Int), x] s =
      if ¬ setPresent s g = true then (s, .refused .notPresent)
      else if ¬ s.running = true then (s, .refused .wrongState)
      else if s.entering = true then (s, .busy)
      else
        (updSetBank g (fun b => { b with base := (clamp 0 s.conf.sets[g].rating x).toNat }) s,
          .done (decide (clamp 0 s.conf.sets[g].rating x ≠ x)) (writeField .w4 (clamp 0 s.conf.sets[g].rating x))) := by
  unfold setBaseOf
  rw [arg_zero, index_nat]
  rfl

theorem setBaseOf_badField (s : State) {n : Nat} (x : Int) (h : 8 ≤ n) :
    setBaseOf [(n : Int), x] s = (s, .refused .badField) := by
  unfold setBaseOf
  rw [arg_zero, index_none h]
  rfl

section
variable {l : Link} {seq : Byte} {s : State}

theorem exec_setMode (ht : Takes l s) (n m : Byte) :
    exec (.setMode l seq [n, m]) s =
      .next (answerTo l 16 seq (setModeOf [(n.toNat : Int), (m.toNat : Int)] (validFrame l s)).2
        (setModeOf [(n.toNat : Int), (m.toNat : Int)] (validFrame l s)).1) :=
  congrArg Host.Outcome.next (request_taken rfl (readFields_oneOne n m) (by decide) ht)

theorem exec_setBasePoint (ht : Takes l s) (n a b c d : Byte) :
    exec (.setBasePoint l seq [n, a, b, c, d]) s =
      .next (answerTo l 17 seq (setBaseOf [(n.toNat : Int), (a ++ b ++ c ++ d).toInt] (validFrame l s)).2
        (setBaseOf [(n.toNat : Int), (a ++ b ++ c ++ d).toInt] (validFrame l s)).1) :=
  congrArg Host.Outcome.next (request_taken rfl (readFields_oneFour n a b c d) (by decide) ht)

theorem exec_setGroup (ht : Takes l s) (n lv a b c d : Byte) :
    exec (.setGroup l seq [n, lv, a, b, c, d]) s =
      .next (answerTo l 36 seq
        (groupCommand (n.toNat : Int) (setGroupCommand (lv.toNat : Int) (a ++ b ++ c ++ d).toInt) (validFrame l s)).2
        (groupCommand (n.toNat : Int) (setGroupCommand (lv.toNat : Int) (a ++ b ++ c ++ d).toInt) (validFrame l s)).1) :=
  congrArg Host.Outcome.next
    (request_taken (owner := fun vs => groupCommand (arg vs 0) (setGroupCommand (arg vs 1) (arg vs 2))) rfl
      (readFields_oneOneFour n lv a b c d) (by decide) ht)

end

theorem banked_validFrame (l : Link) (s : State) :
    (validFrame l s).prof.active.sets = s.prof.active.sets ∧ (validFrame l s).prof.active.groups = s.prof.active.groups := by
  rw [validFrame_prof]
  exact ⟨rfl, rfl⟩

theorem updSetBank_eq {s : State} {w : Vector SetBank 8} (h : s.prof.active.sets = w) (g : Fin 8) (f : SetBank → SetBank) :
    updSetBank g f s = { s with prof.active.sets := upd w g f } := by
  subst h
  rfl

/-- What the checks of the banked writes read, after a valid frame. -/
theorem validFrame_checks (l : Link) (s : State) :
    (∀ g, setPresent (validFrame l s) g = setPresent s g) ∧ (validFrame l s).running = s.running ∧
    (validFrame l s).entering = s.entering ∧ (∀ g, groupPresent (validFrame l s) g = groupPresent s g) :=
  ⟨setPresent_of (validFrame_conf l s), validFrame_running l s,
    congrArg (fun p : Prof => p.entry.isSome) (validFrame_prof l s), validFrame_groupPresent l s⟩

/-- SET MODE, command by command. -/
theorem setMode_answers (l : Link) (seq n m : Byte) (s : State) (ht : Takes l s) :
    ((8 ≤ n.toNat ∨ 3 ≤ m.toNat) →
      exec (.setMode l seq [n, m]) s = .next (turnedAway l 16 seq (.refused .badField) s)) ∧
    ∀ (g : Fin 8) (md : Mode), n.toNat = g.val → m.toNat = md.code →
      let v := validFrame l s
      let q : State := { v with prof.active.sets := upd s.prof.active.sets g fun b => { b with mode := md } }
      (setPresent s g = false → exec (.setMode l seq [n, m]) s = .next (turnedAway l 16 seq (.refused .notPresent) s)) ∧
      (setPresent s g = true → s.running = false →
        exec (.setMode l seq [n, m]) s = .next (turnedAway l 16 seq (.refused .wrongState) s)) ∧
      (setPresent s g = true → s.running = true → s.entering = true →
        exec (.setMode l seq [n, m]) s = .next (turnedAway l 16 seq .busy s)) ∧
      (setPresent s g = true → s.running = true → s.entering = false →
        exec (.setMode l seq [n, m]) s = .next
          (answerTo l 16 seq (.done false [BitVec.ofNat 8 md.code]) (updateSetIsland v g q)) ∧
        UpdateFrame q (updateSetIsland v g q)) := by
  refine ⟨fun h => exec_turnedAway (exec_setMode ht n m) (setModeOf_badField _ h), fun g md hn hm => ?_⟩
  intro v q
  have run := exec_setMode (seq := seq) ht n m
  have chain := setModeOf_index v g md
  obtain ⟨present, running, entering, -⟩ := validFrame_checks l s
  rw [present, running, entering] at chain
  rw [hn, hm] at run
  refine ⟨fun hp => ?_, fun hp hr => ?_, fun hp hr he => ?_, fun hp hr he => ⟨?_, (updates_updateSetIsland v g q).1⟩⟩
  · rw [if_pos (by rw [hp]; exact Bool.false_ne_true)] at chain
    exact exec_turnedAway run chain
  · rw [if_neg (not_not.2 hp), if_pos (by rw [hr]; exact Bool.false_ne_true)] at chain
    exact exec_turnedAway run chain
  · rw [if_neg (not_not.2 hp), if_neg (not_not.2 hr), if_pos he] at chain
    exact exec_turnedAway run chain
  · rw [if_neg (not_not.2 hp), if_neg (not_not.2 hr), if_neg (by rw [he]; exact Bool.false_ne_true)] at chain
    rw [updSetBank_eq (banked_validFrame l s).1] at chain
    exact exec_answered run chain

/-- SET BASE POINT, command by command. -/
theorem setBasePoint_answers (l : Link) (seq n a b c d : Byte) (s : State) (ht : Takes l s) :
    let i := Instr.setBasePoint l seq [n, a, b, c, d]
    (8 ≤ n.toNat → exec i s = .next (turnedAway l 17 seq (.refused .badField) s)) ∧
    ∀ g : Fin 8, n.toNat = g.val →
      let v := validFrame l s
      let x := (a ++ b ++ c ++ d).toInt
      let y := clamp 0 (s.conf.sets[g]).rating x
      (setPresent s g = false → exec i s = .next (turnedAway l 17 seq (.refused .notPresent) s)) ∧
      (setPresent s g = true → s.running = false →
        exec i s = .next (turnedAway l 17 seq (.refused .wrongState) s)) ∧
      (setPresent s g = true → s.running = true → s.entering = true → exec i s = .next (turnedAway l 17 seq .busy s)) ∧
      (setPresent s g = true → s.running = true → s.entering = false →
        exec i s = .next
          (answerTo l 17 seq (.done (decide (y ≠ x)) (writeField .w4 y))
            { v with prof.active.sets := upd s.prof.active.sets g fun f => { f with base := y.toNat } })) := by
  refine ⟨fun h => exec_turnedAway (exec_setBasePoint ht n a b c d) (setBaseOf_badField _ _ h), fun g hn => ?_⟩
  intro v x y
  have run := exec_setBasePoint (seq := seq) ht n a b c d
  have chain := setBaseOf_index v g x
  obtain ⟨present, running, entering, -⟩ := validFrame_checks l s
  rw [present, running, entering, validFrame_conf] at chain
  rw [hn] at run
  refine ⟨fun hp => ?_, fun hp hr => ?_, fun hp hr he => ?_, fun hp hr he => ?_⟩
  · rw [if_pos (by rw [hp]; exact Bool.false_ne_true)] at chain
    exact exec_turnedAway run chain
  · rw [if_neg (not_not.2 hp), if_pos (by rw [hr]; exact Bool.false_ne_true)] at chain
    exact exec_turnedAway run chain
  · rw [if_neg (not_not.2 hp), if_neg (not_not.2 hr), if_pos he] at chain
    exact exec_turnedAway run chain
  · rw [if_neg (not_not.2 hp), if_neg (not_not.2 hr), if_neg (by rw [he]; exact Bool.false_ne_true)] at chain
    rw [updSetBank_eq (banked_validFrame l s).1] at chain
    exact exec_answered run chain

/-! ### SET GROUP (05 R94) -/

/-- A group's level and expected load written. -/
def writtenGroup (g : Fin 32) (level load : Nat) (s : State) : State :=
  { s with prof.active.groups := put s.prof.active.groups g { level := level, load := load } }

theorem writtenGroup_eq {s : State} {w : Vector GroupBank 32} (h : s.prof.active.groups = w) (g : Fin 32)
    (level load : Nat) :
    writtenGroup g level load s = { s with prof.active.groups := put w g { level := level, load := load } } := by
  subst h
  rfl

theorem clamp_level (n : Nat) : clamp 0 7 (n : Int) = ((min 7 n : Nat) : Int) := by
  unfold clamp
  omega

/-- SET GROUP of a present group. -/
theorem setGroupCommand_eq (n : Nat) (x : Int) (g : Fin 32) (s : State) :
    setGroupCommand (n : Int) x g s =
      if s.entering = true then (s, .busy)
      else
        (if min 7 n = groupLevel s g then writtenGroup g (min 7 n) (clamp 0 20000 x).toNat s
          else testGatesOf g (writtenGroup g (min 7 n) (clamp 0 20000 x).toNat s),
          .done (decide (7 < n ∨ clamp 0 20000 x ≠ x)) (BitVec.ofNat 8 (min 7 n) :: writeField .w4 (clamp 0 20000 x))) := by
  have clamped : (decide (((min 7 n : Nat) : Int) ≠ (n : Int)) || decide (clamp 0 20000 x ≠ x)) =
      decide (7 < n ∨ clamp 0 20000 x ≠ x) := by
    have : ((min 7 n : Nat) : Int) ≠ (n : Int) ↔ 7 < n := by omega
    rw [Bool.decide_or, decide_eq_decide.2 this]
  have data (v : Int) : writeItems [(.w1, ((min 7 n : Nat) : Int)), (.w4, v)] = BitVec.ofNat 8 (min 7 n) :: writeField .w4 v := by
    simp only [writeItems, List.flatMap_cons, List.flatMap_nil, writeField_one, List.append_nil, List.cons_append, List.nil_append]
  unfold setGroupCommand
  dsimp only
  rw [clamp_level, clamped, data]
  rfl

/-- SET GROUP's gate test (06 R115). -/
theorem setGroup_effect (g : Fin 32) (z w : Nat) (v : State) :
    let q := writtenGroup g z w v
    let t := if z = groupLevel v g then q else testGatesOf g q
    t.prof = q.prof ∧ t.shed.groups = v.shed.groups ∧ t.shed.dwell = v.shed.dwell ∧ t.plant = v.plant ∧
    t.share = v.share ∧ t.link = v.link ∧ (groupLevel v g = z → t = q) ∧
    (groupLevel v g ≠ z → ∀ i : Fin 4, t.shed.restore[i] =
      if groupIsland v g = some i ∧ gatesHold t i = false then none else v.shed.restore[i]) := by
  intro q t
  by_cases h : z = groupLevel v g
  · have same : t = q := if_pos h
    rw [same]
    exact ⟨rfl, rfl, rfl, rfl, rfl, rfl, fun _ => rfl, fun hn => absurd h.symm hn⟩
  · have tested : t = testGatesOf g q := if_neg h
    obtain ⟨plant, share, -, -, -, link, prof, -, groups, dwell, -⟩ := testGatesOf_rest g q
    rw [tested]
    refine ⟨prof, groups, dwell, plant, share, link, fun hz => absurd hz.symm h, fun _ i => ?_⟩
    have gates : gatesHold (testGatesOf g q) i = gatesHold q i := by
      rw [testGatesOf_eq]
      rfl
    rw [gates]
    exact testGatesOf_restore g i q

/-- Settles O45. -/
theorem bankedWrites : Obligations.BankedWrites := by
  refine ⟨setMode_answers, setBasePoint_answers, fun l seq n lv a b c d s ht => ?_⟩
  intro i
  refine ⟨fun h => exec_turnedAway (exec_setGroup ht n lv a b c d) ?_, fun g hn => ?_⟩
  · rw [groupCommand, index_none h]
    rfl
  intro v x y z q
  have run := exec_setGroup (seq := seq) ht n lv a b c d
  rw [hn, groupCommand_index, setGroupCommand_eq] at run
  obtain ⟨-, running, entering, present⟩ := validFrame_checks l s
  rw [running, entering, present] at run
  refine ⟨fun hr => ?_, fun hr hp => ?_, fun hr hp he => ?_, fun hr hp he => ?_⟩
  · exact exec_turnedAway run (if_pos hr)
  · rw [if_neg (by rw [hr]; exact Bool.false_ne_true.symm)] at run
    exact exec_turnedAway run (if_pos hp)
  · rw [if_neg (by rw [hr]; exact Bool.false_ne_true.symm), if_neg (by rw [hp]; exact Bool.false_ne_true.symm)] at run
    exact exec_turnedAway run (if_pos he)
  · rw [if_neg (by rw [hr]; exact Bool.false_ne_true.symm), if_neg (by rw [hp]; exact Bool.false_ne_true.symm),
      if_neg (by rw [he]; exact Bool.false_ne_true)] at run
    have written : writtenGroup g z y.toNat v = q := writtenGroup_eq (banked_validFrame l s).2 g z y.toNat
    have level : groupLevel v g = groupLevel s g := by
      rw [groupLevel, validFrame_prof]
      rfl
    have island : groupIsland v g = groupIsland s g := by
      rw [groupIsland, islandOf_of (congrArg Plant.partition (validFrame_plant l s)), validFrame_conf]
      rfl
    have effect := setGroup_effect g z y.toNat v
    rw [written] at effect run
    obtain ⟨prof, groups, dwell, plant, share, link, same, restore⟩ := effect
    refine ⟨_, exec_answered run rfl, prof, groups.trans (by rw [validFrame_shed]),
      dwell.trans (by rw [validFrame_shed]), plant.trans (validFrame_plant l s), share.trans (validFrame_share l s), link,
      fun h => same (level.trans h), fun h i => ?_⟩
    rw [restore (fun e => h (level.symm.trans e)) i, island, validFrame_shed]

end Sys2Proof.Machine

/-! The dead-bus test and the sync pass (04 R68 to R76). -/

namespace Sys2Proof.Machine

/-! ### The dead-bus test (04 R68 to R70) -/

/-- The test of a CONNECT request, as a decision on the two readings. -/
theorem setBusTest_eq (s : State) (x : Fin 4) :
    setBusTest s x =
      if s.scan.sect[x].live = .live then .toMatch
      else if s.scan.sect[x].live = .dead ∧ s.scan.vin.live = .dead then .abort .bothDead
      else if s.scan.sect[x].live = .dead ∧ s.scan.vin.live = .live ∧ islandDead s x = true ∧
          (s.conf.sections[x]).deadClose = true then .toClose
      else .abort .noDeadBus := by
  unfold setBusTest deadClose
  cases s.scan.sect[x].live
  case live => rfl
  case uncertain => rfl
  case dead => cases s.scan.vin.live <;> simp

/-- The test of a TIE request, as a decision on the two readings. -/
theorem tieBusTest_eq (s : State) (k : Fin 4) :
    let a := s.scan.sect[tieLow k].live
    let b := s.scan.sect[tieHigh k].live
    tieBusTest s k =
      if a = .live ∧ b = .live then .toMatch
      else if a = .dead ∧ b = .dead then .abort .bothDead
      else if (s.conf.ties[k]).deadClose = true ∧
          (a = .dead ∧ b = .live ∧ islandDead s (tieLow k) = true ∨
            a = .live ∧ b = .dead ∧ islandDead s (tieHigh k) = true) then .toClose
      else .abort .noDeadBus := by
  dsimp only
  unfold tieBusTest deadClose
  cases s.scan.sect[tieLow k].live
  case uncertain => simp
  case live => cases s.scan.sect[tieHigh k].live <;> simp [and_comm]
  case dead => cases s.scan.sect[tieHigh k].live <;> simp [and_comm]

theorem islandDead_of {s t : State} (hp : t.plant.partition = s.plant.partition) (ha : t.plant.accounts = s.plant.accounts)
    (x : Fin 4) : islandDead t x = islandDead s x := by
  simp only [islandDead, islandOf_of hp, ha]

/-- What the dead-bus test reads. -/
theorem busTest_of {s t : State} (hs : ∀ x : Fin 4, t.scan.sect[x].live = s.scan.sect[x].live)
    (hv : t.scan.vin.live = s.scan.vin.live) (hd : ∀ x, islandDead t x = islandDead s x) (hc : t.conf = s.conf)
    (o : SyncObj) : busTest t o = busTest s o := by
  cases o <;> simp only [busTest, setBusTest, tieBusTest, deadClose, hs, hv, hd, hc]

theorem busTest_elapse (n : Nat) (s : State) (o : SyncObj) : busTest (elapse n s) o = busTest s o := by
  refine busTest_of (fun x => ?_) (by rw [elapse_vin]) ?_ (elapse_conf n s) o
  · rw [elapse_sect]
  · exact islandDead_of (elapse_partition n s) (elapse_accounts n s)

/-! ### The end of the settle time (04 R68) -/

/-- The selector settled, the settle timer ended. -/
def settledState (s : State) : State := updReq (fun r => { r with settle := none }) { s with scan.selector := .settled }

theorem busTest_settledState (s : State) (o : SyncObj) : busTest (settledState s) o = busTest s o := by
  cases o <;> rfl

section
variable {r : SyncReq} {s : State}

theorem settleEnd_toMatch (h : s.sync.req = some r) (hb : busTest s r.obj = .toMatch) :
    settleEnd s = updReq (fun r => { r with stage := .matching, pass := some 100 }) (settledState s) := by
  have test := (busTest_settledState s r.obj).trans hb
  simp only [settledState] at test
  simp only [settleEnd, h, test, settledState, Config.syncPassTime]

theorem settleEnd_toClose (h : s.sync.req = some r) (hb : busTest s r.obj = .toClose) :
    settleEnd s = updReq (fun r => { r.enterClose with deadBus := true }) (settledState s) := by
  have test := (busTest_settledState s r.obj).trans hb
  simp only [settledState] at test
  simp only [settleEnd, h, test, settledState]

theorem settleEnd_abort {c : AbortCause} (h : s.sync.req = some r) (hb : busTest s r.obj = .abort c) :
    settleEnd s = syncAbort c (settledState s) := by
  have test := (busTest_settledState s r.obj).trans hb
  simp only [settledState] at test
  simp only [settleEnd, h, test, settledState]

theorem elapse_req_par {n : Nat} (h : s.sync.req = some r) :
    ∃ q, (elapse n s).sync.req = some q ∧ q.obj = r.obj ∧ q.par = r.par := by
  obtain ⟨m, e | e⟩ := elapse_request n s
  · exact ⟨r, e.trans h, rfl, rfl⟩
  · exact ⟨r.elapse m, by rw [e, h]; rfl, rfl, rfl⟩

theorem exec_selectorSettleExpiry {n : Nat} (h : s.sync.req = some r) (hs : r.settle = some n) :
    exec .selectorSettleExpiry s = .next (settleEnd (elapse n s)) := by
  change execSelectorSettleExpiry s = _
  simp only [execSelectorSettleExpiry, reqTimer, h, hs, onExpiry_some]

end

/-- Settles O42. -/
theorem deadBusTest : Obligations.DeadBusTest := by
  refine ⟨fun r n s hr hs => ?_, fun g s => setBusTest_eq s _, fun k s => tieBusTest_eq s k⟩
  intro p
  obtain ⟨q, hq, obj, par⟩ := elapse_req_par (n := n) hr
  have test : busTest p q.obj = busTest s r.obj := by rw [obj, busTest_elapse]
  refine ⟨_, exec_selectorSettleExpiry hr hs, ?_⟩
  have prof : p.prof = s.prof := elapse_prof n s
  have start : p.start = s.start := elapse_start n s
  change p.sync.req = some q at hq
  change (_ → (settleEnd p).scan.selector = _ ∧ (settleEnd p).sync.req = _) ∧
    (_ → (settleEnd p).scan.selector = _ ∧ (settleEnd p).sync.req = _) ∧
    (∀ c, _ → (settleEnd p).sync.req = _ ∧ (settleEnd p).sync.lastAbort = _) ∧ (settleEnd p).shed = _ ∧
    (settleEnd p).resv = _ ∧ (settleEnd p).line = _ ∧ (settleEnd p).prof = _ ∧ (settleEnd p).start = _
  clear_value p
  rw [← test, ← prof, ← start, ← par, hq]
  cases hb : busTest p q.obj with
  | toMatch =>
    rw [settleEnd_toMatch hq hb]
    simp only [updReq, settledState, hq]
    simp
  | toClose =>
    rw [settleEnd_toClose hq hb]
    simp only [updReq, settledState, hq]
    simp [SyncReq.enterClose]
  | abort c =>
    rw [settleEnd_abort hq hb]
    have requested : (settledState p).sync.req = some { q with settle := none } := by
      simp only [settledState, updReq, hq, Option.map_some]
    have sync := syncAbort_sync (c := c) requested
    have changes := syncAbort_changes c (settledState p)
    rw [sync] at changes
    rw [changes]
    exact ⟨fun h => (nomatch h), fun h => (nomatch h), fun d h => ⟨rfl, congrArg some (BusTest.abort.inj h)⟩, rfl, rfl, rfl,
      rfl, rfl⟩

/-! ### The two locks (04 R72, R75) -/

theorem coarseHolds_iff (s : State) (r : SyncReq) :
    coarseHolds s r = true ↔ ∃ v, slipOf s = some v ∧
      -r.par.slipWindow ≤ v - r.target ∧ v - r.target ≤ r.par.slipWindow ∧
      s.scan.vin.live = .live ∧ s.scan.vref.live = .live ∧
      -r.par.voltWindow ≤ (s.scan.vin.volt : Int) - s.scan.vref.volt ∧
      (s.scan.vin.volt : Int) - s.scan.vref.volt ≤ r.par.voltWindow := by
  unfold coarseHolds
  cases slipOf s with
  | none => simp
  | some v => simp only [Bool.and_eq_true, within_iff, decide_eq_true_iff, Option.some.injEq, exists_eq_left', and_assoc]

theorem coarseStep_holds {s : State} {r : SyncReq} (h : coarseHolds s r = true) :
    coarseStep s r =
      { r with
        qual := min (r.qual + 1) r.par.qualPasses,
        coarse := r.coarse || decide (min (r.qual + 1) r.par.qualPasses = r.par.qualPasses) } := if_pos h

theorem coarseStep_lost {s : State} {r : SyncReq} (h : coarseHolds s r = false) :
    coarseStep s r = { r with qual := 0, coarse := false } := if_neg (by rw [h]; exact Bool.false_ne_true)

theorem fineHolds_iff (s : State) (r : SyncReq) :
    fineHolds s r = true ↔ ∃ p v q, s.scan.phi = some p ∧ slipOf s = some v ∧ r.prev = some q ∧ p.natAbs < q.natAbs ∧
      -r.par.phaseWindow ≤ predicted p v r.par.tClose ∧ predicted p v r.par.tClose ≤ r.par.phaseWindow := by
  unfold fineHolds
  cases s.scan.phi <;> cases slipOf s <;> cases r.prev <;> simp [within_iff]

theorem ringHolds_iff (s : State) (r : SyncReq) :
    ringHolds s r = true ↔ ∃ p, s.scan.phi = some p ∧ -r.par.phaseWindow ≤ p ∧ p ≤ r.par.phaseWindow := by
  unfold ringHolds
  cases s.scan.phi <;> simp [within_iff]

theorem fineStep_plain {s : State} {r : SyncReq} (h : r.ringClose = false) :
    fineStep s r = { r with fine := fineHolds s r, prev := s.scan.phi } := if_neg (by rw [h]; exact Bool.false_ne_true)

theorem fineStep_ring {s : State} {r : SyncReq} (h : r.ringClose = true) (n : Nat)
    (hn : n = if ringHolds s r = true then min (r.ringQual + 1) r.par.qualPasses else 0) :
    fineStep s r =
      { r with ringQual := n, fine := ringHolds s r && decide (n = r.par.qualPasses), prev := s.scan.phi } := by
  subst hn
  exact if_pos h

/-- The fine lock of a ring close. -/
theorem fineStep_ringClose {s : State} {r : SyncReq} (h : r.ringClose = true) :
    (ringHolds s r = true →
      (fineStep s r).ringQual = min (r.ringQual + 1) r.par.qualPasses ∧
      ((fineStep s r).fine = true ↔ min (r.ringQual + 1) r.par.qualPasses = r.par.qualPasses)) ∧
    (ringHolds s r = false → (fineStep s r).ringQual = 0 ∧ (fineStep s r).fine = false) := by
  refine ⟨fun hh => ?_, fun hh => ?_⟩
  · rw [fineStep_ring h _ (if_pos hh).symm, hh]
    exact ⟨rfl, decide_eq_true_iff⟩
  · rw [fineStep_ring h _ (if_neg (by rw [hh]; exact Bool.false_ne_true)).symm, hh]
    exact ⟨rfl, rfl⟩

/-! ### The request after a pass (04 R71) -/

/-- A request after the coarse step of a pass. -/
def coarsePassed (s : State) (r : SyncReq) : SyncReq :=
  { r with pass := some 100, qual := (coarseStep s r).qual, coarse := (coarseStep s r).coarse }

theorem coarseStep_pass (s : State) (r : SyncReq) :
    coarseStep s { r with pass := some Config.syncPassTime } = coarsePassed s r := by
  by_cases h : coarseHolds s r = true
  · rw [coarseStep_holds (r := { r with pass := some Config.syncPassTime }) h, coarsePassed, coarseStep_holds h]
    rfl
  · rw [Bool.not_eq_true] at h
    rw [coarseStep_lost (r := { r with pass := some Config.syncPassTime }) h, coarsePassed, coarseStep_lost h]
    rfl

/-- A request after both steps of a pass in PHASE or CLOSE. -/
def finePassed (s : State) (r : SyncReq) : SyncReq :=
  { coarsePassed s r with ringQual := (fineStep s r).ringQual, fine := (fineStep s r).fine, prev := s.scan.phi }

theorem fineStep_coarsePassed (s : State) (r : SyncReq) : fineStep s (coarsePassed s r) = finePassed s r := by
  cases h : r.ringClose with
  | false => rw [fineStep_plain (r := coarsePassed s r) h, finePassed, fineStep_plain h]; rfl
  | true =>
    rw [fineStep_ring (r := coarsePassed s r) h _ rfl, finePassed, fineStep_ring h _ rfl]
    rfl

section
variable {s : State} {r : SyncReq}

theorem passReq_select (h : r.stage = .select) : passReq s r = coarsePassed s r := by
  simp only [passReq, coarseStep_pass]
  simp only [h]

theorem passReq_matching (h : r.stage = .matching) :
    passReq s r =
      if (coarseStep s r).coarse then { coarsePassed s r with stage := .phase, prev := s.scan.phi, ringQual := 0 }
      else coarsePassed s r := by
  simp only [passReq, coarseStep_pass]
  simp only [h]
  rfl

theorem passReq_phase (h : r.stage = .phase) :
    passReq s r =
      if (coarseStep s r).coarse then (if (fineStep s r).fine then (finePassed s r).enterClose else finePassed s r)
      else { coarsePassed s r with stage := .matching, prev := none } := by
  simp only [passReq, coarseStep_pass, fineStep_coarsePassed]
  simp only [h]
  rfl

theorem passReq_close (h : r.stage = .close) : passReq s r = finePassed s r := by
  simp only [passReq, coarseStep_pass, fineStep_coarsePassed]
  simp only [h]

end

/-- What a pass leaves of a request. -/
theorem passReq_fixed (s : State) (r : SyncReq) :
    (passReq s r).obj = r.obj ∧ (passReq s r).pass = some 100 ∧ (passReq s r).coarse = (coarseStep s r).coarse ∧
      (passReq s r).qual = (coarseStep s r).qual ∧ (passReq s r).par = r.par ∧ (passReq s r).ringClose = r.ringClose := by
  cases h : r.stage with
  | select => rw [passReq_select h]; exact ⟨rfl, rfl, rfl, rfl, rfl, rfl⟩
  | matching => rw [passReq_matching h]; split <;> exact ⟨rfl, rfl, rfl, rfl, rfl, rfl⟩
  | phase =>
    rw [passReq_phase h]
    split
    · split <;> exact ⟨rfl, rfl, rfl, rfl, rfl, rfl⟩
    · exact ⟨rfl, rfl, rfl, rfl, rfl, rfl⟩
  | close => rw [passReq_close h]; exact ⟨rfl, rfl, rfl, rfl, rfl, rfl⟩

/-- The request after a pass, by its stage before: what O43 says of it. -/
structure PassMoves (s : State) (r q : SyncReq) : Prop where
  limit : q.limit = if q.stage = .close ∧ r.stage ≠ .close then none else r.limit
  matchStage : r.stage = .matching → q.stage = if (coarseStep s r).coarse then .phase else .matching
  phaseLost : r.stage = .phase → (coarseStep s r).coarse = false → q.stage = .matching ∧ q.prev = none
  phaseHeld : r.stage = .phase → (coarseStep s r).coarse = true →
    q.stage = (if (fineStep s r).fine then .close else .phase) ∧ q.prev = s.scan.phi
  closeStage : r.stage = .close → q.stage = .close
  matchFine : r.stage = .matching → q.fine = r.fine ∧
    ((coarseStep s r).coarse = true → q.prev = s.scan.phi ∧ q.ringQual = 0) ∧
    ((coarseStep s r).coarse = false → q.prev = r.prev)
  phaseFine : r.stage = .phase → (coarseStep s r).coarse = false → q.fine = r.fine
  fineTaken : (r.stage = .close ∨ r.stage = .phase ∧ (coarseStep s r).coarse = true) →
    q.fine = (fineStep s r).fine ∧ q.ringQual = (fineStep s r).ringQual ∧ q.prev = s.scan.phi
  entersClose : q.stage = .close → r.stage ≠ .close → q.pulse = some r.par.pulse ∧ q.confirm = some r.par.confirm
  timersKept : (q.stage ≠ .close ∨ r.stage = .close) → q.pulse = r.pulse ∧ q.confirm = r.confirm

theorem passMoves (s : State) (r : SyncReq) : PassMoves s r (passReq s r) := by
  cases h : r.stage with
  | select =>
    rw [passReq_select h]
    constructor <;> simp [coarsePassed, h]
  | matching =>
    rw [passReq_matching h]
    by_cases hc : (coarseStep s r).coarse = true
    · rw [if_pos hc]
      constructor <;> simp [coarsePassed, h, hc]
    · rw [if_neg hc]
      rw [Bool.not_eq_true] at hc
      constructor <;> simp [coarsePassed, h, hc]
  | phase =>
    rw [passReq_phase h]
    by_cases hc : (coarseStep s r).coarse = true
    · by_cases hf : (fineStep s r).fine = true
      · rw [if_pos hc, if_pos hf]
        constructor <;> simp [finePassed, coarsePassed, SyncReq.enterClose, h, hc, hf]
      · rw [if_pos hc, if_neg hf]
        rw [Bool.not_eq_true] at hf
        constructor <;> simp [finePassed, coarsePassed, h, hc, hf]
    · rw [if_neg hc]
      rw [Bool.not_eq_true] at hc
      constructor <;> simp [coarsePassed, h, hc]
  | close =>
    rw [passReq_close h]
    constructor <;> simp [finePassed, coarsePassed, h]

/-! ### The lock notices and speed matching (04 R73 to R76) -/

/-- The notice of lock `n` where it went from `a` to `b`. -/
def lockSends (n : Nat) (e : Edges) (a b : Bool) (s : State) : List Notice :=
  if a = false ∧ b = true ∧ (e = .rise ∨ e = .both) then [newNotice .syncLock (some n) (some 1) s]
  else if a = true ∧ b = false ∧ (e = .fall ∨ e = .both) then [newNotice .syncLock (some n) (some 0) s]
  else []

theorem delivers_lockNotice {s t : State} (h : SameStamp s t) (n : Nat) (e : Edges) (a b : Bool) :
    Delivers (lockSends n e a b s) t (lockNotice n e a b t) ∧ SameStamp s (lockNotice n e a b t) := by
  have listed : lockSends n e a b s =
      if a ≠ b ∧ e.selects b = true then [newNotice .syncLock (some n) (some (if b then 1 else 0)) s] else [] := by
    cases a <;> cases b <;> cases e <;> rfl
  rw [listed, lockNotice]
  exact delivers_if h _ _ _ _

theorem lockNotice_changes (n : Nat) (e : Edges) (a b : Bool) (s : State) :
    lockNotice n e a b s = { s with link := (lockNotice n e a b s).link } := by
  unfold lockNotice
  split
  · rfl
  · rfl

/-- Speed matching leaves all but the bias of an incoming set and the offset of a tie. -/
theorem speedMatch_changes (r : SyncReq) (s : State) :
    speedMatch r s =
      { s with share.sets := (speedMatch r s).share.sets, sync.offset := (speedMatch r s).sync.offset } := by
  unfold speedMatch
  cases r.obj <;> rfl

theorem speedMatch_bias (r : SyncReq) (s : State) (g : Fin 8) :
    (speedMatch r s).biasOut g = if r.obj = .set g then clamp (-1000) 1000 (s.biasOut g + speedStep s r) else s.biasOut g := by
  unfold speedMatch State.biasOut
  cases r.obj with
  | tie k => rfl
  | set h =>
    dsimp only
    rw [updShare_get]
    by_cases hg : h = g
    · subst hg
      rw [if_pos rfl, if_pos rfl]
    · rw [if_neg hg, if_neg (fun e => hg (SyncObj.set.inj e))]

theorem speedMatch_offset_set {r : SyncReq} {g : Fin 8} (h : r.obj = .set g) (s : State) :
    (speedMatch r s).sync.offset = s.sync.offset := by
  unfold speedMatch
  rw [h]
  rfl

theorem speedMatch_offset_tie {r : SyncReq} {k : Fin 4} (h : r.obj = .tie k) (s : State) :
    (speedMatch r s).sync.offset = clamp (-2000) 2000 (s.sync.offset + speedStep s r) := by
  simp only [speedMatch, h]

theorem speedStep_none {s : State} (h : slipOf s = none) (r : SyncReq) : speedStep s r = 0 := by
  simp only [speedStep, h]

theorem speedStep_some {s : State} {v : Int} (h : slipOf s = some v) (r : SyncReq) :
    speedStep s r = clamp (-((settings s).smax : Int)) (settings s).smax ((r.par.gain * (r.target - v)).tdiv 64) := by
  simp only [speedStep, h]

/-- The speed step reads the settings, the slip and what a request keeps. -/
theorem speedStep_of {s t : State} {r q : SyncReq} (hs : t.scan = s.scan) (hp : t.prof = s.prof) (hr : q.par = r.par)
    (hc : q.ringClose = r.ringClose) : speedStep t q = speedStep s r := by
  simp only [speedStep, slipOf, fIn, fRef, hs, settings_of hp, SyncReq.target, hr, hc]

/-! ### A pass (04 R71) -/

/-- The state of a pass after its lock notices. -/
def passNoticed (r : SyncReq) (s : State) : State :=
  lockNotice 1 r.par.fineEdges r.fine (passReq s r).fine
    (lockNotice 0 r.par.coarseEdges r.coarse (passReq s r).coarse { s with sync.req := some (passReq s r) })

theorem syncPass_eq {r : SyncReq} {s : State} (h : s.sync.req = some r) :
    syncPass s =
      if r.matches = true ∧ (passReq s r).matches = true ∧ ¬ r.ringClose = true then
        speedMatch (passReq s r) (passNoticed r s)
      else passNoticed r s := by
  simp only [syncPass, h, passNoticed]

theorem passNoticed_changes (r : SyncReq) (s : State) :
    passNoticed r s = { s with sync.req := some (passReq s r), link := (passNoticed r s).link } := by
  unfold passNoticed
  rw [lockNotice_changes, lockNotice_changes 0]

theorem delivers_passNoticed (r : SyncReq) (s : State) :
    Delivers
      (lockSends 0 r.par.coarseEdges r.coarse (passReq s r).coarse s ++
        lockSends 1 r.par.fineEdges r.fine (passReq s r).fine s) s (passNoticed r s) := by
  have taken : Delivers [] s { s with sync.req := some (passReq s r) } := delivers_nil_of_link rfl
  obtain ⟨coarse, stamp⟩ := delivers_lockNotice (s := s) (t := { s with sync.req := some (passReq s r) }) ⟨rfl, rfl⟩ 0
    r.par.coarseEdges r.coarse (passReq s r).coarse
  exact (taken.trans coarse).trans (delivers_lockNotice stamp 1 r.par.fineEdges r.fine (passReq s r).fine).1

/-- What a pass leaves, beside the bias and the offset of its object. -/
theorem syncPass_keeps {r : SyncReq} {s : State} (h : s.sync.req = some r) :
    (syncPass s).sync.req = some (passReq s r) ∧ (syncPass s).link = (passNoticed r s).link ∧
      (syncPass s).plant = s.plant ∧ (syncPass s).scan = s.scan ∧ (syncPass s).shed = s.shed ∧
      (syncPass s).resv = s.resv ∧ (syncPass s).line = s.line ∧ (syncPass s).prof = s.prof ∧
      (syncPass s).start = s.start ∧ (syncPass s).conf = s.conf := by
  rw [syncPass_eq h]
  have changes := passNoticed_changes r s
  generalize passNoticed r s = n at changes ⊢
  by_cases hm : r.matches = true ∧ (passReq s r).matches = true ∧ ¬ r.ringClose = true
  · rw [if_pos hm, speedMatch_changes, changes]
    exact ⟨rfl, rfl, rfl, rfl, rfl, rfl, rfl, rfl, rfl, rfl⟩
  · rw [if_neg hm, changes]
    exact ⟨rfl, rfl, rfl, rfl, rfl, rfl, rfl, rfl, rfl, rfl⟩

/-- Where a pass speed-matches, and by how much. -/
theorem syncPass_speed {r : SyncReq} {s : State} (h : s.sync.req = some r) :
    (∀ g : Fin 8, (syncPass s).biasOut g =
      if r.obj = .set g ∧ r.matches = true ∧ (passReq s r).matches = true ∧ r.ringClose = false then
        clamp (-1000) 1000 (s.biasOut g + speedStep s r)
      else s.biasOut g) ∧
    (∀ g : Fin 8, r.obj = .set g → (syncPass s).sync.offset = s.sync.offset) ∧
    ∀ k : Fin 4, r.obj = .tie k → (syncPass s).sync.offset =
      if r.matches = true ∧ (passReq s r).matches = true ∧ r.ringClose = false then
        clamp (-2000) 2000 (s.sync.offset + speedStep s r)
      else s.sync.offset := by
  obtain ⟨obj, -, -, -, par, ring⟩ := passReq_fixed s r
  have changes := passNoticed_changes r s
  have eq := syncPass_eq h
  generalize passReq s r = q at *
  generalize passNoticed r s = n at changes eq
  have bias (g : Fin 8) : n.biasOut g = s.biasOut g := by rw [changes]; rfl
  have offset : n.sync.offset = s.sync.offset := by rw [changes]
  have step : speedStep n q = speedStep s r := speedStep_of (by rw [changes]) (by rw [changes]) par ring
  by_cases hm : r.matches = true ∧ q.matches = true ∧ r.ringClose = false
  · have taken : syncPass s = speedMatch q n := by
      rw [eq, if_pos ⟨hm.1, hm.2.1, by rw [hm.2.2]; exact Bool.false_ne_true⟩]
    rw [taken]
    refine ⟨fun g => ?_, fun g hg => ?_, fun k hk => ?_⟩
    · rw [speedMatch_bias, step, bias, obj]
      by_cases hg : r.obj = .set g
      · rw [if_pos hg, if_pos ⟨hg, hm⟩]
      · rw [if_neg hg, if_neg fun e => hg e.1]
    · rw [speedMatch_offset_set (obj.trans hg), offset]
    · rw [speedMatch_offset_tie (obj.trans hk), if_pos hm, step, offset]
  · have taken : syncPass s = n := by
      rw [eq, if_neg fun k => hm ⟨k.1, k.2.1, Bool.eq_false_iff.2 k.2.2⟩]
    rw [taken]
    refine ⟨fun g => ?_, fun g hg => offset, fun k hk => ?_⟩
    · rw [bias, if_neg fun k => hm k.2]
    · rw [if_neg hm, offset]

theorem exec_syncPass {n : Nat} {s : State} (h : s.sync.req.bind (·.pass) = some n) :
    exec .syncPass s = .next (syncPass (elapse n s)) := by
  change execSyncPass s = _
  obtain ⟨r, hr, hp⟩ := Option.bind_eq_some_iff.1 h
  simp only [execSyncPass, reqTimer, hr, hp, onExpiry_some]

/-- A close line is asserted on entering CLOSE (04 R77). -/
theorem closes_of {q : SyncReq} {t : State} {n : Nat} (hq : t.sync.req = some q) (hs : q.stage = .close)
    (hp : q.pulse = some n) :
    (∀ g : Fin 8, q.obj = .set g → t.gcbClose g = true) ∧ ∀ k : Fin 4, q.obj = .tie k → t.tieClose k = true := by
  have closing : q.closing = true := by
    rw [SyncReq.closing, hs, hp]
    rfl
  refine ⟨fun g hg => ?_, fun k hk => ?_⟩
  · simp only [State.gcbClose, hq, hg, closing, decide_true, Bool.and_self]
  · simp only [State.tieClose, hq, hk, closing, decide_true, Bool.and_self]

/-! ### The predicted angle (04 R75) -/

theorem wrapAngle_range (a : Int) : -180 ≤ wrapAngle a ∧ wrapAngle a ≤ 179 := by
  unfold wrapAngle
  omega

theorem wrapAngle_turns (a : Int) : ∃ n : Int, wrapAngle a = a + 360 * n :=
  ⟨-((a + 180) / 360), by unfold wrapAngle; omega⟩

/-- Settles O43. -/
theorem syncPassActs : Obligations.SyncPassActs := by
  refine ⟨fun n r s hp hr => ?_, fun s r => ⟨fun h => ?_, fun h => ?_, coarseHolds_iff s r⟩,
    fun s r => ⟨fun h => ?_, fun h => ⟨fun hh => (fineStep_ringClose h).1 ((ringHolds_iff s r).2 hh), fun hh => ?_⟩⟩,
    fun s r => ⟨fun h => speedStep_none h r, fun v hv h => ?_⟩,
    fun phi slip tClose => ⟨(wrapAngle_range _).1, (wrapAngle_range _).2, wrapAngle_turns _⟩⟩
  · have prof : (elapse n s).prof = s.prof := elapse_prof n s
    have start : (elapse n s).start = s.start := elapse_start n s
    have conf : (elapse n s).conf = s.conf := elapse_conf n s
    have bias := elapse_bias n s
    have offset := elapse_offset n s
    have run := exec_syncPass hp
    intro p c
    change p.sync.req = some r at hr
    obtain ⟨obj, pass, coarse, qual, -, -⟩ := passReq_fixed p r
    have moves := passMoves p r
    obtain ⟨req, link, kept⟩ := syncPass_keeps hr
    obtain ⟨biases, offsetSet, offsetTie⟩ := syncPass_speed hr
    refine ⟨_, _, run, req, obj, pass, coarse, qual, moves.limit, moves.matchStage, moves.phaseLost, moves.phaseHeld,
      moves.closeStage, moves.matchFine, moves.phaseFine, moves.fineTaken, fun hq hn => ?_, moves.timersKept,
      ?_, fun g => ?_, ?_, ?_⟩
    · obtain ⟨pulse, confirm⟩ := moves.entersClose hq hn
      have closes := closes_of req hq pulse
      rw [obj] at closes
      exact ⟨pulse, confirm, closes.1, closes.2⟩
    · have sent := (delivers_passNoticed r p).trans (delivers_nil_of_link link)
      rw [List.append_nil] at sent
      exact sent
    · have same : p.biasOut g = s.biasOut g := bias g
      rw [biases, same]
    · cases ho : r.obj with
      | set g => exact (offsetSet g ho).trans offset
      | tie k =>
        have same : p.sync.offset = s.sync.offset := offset
        rw [offsetTie k ho, same]
    · obtain ⟨plant, scan, shed, resv, line, hprof, hstart, hconf⟩ := kept
      exact ⟨plant, scan, shed, resv, line, hprof.trans prof, hstart.trans start, hconf.trans conf⟩
  · rw [coarseStep_holds h]
    exact ⟨rfl, rfl⟩
  · rw [coarseStep_lost h]
    exact ⟨rfl, rfl⟩
  · rw [fineStep_plain h]
    exact fineHolds_iff s r
  · exact (fineStep_ringClose h).2 (Bool.eq_false_iff.2 fun k => hh ((ringHolds_iff s r).1 k))
  · rw [speedStep_some hv, SyncReq.target, if_neg (by rw [h]; exact Bool.false_ne_true)]

end Sys2Proof.Machine

/-! The commands of the Profile Unit that begin an entry or set FRESH (08 R141 to R143, R149). -/

namespace Sys2Proof.Machine

/-! ### Patches go into a bank (08 R142) -/

section
variable (ratings : Vector Nat 8) (n : Nat) (q : Patch) (qs : List Patch) (b : Bank)

theorem applyPatches_nil : applyPatches ratings n [] b = (b, none) := by
  rw [applyPatches]

theorem applyPatches_empty (h : q.count = 0) : applyPatches ratings n (q :: qs) b = (b, none) := by
  rw [applyPatches, if_pos h]

theorem applyPatches_invalid (h : q.count ≠ 0) (hb : applyPatch ratings b q = none) :
    applyPatches ratings n (q :: qs) b = (b, some n) := by
  rw [applyPatches, if_neg h]
  simp only [hb]

theorem applyPatches_valid {b' : Bank} (h : q.count ≠ 0) (hb : applyPatch ratings b q = some b') :
    applyPatches ratings n (q :: qs) b = applyPatches ratings (n + 1) qs b' := by
  rw [applyPatches, if_neg h]
  simp only [hb]

end

/-- The entries of a patch at consecutive indices from `first`. -/
def patched {α : Type} {n : Nat} (first : Nat) (es : List α) (v : Vector α n) : Vector α n :=
  tab (fun j x => if first ≤ j.val then es.getD (j.val - first) x else x) v

theorem patched_get {α : Type} {n : Nat} (first : Nat) (es : List α) (v : Vector α n) (j : Fin n) :
    (patched first es v)[j] = if first ≤ j.val then es.getD (j.val - first) v[j] else v[j] := get_tab ..

/-- The levels and loads of a patch are in range. -/
def groupsFit (es : List GroupBank) : Bool := es.all fun e => decide (e.level ≤ 7) && decide (e.load ≤ 20000)

theorem groupsFit_iff (es : List GroupBank) : groupsFit es = true ↔ ∀ e ∈ es, e.level ≤ 7 ∧ e.load ≤ 20000 := by
  simp only [groupsFit, List.all_eq_true, Bool.and_eq_true, decide_eq_true_iff]

/-- The base points of a patch on the sets from `first` are within the ratings. -/
def setsFit (ratings : Vector Nat 8) (first : Nat) (es : List SetBank) : Bool :=
  (List.range es.length).all fun k =>
    match eight[first + k]? with
    | some j => decide ((es.getD k { mode := .share, base := 0 }).base ≤ ratings[j])
    | none => false

theorem eight_getElem? (g : Fin 8) : eight[g.val]? = some g := by
  revert g
  decide

theorem setsFit_iff (ratings : Vector Nat 8) {first : Nat} {es : List SetBank} (h : first + es.length ≤ 8) :
    setsFit ratings first es = true ↔
      ∀ (k : Nat) (g : Fin 8) (e : SetBank), es[k]? = some e → g.val = first + k → e.base ≤ ratings[g] := by
  rw [setsFit, List.all_eq_true]
  refine ⟨fun all k g e he hg => ?_, fun all k hk => ?_⟩
  · have short : k < es.length := (List.getElem?_eq_some_iff.1 he).1
    have fit := all k (List.mem_range.2 short)
    rw [← hg, eight_getElem?, List.getD_eq_getElem?_getD, he] at fit
    exact of_decide_eq_true fit
  · have short : k < es.length := List.mem_range.1 hk
    have small : first + k < 8 := by omega
    have fit := all k ⟨first + k, small⟩ es[k] (List.getElem?_eq_getElem short) rfl
    rw [eight_getElem? ⟨first + k, small⟩, List.getD_eq_getElem?_getD, List.getElem?_eq_getElem short]
    exact decide_eq_true fit

theorem applyPatch_groups (ratings : Vector Nat 8) (b : Bank) (first : Nat) (es : List GroupBank) :
    applyPatch ratings b (.groups first es) =
      if first + es.length ≤ 32 ∧ groupsFit es = true then some { b with groups := patched first es b.groups }
      else none := by
  rw [applyPatch]
  rfl

theorem applyPatch_sets (ratings : Vector Nat 8) (b : Bank) (first : Nat) (es : List SetBank) :
    applyPatch ratings b (.sets first es) =
      if first + es.length ≤ 8 ∧ setsFit ratings first es = true then some { b with sets := patched first es b.sets }
      else none := by
  rw [applyPatch]
  rfl

theorem patchesApply : PatchesApply := by
  refine ⟨applyPatches_nil, fun ratings n q qs b => ⟨applyPatches_empty ratings n q qs b, applyPatches_invalid ratings n q qs b,
    fun b' => applyPatches_valid ratings n q qs b⟩, fun ratings b first es => ?_, fun ratings b first es => ?_⟩
  · intro valid
    rw [applyPatch_groups]
    exact ⟨fun h => if_neg fun k => h ⟨k.1, (groupsFit_iff es).1 k.2⟩, fun h =>
      ⟨_, if_pos ⟨h.1, (groupsFit_iff es).2 h.2⟩, rfl, patched_get first es b.groups⟩⟩
  · intro valid
    rw [applyPatch_sets]
    exact ⟨fun h => if_neg fun k => h ⟨k.1, (setsFit_iff ratings k.1).1 k.2⟩, fun h =>
      ⟨_, if_pos ⟨h.1, (setsFit_iff ratings h.1).2 h.2⟩, rfl, patched_get first es b.sets⟩⟩

/-! ### The build (08 R142, R143) -/

section
variable (s : State) (p : Fin 8)

theorem buildBank_copies (h : (s.conf.profiles[p]).patch = false) : buildBank s p = (s.prof.active, none) :=
  if_neg (by rw [h]; exact Bool.false_ne_true)

theorem buildBank_patches (h : (s.conf.profiles[p]).patch = true) :
    buildBank s p = applyPatches s.conf.ratings 1 (s.conf.profiles[p]).patches s.prof.active := if_pos h

theorem ratings_get (img : Image) (g : Fin 8) : img.ratings[g] = (img.sets[g]).rating :=
  get_tab (fun (_ : Fin 8) (c : SetCfg) => c.rating) img.sets g

theorem buildFail_patch {n : Nat} (h : (buildBank s p).2 = some n) : buildFail s p = some n := by
  simp only [buildFail, h]

theorem buildFail_block (h : (buildBank s p).2 = none) :
    buildFail s p = if (targetBlock s p).consistent then none else some 0 := by
  simp only [buildFail, h]

end

/-! ### ENTER, PUSH and POP (08 R141) -/

section
variable (s : State) (p : Fin 8)

theorem enterProfile_index :
    enterProfile [(p.val : Int)] s =
      if ¬ s.running = true then (s, .refused .wrongState)
      else if s.entering = true then (s, .busy)
      else if ¬ profilePresent s p = true then (s, .refused .notPresent)
      else if p ∈ s.prof.stack ∧ s.prof.stack.getLast? ≠ some p then (s, .refused .onStack)
      else (startEntry .enter p s, .ok) := by
  unfold enterProfile
  rw [arg_zero, index_nat]
  rfl

theorem pushProfile_index :
    pushProfile [(p.val : Int)] s =
      if ¬ s.running = true then (s, .refused .wrongState)
      else if s.entering = true then (s, .busy)
      else if ¬ profilePresent s p = true then (s, .refused .notPresent)
      else if ¬ s.prof.stack.length < 4 then (s, .refused .depth)
      else if p ∈ s.prof.stack then (s, .refused .onStack)
      else (startEntry .push p s, .ok) := by
  unfold pushProfile
  rw [arg_zero, index_nat]
  rfl

theorem refreshProfile_index :
    refreshProfile [(p.val : Int)] s =
      if ¬ s.running = true then (s, .refused .wrongState)
      else if ¬ profilePresent s p = true then (s, .refused .notPresent)
      else if isTarget s p = true then (s, .busy)
      else ({ s with prof.fresh := put s.prof.fresh p true }, .ok) := by
  unfold refreshProfile
  rw [arg_zero, index_nat]
  rfl

variable {n : Nat} (h : 8 ≤ n)
include h

theorem enterProfile_badField : enterProfile [(n : Int)] s = (s, .refused .badField) := by
  unfold enterProfile
  rw [arg_zero, index_none h]
  rfl

theorem pushProfile_badField : pushProfile [(n : Int)] s = (s, .refused .badField) := by
  unfold pushProfile
  rw [arg_zero, index_none h]
  rfl

theorem refreshProfile_badField : refreshProfile [(n : Int)] s = (s, .refused .badField) := by
  unfold refreshProfile
  rw [arg_zero, index_none h]
  rfl

end

section
variable {l : Link} {seq : Byte} {s : State}

theorem exec_enter (ht : Takes l s) (n : Byte) :
    exec (.enter l seq [n]) s =
      .next (answerTo l 48 seq (enterProfile [(n.toNat : Int)] (validFrame l s)).2
        (enterProfile [(n.toNat : Int)] (validFrame l s)).1) :=
  congrArg Host.Outcome.next (request_taken rfl (readFields_one n) (by decide) ht)

theorem exec_push (ht : Takes l s) (n : Byte) :
    exec (.push l seq [n]) s =
      .next (answerTo l 49 seq (pushProfile [(n.toNat : Int)] (validFrame l s)).2
        (pushProfile [(n.toNat : Int)] (validFrame l s)).1) :=
  congrArg Host.Outcome.next (request_taken rfl (readFields_one n) (by decide) ht)

theorem exec_pop (ht : Takes l s) :
    exec (.pop l seq []) s =
      .next (answerTo l 50 seq (popProfile [] (validFrame l s)).2 (popProfile [] (validFrame l s)).1) :=
  congrArg Host.Outcome.next (request_taken (ws := []) (vs := []) rfl rfl (by decide) ht)

theorem exec_refresh (ht : Takes l s) (n : Byte) :
    exec (.refresh l seq [n]) s =
      .next (answerTo l 51 seq (refreshProfile [(n.toNat : Int)] (validFrame l s)).2
        (refreshProfile [(n.toNat : Int)] (validFrame l s)).1) :=
  congrArg Host.Outcome.next (request_taken rfl (readFields_one n) (by decide) ht)

end

/-- The target of POP is the entry under the top. -/
theorem popTarget (under : List (Fin 8)) (p top : Fin 8) : (under ++ [p, top]).dropLast.getLast? = some p := by
  rw [List.dropLast_append_of_ne_nil (by simp)]
  simp

theorem popTarget_none {stack : List (Fin 8)} (h : stack.length ≤ 1) : stack.dropLast.getLast? = none := by
  match stack, h with
  | [], _ => rfl
  | [_], _ => rfl

theorem popProfile_shallow {s : State} (hr : s.running = true) (he : s.entering = false) (h : s.prof.stack.length ≤ 1) :
    popProfile [] s = (s, .refused .depth) := by
  simp only [popProfile, hr, he, popTarget_none h, not_true, if_false, Bool.false_eq_true, refuse]

theorem popProfile_target {s : State} {under : List (Fin 8)} {p top : Fin 8} (hr : s.running = true)
    (he : s.entering = false) (h : s.prof.stack = under ++ [p, top]) :
    popProfile [] s = if ¬ profilePresent s p = true then (s, .refused .notPresent) else (startEntry .pop p s, .ok) := by
  simp only [popProfile, hr, he, h, popTarget, not_true, if_false, Bool.false_eq_true, refuse]

theorem profilePresent_valid (l : Link) (s : State) (p : Fin 8) :
    profilePresent (validFrame l s) p = profilePresent s p := by
  rw [profilePresent, profilePresent, validFrame_conf]

/-- ENTER and PUSH of a target, command by command. -/
theorem enter_push_answers {l : Link} {seq n : Byte} {s : State} (ht : Takes l s) {p : Fin 8} (hn : n.toNat = p.val)
    (hr : s.running = true) (he : s.entering = false) :
    (profilePresent s p = false →
      exec (.enter l seq [n]) s = .next (turnedAway l 48 seq (.refused .notPresent) s) ∧
      exec (.push l seq [n]) s = .next (turnedAway l 49 seq (.refused .notPresent) s)) ∧
    (profilePresent s p = true →
      ((p ∈ s.prof.stack ∧ s.prof.stack.getLast? ≠ some p) →
        exec (.enter l seq [n]) s = .next (turnedAway l 48 seq (.refused .onStack) s)) ∧
      ((p ∉ s.prof.stack ∨ s.prof.stack.getLast? = some p) →
        exec (.enter l seq [n]) s = .next (answerTo l 48 seq .ok (startEntry .enter p (validFrame l s)))) ∧
      (4 ≤ s.prof.stack.length → exec (.push l seq [n]) s = .next (turnedAway l 49 seq (.refused .depth) s)) ∧
      (s.prof.stack.length < 4 → p ∈ s.prof.stack →
        exec (.push l seq [n]) s = .next (turnedAway l 49 seq (.refused .onStack) s)) ∧
      (s.prof.stack.length < 4 → p ∉ s.prof.stack →
        exec (.push l seq [n]) s = .next (answerTo l 49 seq .ok (startEntry .push p (validFrame l s))))) := by
  have enter := exec_enter (seq := seq) ht n
  have push := exec_push (seq := seq) ht n
  rw [hn] at enter push
  have entered := enterProfile_index (validFrame l s) p
  have pushed := pushProfile_index (validFrame l s) p
  obtain ⟨-, running, entering, -⟩ := validFrame_checks l s
  have busy : ¬ s.entering = true := by rw [he]; exact Bool.false_ne_true
  rw [running, entering, profilePresent_valid, validFrame_prof, if_neg (not_not.2 hr), if_neg busy] at entered pushed
  refine ⟨fun hp => ?_, fun hp => ?_⟩
  · have absent : ¬ profilePresent s p = true := by rw [hp]; exact Bool.false_ne_true
    rw [if_pos absent] at entered pushed
    exact ⟨exec_turnedAway enter entered, exec_turnedAway push pushed⟩
  rw [if_neg (not_not.2 hp)] at entered pushed
  refine ⟨fun hs => ?_, fun hs => ?_, fun hd => ?_, fun hd hs => ?_, fun hd hs => ?_⟩
  · rw [if_pos hs] at entered
    exact exec_turnedAway enter entered
  · rw [if_neg fun k => hs.elim (· k.1) k.2] at entered
    exact exec_answered enter entered
  · rw [if_pos (not_lt.2 hd)] at pushed
    exact exec_turnedAway push pushed
  · rw [if_neg (not_not.2 hd), if_pos hs] at pushed
    exact exec_turnedAway push pushed
  · rw [if_neg (not_not.2 hd), if_neg hs] at pushed
    exact exec_answered push pushed

/-- The checks that ENTER and PUSH share. -/
theorem enter_push_checks {l : Link} {seq n : Byte} {s : State} (ht : Takes l s) (hn : n.toNat < 8) :
    (s.running = false →
      exec (.enter l seq [n]) s = .next (turnedAway l 48 seq (.refused .wrongState) s) ∧
      exec (.push l seq [n]) s = .next (turnedAway l 49 seq (.refused .wrongState) s)) ∧
    (s.running = true → s.entering = true →
      exec (.enter l seq [n]) s = .next (turnedAway l 48 seq .busy s) ∧
      exec (.push l seq [n]) s = .next (turnedAway l 49 seq .busy s)) := by
  have enter := exec_enter (seq := seq) ht n
  have push := exec_push (seq := seq) ht n
  have entered := enterProfile_index (validFrame l s) ⟨n.toNat, hn⟩
  have pushed := pushProfile_index (validFrame l s) ⟨n.toNat, hn⟩
  obtain ⟨-, running, entering, -⟩ := validFrame_checks l s
  rw [running, entering] at entered pushed
  refine ⟨fun hr => ?_, fun hr he => ?_⟩
  · have stopped : ¬ s.running = true := by rw [hr]; exact Bool.false_ne_true
    rw [if_pos stopped] at entered pushed
    exact ⟨exec_turnedAway enter entered, exec_turnedAway push pushed⟩
  · rw [if_neg (not_not.2 hr), if_pos he] at entered pushed
    exact ⟨exec_turnedAway enter entered, exec_turnedAway push pushed⟩

/-- POP, command by command. -/
theorem pop_answers {l : Link} {seq : Byte} {s : State} (ht : Takes l s) :
    (s.running = false → exec (.pop l seq []) s = .next (turnedAway l 50 seq (.refused .wrongState) s)) ∧
    (s.running = true → s.entering = true → exec (.pop l seq []) s = .next (turnedAway l 50 seq .busy s)) ∧
    (s.running = true → s.entering = false →
      (s.prof.stack.length ≤ 1 → exec (.pop l seq []) s = .next (turnedAway l 50 seq (.refused .depth) s)) ∧
      ∀ (under : List (Fin 8)) (p top : Fin 8), s.prof.stack = under ++ [p, top] →
        (profilePresent s p = false →
          exec (.pop l seq []) s = .next (turnedAway l 50 seq (.refused .notPresent) s)) ∧
        (profilePresent s p = true →
          exec (.pop l seq []) s = .next (answerTo l 50 seq .ok (startEntry .pop p (validFrame l s))))) := by
  have run := exec_pop (seq := seq) ht
  obtain ⟨-, running, entering, -⟩ := validFrame_checks l s
  refine ⟨fun hr => exec_turnedAway run ?_, fun hr he => exec_turnedAway run ?_, fun hr he => ⟨fun hd =>
    exec_turnedAway run (popProfile_shallow (running.trans hr) (entering.trans he) (by rw [validFrame_prof]; exact hd)),
    fun under p top hs => ?_⟩⟩
  · rw [popProfile, running, if_pos (by rw [hr]; exact Bool.false_ne_true)]
    rfl
  · rw [popProfile, running, entering, if_neg (not_not.2 hr), if_pos he]
  · have popped := popProfile_target (running.trans hr) (entering.trans he)
      (show (validFrame l s).prof.stack = _ by rw [validFrame_prof]; exact hs)
    rw [profilePresent_valid] at popped
    refine ⟨fun hp => ?_, fun hp => ?_⟩
    · rw [if_pos (by rw [hp]; exact Bool.false_ne_true)] at popped
      exact exec_turnedAway run popped
    · rw [if_neg (not_not.2 hp)] at popped
      exact exec_answered run popped

/-- Settles O51. -/
theorem entriesBegin : Obligations.EntriesBegin := by
  refine ⟨patchesApply, settings_consistent_iff, fun s p => ⟨buildBank_copies s p,
    fun h => ⟨_, ratings_get s.conf, buildBank_patches s p h⟩, fun n => buildFail_patch s p, buildFail_block s p⟩, ?_⟩
  intro l seq n s ht v
  obtain ⟨stopped, busy, pops⟩ := pop_answers (seq := seq) ht
  refine ⟨fun h => ⟨exec_turnedAway (exec_enter ht n) (enterProfile_badField _ h),
    exec_turnedAway (exec_push ht n) (pushProfile_badField _ h)⟩, fun h => (enter_push_checks ht h).1,
    fun h => (enter_push_checks ht h).2, fun p hn hr he => enter_push_answers ht hn hr he, stopped, busy, pops,
    fun cmd p => ?_⟩
  intro t
  have shape : v = { s with link := v.link } := validFrame_eq l s
  have begun : t = startEntry cmd p { s with link := v.link } := congrArg (startEntry cmd p) shape
  rw [begun]
  exact ⟨rfl, rfl, rfl, rfl, rfl, rfl, rfl, rfl⟩

end Sys2Proof.Machine

/-! The end of a profile entry's build (08 R144, R145) and REFRESH (08 R149). -/

namespace Sys2Proof.Machine

/-! ### An event update starts no restore delay (06 R115) -/

def DelaysIdle (s : State) : Prop := ∀ i : Fin 4, s.shed.restore[i] = none

theorem delaysIdle_of {s t : State} (h : t.shed = s.shed) (k : DelaysIdle s) : DelaysIdle t := fun i => by
  rw [h]
  exact k i

theorem delaysIdle_blackoutIfDead {b : State} {i : Fin 4} {s : State} (k : DelaysIdle s) :
    DelaysIdle (blackoutIfDead b i s) := by
  have shed : DelaysIdle (blackoutShed i s) := fun j =>
    (shedAction_restore .blackout (shedOrder s i) j s).trans ((congrArg _ (k j)).trans (ite_self _))
  unfold blackoutIfDead
  split
  · split
    · exact shed
    · exact k
  · exact k

theorem delaysIdle_shedUpdate {i : Fin 4} {s : State} (k : DelaysIdle s) : DelaysIdle (shedUpdate false i s) := by
  by_cases hr : s.running = true
  · cases ha : s.plant.accounts[i] with
    | none => exact delaysIdle_of (by rw [shedUpdate, if_pos hr, ha]) k
    | some a =>
      intro j
      obtain ⟨restore, others⟩ := shedUpdate_restore (scan := false) hr (Option.isSome_of_eq_some ha)
      by_cases hj : j = i
      · rw [hj, restore, k i]
        exact ite_self _
      · exact (others j hj).trans (k j)
  · exact delaysIdle_of (by rw [shedUpdate, if_neg hr]) k

theorem delaysIdle_reUpdate {i : Fin 4} {s : State} (k : DelaysIdle s) : DelaysIdle (reUpdate i s) :=
  delaysIdle_of (seeWanted_shed i _)
    (delaysIdle_shedUpdate (delaysIdle_of (abortUnloads_shed i _) (delaysIdle_of (recompute_shed [i] s) k)))

theorem delaysIdle_arbiterUpdate {i : Fin 4} {s : State} (k : DelaysIdle s) : DelaysIdle (arbiterUpdate i s) := by
  have seen : DelaysIdle (seeWanted i s) := delaysIdle_of (seeWanted_shed i s) k
  unfold arbiterUpdate
  dsimp only
  split
  · split
    next h => exact delaysIdle_reUpdate (delaysIdle_of (offerTest_shed h) seen)
    next => exact seen
  · exact seen

theorem delaysIdle_accountUpdate {b : State} {is : List (Fin 4)} {s : State} (k : DelaysIdle s) :
    DelaysIdle (accountUpdate false b is s) := by
  have recomputed : DelaysIdle (recompute is s) := delaysIdle_of (recompute_shed is s) k
  refine foldl_inv (fun t i h => delaysIdle_arbiterUpdate h) is _ ?_
  refine foldl_inv (fun t i h => delaysIdle_shedUpdate h) is _ ?_
  refine foldl_inv (fun t i h => delaysIdle_blackoutIfDead h) is _ ?_
  exact foldl_inv (fun t i h => delaysIdle_of (abortUnloads_shed i t) h) is _ recomputed

/-! ### The completion of an entry (08 R144) -/

/-- The Profile Unit after the completion of an entry. -/
def profAfter (e : EntryOp) (p : Prof) : Prof :=
  { fresh := put p.fresh e.target false, working := put p.working e.target e.block, active := p.standby,
    standby := p.active, stack := stackAfter e.command e.target p.stack, entry := none }

/-- The state an entry's completion hands to the account update. -/
def entered (e : EntryOp) (s : State) : State :=
  autoOffCancels
    (notify .profileEntered (some e.target.val) (some ((stackAfter e.command e.target s.prof.stack).length : Int))
      { s with prof := profAfter e s.prof })

theorem entryCompletes_eq (e : EntryOp) (s : State) : entryCompletes e s = accountUpdate false s four (entered e s) := by
  unfold entryCompletes entered profAfter
  rfl

theorem autoOffCancels_changes (s : State) :
    autoOffCancels s =
      { s with shed.restore := if (settings s).autoRestore then s.shed.restore else Vector.replicate 4 none } := by
  unfold autoOffCancels
  by_cases h : (settings s).autoRestore = true
  · rw [if_pos h, if_pos h]
  · rw [if_neg h, if_neg h]
    rfl

theorem autoOffCancels_idle {s : State} (h : (settings s).autoRestore = false) : DelaysIdle (autoOffCancels s) := fun i => by
  rw [autoOffCancels_changes, h]
  exact Vector.getElem_replicate i.isLt

theorem entered_changes (e : EntryOp) (s : State) :
    entered e s =
      { s with
        prof := profAfter e s.prof, link := (entered e s).link,
        shed.restore :=
          if (settings { s with prof := profAfter e s.prof }).autoRestore then s.shed.restore
          else Vector.replicate 4 none } := by
  unfold entered
  rw [autoOffCancels_changes]
  rfl

theorem entered_settings (e : EntryOp) (s : State) :
    settings (entered e s) = settings { s with prof := profAfter e s.prof } := by
  rw [entered_changes]
  rfl

theorem entered_idle (e : EntryOp) (s : State) (h : (settings (entered e s)).autoRestore = false) :
    DelaysIdle (entered e s) := by
  rw [entered_settings] at h
  exact autoOffCancels_idle h

theorem entered_delivers (e : EntryOp) (s : State) :
    Delivers
      [newNotice .profileEntered (some e.target.val)
        (some ((stackAfter e.command e.target s.prof.stack).length : Int)) s] s (entered e s) := by
  have sent := (delivers_nil_of_link (s := s) (t := { s with prof := profAfter e s.prof }) rfl).trans
    (delivers_notify .profileEntered (some e.target.val)
      (some ((stackAfter e.command e.target s.prof.stack).length : Int)) { s with prof := profAfter e s.prof })
  have quiet (t : State) : Delivers [] t (autoOffCancels t) :=
    delivers_nil_of_link (by rw [autoOffCancels_changes])
  have both := sent.trans (quiet _)
  rw [List.append_nil, List.nil_append] at both
  exact both

theorem Delivers.sends {n : Notice} {s t : State} (h : Delivers [n] s t) : Sends n s t :=
  ⟨⟨[], (h .a).1.trans (List.append_nil _).symm⟩, [], (h .b).1.trans (List.append_nil _).symm⟩

theorem recompute_of_isSome {is : List (Fin 4)} {X : State} {i : Fin 4} (hi : i ∈ is) {b : Account}
    (h : (recompute is X).plant.accounts[i] = some b) : AccountOf X i b := by
  obtain ⟨-, vacant, made⟩ := recompute_cases is i X
  cases hp : X.plant.partition with
  | none => exact absurd (h.symm.trans (vacant hi hp)) (by simp)
  | some p =>
    obtain ⟨vacant, made⟩ := made p hi hp
    by_cases hm : p[i] = i ∧ ∃ x : Fin 4, p[x] = i ∧ sectPresent X x = true
    · obtain ⟨a, ha, account, -⟩ := made hm.1 hm.2
      cases ha.symm.trans h
      exact account
    · have none_made := vacant (by
        by_cases hi : p[i] = i
        · exact Or.inr fun x hx => Bool.eq_false_iff.2 fun hs => hm ⟨hi, x, hx, hs⟩
        · exact Or.inl hi)
      exact absurd (h.symm.trans none_made) (by simp)

theorem mem_four_all (i : Fin 4) : i ∈ four := by
  revert i
  decide

theorem exec_buildEnd_fails {e : EntryOp} {n : Nat} {s : State} (h : s.prof.entry = some e) (hf : e.fail = some n) :
    exec .profileBuildEnd s = .next
      (notify .profileFailed (some e.target.val) (some (n : Int))
        { s with prof.standby := e.saved, prof.entry := none }) := by
  change execProfileBuildEnd s = _
  simp only [execProfileBuildEnd, h, hf, entryFails]

theorem exec_buildEnd_completes {e : EntryOp} {s : State} (h : s.prof.entry = some e) (hf : e.fail = none) :
    exec .profileBuildEnd s = .next (accountUpdate false s four (entered e s)) := by
  change execProfileBuildEnd s = _
  simp only [execProfileBuildEnd, h, hf, entryCompletes_eq]

theorem exec_buildEnd_idle {s : State} (h : s.prof.entry = none) : exec .profileBuildEnd s = .next s := by
  change execProfileBuildEnd s = _
  simp only [execProfileBuildEnd, h]

theorem get_put_self {α : Type} {n : Nat} (v : Vector α n) (i : Fin n) (x : α) : (put v i x)[i] = x :=
  (get_put v i i x).trans (if_pos rfl)

/-- What the completion of an entry leaves and brings. -/
theorem entryCompletes_effect (e : EntryOp) (s : State) :
    let t := accountUpdate false s four (entered e s)
    t.prof = profAfter e s.prof ∧
    Sends (newNotice .profileEntered (some e.target.val)
      (some ((stackAfter e.command e.target s.prof.stack).length : Int)) s) s t ∧
    ((settings t).autoRestore = false → DelaysIdle t) ∧
    (∀ i, getFilter t i = getFilter s i) ∧ t.plant.partition = s.plant.partition ∧
    t.plant.generation = s.plant.generation ∧ t.scan = s.scan ∧ t.sync = s.sync ∧ t.start = s.start ∧
    t.conf = s.conf ∧ ∀ g : Fin 8, t.biasOut g = s.biasOut g := by
  have updates := updates_accountUpdate false s four (entered e s)
  have idle : DelaysIdle (entered e s) → DelaysIdle (accountUpdate false s four (entered e s)) := delaysIdle_accountUpdate
  have off : (settings (entered e s)).autoRestore = false → DelaysIdle (entered e s) := entered_idle e s
  have delivers := entered_delivers e s
  have changes := entered_changes e s
  dsimp only
  generalize accountUpdate false s four (entered e s) = t at *
  generalize entered e s = w at *
  obtain ⟨⟨filters, ⟨partition, generation, -⟩, -, ⟨scan, sync, prof, start, conf⟩, outs, -⟩, grows⟩ := updates
  refine ⟨prof.trans (by rw [changes]), delivers.sends.grows grows,
    fun h => idle (off (by rw [← settings_of prof]; exact h)), fun i => (filters i).trans ?_,
    partition.trans (by rw [changes]), generation.trans (by rw [changes]), scan.trans (by rw [changes]),
    sync.trans (by rw [changes]), start.trans (by rw [changes]), conf.trans (by rw [changes]), fun g => (outs g).1.trans ?_⟩
  · rw [changes]
    exact getFilter_of ⟨rfl, rfl, rfl, rfl, rfl⟩ i
  · rw [changes]
    rfl

/-- Settles O52. -/
theorem buildEndCompletesOrFails : Obligations.BuildEndCompletesOrFails := by
  refine ⟨fun e n s => exec_buildEnd_fails, fun e s h hf => ?_, fun s => exec_buildEnd_idle⟩
  intro stack
  have stacked : stack = stackAfter e.command e.target s.prof.stack := by
    cases hc : e.command <;> simp only [stack, stackAfter, hc]
  rw [stacked]
  clear_value stack
  obtain ⟨prof, sends, idle, filters, partition, generation, scan, sync, start, conf, bias⟩ := entryCompletes_effect e s
  have changes := entered_changes e s
  have settled := entered_settings e s
  have kept := settings_of (s := entered e s) (t := accountUpdate false s four (entered e s))
    (prof.trans (by rw [changes]))
  have delivers := entered_delivers e s
  refine ⟨_, exec_buildEnd_completes h hf, congrArg Prof.active prof, congrArg Prof.standby prof, congrArg Prof.entry prof,
    congrArg Prof.stack prof, ?_, ?_, fun p hp => ⟨?_, ?_⟩, sends, idle, ⟨entered e s, rfl, ?_⟩, filters, partition,
    generation, scan, sync, start, conf, bias⟩
  · rw [prof]
    exact get_put_self s.prof.working e.target e.block
  · rw [prof]
    exact get_put_self s.prof.fresh e.target false
  · rw [prof]
    exact (get_put s.prof.working e.target p e.block).trans (if_neg (Ne.symm hp))
  · rw [prof]
    exact (get_put s.prof.fresh e.target p false).trans (if_neg (Ne.symm hp))
  · rw [kept, settled, prof]
    refine ⟨by rw [changes], by rw [changes], by rw [changes], by rw [changes], by rw [changes], by rw [changes],
      by rw [changes], by rw [changes], by rw [changes], by rw [changes], by rw [changes], by rw [changes], delivers,
      fun i a ha => recompute_of_isSome (mem_four_all i) ha⟩

/-! ### REFRESH (08 R149) -/

theorem isTarget_iff (s : State) (p : Fin 8) : isTarget s p = true ↔ ∃ e, s.prof.entry = some e ∧ e.target = p := by
  unfold isTarget
  cases s.prof.entry with
  | none => simp
  | some e => simp

theorem isTarget_of {s t : State} (h : t.prof = s.prof) (p : Fin 8) : isTarget t p = isTarget s p := by
  simp only [isTarget, h]

theorem freshSet_eq {s : State} {w : Vector Bool 8} (h : s.prof.fresh = w) (p : Fin 8) :
    { s with prof.fresh := put s.prof.fresh p true } = { s with prof.fresh := put w p true } := by
  subst h
  rfl

/-- Settles O53. -/
theorem refreshSetsFresh : Obligations.RefreshSetsFresh := by
  intro l seq s ht v
  refine ⟨fun n hn => exec_turnedAway (exec_refresh ht n) (refreshProfile_badField _ hn), fun p => ?_⟩
  intro c
  have run := exec_refresh (seq := seq) ht (BitVec.ofNat 8 p.val)
  rw [byte_toNat (by omega)] at run
  have chain := refreshProfile_index v p
  obtain ⟨-, running, -, -⟩ := validFrame_checks l s
  have prof : v.prof = s.prof := validFrame_prof l s
  have conf : v.conf = s.conf := validFrame_conf l s
  rw [running, profilePresent_valid, isTarget_of prof] at chain
  refine ⟨fun hr => ?_, fun hr hp => ?_, fun hr hp => ⟨fun e he hte => ?_, fun hn => ?_⟩⟩
  · rw [if_pos (by rw [hr]; exact Bool.false_ne_true)] at chain
    exact exec_turnedAway run chain
  · rw [if_neg (not_not.2 hr), if_pos (by rw [hp]; exact Bool.false_ne_true)] at chain
    exact exec_turnedAway run chain
  · rw [if_neg (not_not.2 hr), if_neg (not_not.2 hp), if_pos ((isTarget_iff s p).2 ⟨e, he, hte⟩)] at chain
    exact exec_turnedAway run chain
  · have free : ¬ isTarget s p = true := fun h =>
      ((isTarget_iff s p).1 h).elim fun e ⟨he, hte⟩ => hn e he hte
    rw [if_neg (not_not.2 hr), if_neg (not_not.2 hp), if_neg free] at chain
    intro t
    rw [freshSet_eq (congrArg Prof.fresh prof) p] at chain
    refine ⟨exec_answered run chain, ?_, fun cmd => ⟨_, rfl, ?_⟩, fun e u he hf => ?_⟩
    · exact (show settings t = settings v from rfl).trans (settings_of prof)
    · have fresh : t.prof.fresh[p] = true := get_put_self s.prof.fresh p true
      have block : targetBlock t p = (t.conf.profiles[p]).initial := if_pos fresh
      rw [← conf]
      exact block
    · refine ⟨_, exec_buildEnd_completes he hf, ?_⟩
      rw [(entryCompletes_effect e u).1]
      exact get_put_self u.prof.working e.target e.block

end Sys2Proof.Machine

/-! Entries of the reservation queue: how they begin, are accepted and end (07 R127, R130, R131). -/

namespace Sys2Proof.Machine

/-! ### One entry's record -/

theorem isOf_iff (x : Fin 12) (c : Fin 4) (e : Entry) : e.isOf x c = true ↔ e.station = x ∧ e.consumer = c := by
  rw [Entry.isOf, Bool.and_eq_true, decide_eq_true_iff, decide_eq_true_iff]

theorem findEntry_some {s : State} {x : Fin 12} {c : Fin 4} {e : Entry} (h : findEntry s x c = some e) :
    e ∈ s.resv.queue ∧ e.station = x ∧ e.consumer = c :=
  ⟨List.mem_of_find?_eq_some h, (isOf_iff x c e).1 (List.find?_some h)⟩

theorem findEntry_none {s : State} {x : Fin 12} {c : Fin 4} :
    findEntry s x c = none ↔ ∀ e ∈ s.resv.queue, ¬ (e.station = x ∧ e.consumer = c) := by
  refine List.find?_eq_none.trans (forall₂_congr fun e _ => ?_)
  exact not_congr (isOf_iff x c e)

theorem findEntry_isSome {s : State} {x : Fin 12} {c : Fin 4} {e : Entry} (he : e ∈ s.resv.queue) (hx : e.station = x)
    (hc : e.consumer = c) : (findEntry s x c).isSome = true := by
  cases h : findEntry s x c with
  | some f => rfl
  | none => exact absurd ⟨hx, hc⟩ (findEntry_none.1 h e he)

theorem findEntry_of {s t : State} (h : t.resv.queue = s.resv.queue) (x : Fin 12) (c : Fin 4) :
    findEntry t x c = findEntry s x c := by
  rw [findEntry, findEntry, h]

/-- An entry's record as time passes. -/
theorem findEntry_elapse {s : State} {x : Fin 12} {c : Fin 4} {e : Entry} (n : Nat) (h : findEntry s x c = some e) :
    ∃ f, findEntry (elapse n s) x c = some f ∧ f.sect = e.sect ∧ f.kw = e.kw := by
  obtain ⟨m, hq⟩ := elapse_queue n s
  refine ⟨{ e with remaining := e.remaining - m }, ?_, rfl, rfl⟩
  unfold findEntry at h ⊢
  rw [hq, List.find?_map]
  exact congrArg (Option.map fun e : Entry => { e with remaining := e.remaining - m }) h

theorem dropEntry_queue (x : Fin 12) (c : Fin 4) (s : State) :
    (dropEntry x c s).resv.queue = s.resv.queue.filter fun e => decide (¬ (e.station = x ∧ e.consumer = c)) := by
  refine List.filter_congr fun e _ => ?_
  rw [Entry.isOf, ← Bool.decide_and, decide_not]

/-! ### Entries through an account update -/

section
variable {s t : State} {x : Fin 12} {c : Fin 4}

theorem QueueMoves.gone (h : QueueMoves s t) (hg : ∀ f ∈ s.resv.queue, ¬ (f.station = x ∧ f.consumer = c)) :
    (∀ f ∈ t.resv.queue, ¬ (f.station = x ∧ f.consumer = c)) ∧
      (t.line.stations[x]).answers[c] = (s.line.stations[x]).answers[c] := by
  obtain ⟨m, queue, fixed, still, -⟩ := h
  refine ⟨fun f hf => ?_, (still x c fun e he hi => absurd ((isOf_iff x c e).1 hi) (hg e he)).2⟩
  rw [queue] at hf
  obtain ⟨e, he, rfl⟩ := List.mem_map.1 hf
  obtain ⟨station, consumer, -⟩ := fixed e
  rw [station, consumer]
  exact hg e he

/-- An ACTIVE entry stands through an account update. -/
theorem QueueMoves.active (h : QueueMoves s t)
    (ha : ∀ f ∈ s.resv.queue, f.station = x → f.consumer = c → f.state = .active) :
    (∀ f ∈ s.resv.queue, f.station = x → f.consumer = c → f ∈ t.resv.queue) ∧
      (∀ f ∈ t.resv.queue, f.station = x → f.consumer = c → f ∈ s.resv.queue) ∧
      (t.line.stations[x]).answers[c] = (s.line.stations[x]).answers[c] := by
  obtain ⟨m, queue, fixed, still, -⟩ := h
  obtain ⟨kept, answers⟩ := still x c fun e he hi => ha e he ((isOf_iff x c e).1 hi).1 ((isOf_iff x c e).1 hi).2
  refine ⟨fun f hf hx hc => ?_, fun f hf hx hc => ?_, answers⟩
  · rw [queue]
    exact List.mem_map.2 ⟨f, hf, kept f hf ((isOf_iff x c f).2 ⟨hx, hc⟩)⟩
  · rw [queue] at hf
    obtain ⟨e, he, rfl⟩ := List.mem_map.1 hf
    obtain ⟨station, consumer, -⟩ := fixed e
    rw [kept e he ((isOf_iff x c e).2 ⟨station.symm.trans hx, consumer.symm.trans hc⟩)]
    exact he

/-- An entry that is not ACTIVE keeps its values through an account update. -/
theorem QueueMoves.waits (h : QueueMoves s t)
    (ha : ∀ f ∈ s.resv.queue, f.station = x → f.consumer = c → f.state ≠ .active) :
    t.resv.queue.length = s.resv.queue.length ∧
      ∀ e ∈ s.resv.queue, e.station = x → e.consumer = c → ∃ f ∈ t.resv.queue, f.station = x ∧ f.consumer = c ∧
        f.sect = e.sect ∧ f.kw = e.kw ∧ f.level = e.level ∧ f.hold = e.hold ∧ f.state ≠ .active := by
  obtain ⟨m, queue, fixed, -, moved⟩ := h
  refine ⟨by rw [queue, List.length_map], fun e he hx hc => ?_⟩
  obtain ⟨station, consumer, sect, kw, level, hold, -⟩ := fixed e
  refine ⟨m e, by rw [queue]; exact List.mem_map_of_mem he, station.trans hx, consumer.trans hc, sect, kw, level, hold, ?_⟩
  refine moved x c (fun f hf hi => ?_) e he ((isOf_iff x c e).2 ⟨hx, hc⟩)
  exact ha f hf ((isOf_iff x c f).1 hi).1 ((isOf_iff x c f).1 hi).2

end

theorem updateAt_queue (b : State) (y : Fin 4) (s : State) : QueueMoves s (updateAt b y s) := (moves_updateAt b y s).2.2

/-- The account update of a section is that of its island, where it is in one. -/
theorem updateAt_island {s u : State} (h : u.plant = s.plant) (y : Fin 4) :
    (islandOf s y = none → updateAt s y u = u) ∧
      ∀ i, islandOf s y = some i → updateAt s y u = accountUpdate false s [i] u := by
  have same : islandOf u y = islandOf s y := islandOf_of (congrArg Plant.partition h) y
  refine ⟨fun hn => ?_, fun i hi => ?_⟩
  · simp only [updateAt, same, hn]
  · simp only [updateAt, same, hi]

/-! ### Endings (07 R131) -/

/-- An entry dropped with an answer pending. -/
def droppedWith (x : Fin 12) (c : Fin 4) (a : Answer) (s : State) : State := answer x c a (dropEntry x c s)

theorem droppedWith_answer (x : Fin 12) (c : Fin 4) (a : Answer) (s : State) :
    ((droppedWith x c a s).line.stations[x]).answers[c] = some { answer := a, delivered := false } := by
  rw [droppedWith, answer_answers, if_pos ⟨rfl, rfl⟩]

theorem droppedWith_gone (x : Fin 12) (c : Fin 4) (a : Answer) (s : State) :
    ∀ f ∈ (droppedWith x c a s).resv.queue, ¬ (f.station = x ∧ f.consumer = c) := fun f hf => by
  have dropped : f ∈ (dropEntry x c s).resv.queue := hf
  rw [dropEntry_queue] at dropped
  exact of_decide_eq_true (List.mem_filter.1 dropped).2

theorem droppedWith_updates (x : Fin 12) (c : Fin 4) (a : Answer) (s : State) : Updates s (droppedWith x c a s) :=
  (updates_dropEntry x c s).trans (updates_answer x c a _)

/-- What an ending does, for a state `u` that is the entry dropped but for its links. -/
theorem ending_effect {x : Fin 12} {c : Fin 4} {a : Answer} {s u : State} (y : Fin 4)
    (h : u = { droppedWith x c a s with link := u.link }) (hu : Updates s u) :
    (∀ f ∈ (updateAt s y u).resv.queue, ¬ (f.station = x ∧ f.consumer = c)) ∧
      ((updateAt s y u).line.stations[x]).answers[c] = some { answer := a, delivered := false } ∧
      UpdateFrame s (updateAt s y u) ∧ Leaves x c y a s (updateAt s y u) := by
  have updates := hu.trans (updates_updateAt s y u)
  have moves := updateAt_queue s y u
  have gone := moves.gone (x := x) (c := c) (by rw [h]; exact droppedWith_gone x c a s)
  have plant : u.plant = s.plant := by rw [h]; rfl
  refine ⟨gone.1, gone.2.trans ?_, updates.1, u, ?_, ?_, ?_, updateAt_island plant y⟩
  · rw [h]
    exact droppedWith_answer x c a s
  · rw [h, ← dropEntry_queue]
    rfl
  · rw [h]
    rfl
  · rw [h]
    exact ⟨rfl, rfl, rfl, rfl, rfl, rfl, rfl, rfl⟩

theorem removeEntry_eq {e : Entry} {x : Fin 12} {c : Fin 4} (hx : e.station = x) (hc : e.consumer = c) (a : Answer)
    (s : State) : removeEntry e a s = updateAt s e.sect (droppedWith x c a s) := by
  subst hx hc
  rfl

/-- What the removal of an entry does. -/
theorem removeEntry_effect {e : Entry} {x : Fin 12} {c : Fin 4} {s : State} (h : findEntry s x c = some e) (a : Answer) :
    (∀ f ∈ (removeEntry e a s).resv.queue, ¬ (f.station = x ∧ f.consumer = c)) ∧
      ((removeEntry e a s).line.stations[x]).answers[c] = some { answer := a, delivered := false } ∧
      UpdateFrame s (removeEntry e a s) ∧ Leaves x c e.sect a s (removeEntry e a s) := by
  obtain ⟨-, hx, hc⟩ := findEntry_some h
  rw [removeEntry_eq hx hc]
  exact ending_effect e.sect rfl (droppedWith_updates x c a s)

theorem endEntry_some {x : Fin 12} {c : Fin 4} {e : Entry} {s : State} (h : findEntry s x c = some e) (a : Answer) :
    endEntry x c a s = removeEntry e a s := by
  simp only [endEntry, h]

theorem entryTimer_some {x : Fin 12} {c : Fin 4} {e : Entry} {s : State} (h : findEntry s x c = some e) :
    entryTimer e.state x c s = some e.remaining := by
  simp only [entryTimer, h, if_true]

/-- HOLD_ENDED goes out with the entry dropped, before the account update. -/
def holdNoticed (x : Fin 12) (c : Fin 4) (e : Entry) (s : State) : State :=
  notify .holdEnded (some (holdSubject x c)) (some (e.kw : Int)) (droppedWith x c .holdEnded s)

theorem holdEnds_some {x : Fin 12} {c : Fin 4} {e : Entry} {s : State} (h : findEntry s x c = some e) :
    holdEnds x c s = updateAt s e.sect (holdNoticed x c e s) := by
  simp only [holdEnds, h]
  rfl

theorem holdNoticed_updates (x : Fin 12) (c : Fin 4) (e : Entry) (s : State) : Updates s (holdNoticed x c e s) :=
  (droppedWith_updates x c .holdEnded s).trans (updates_notify _ _ _ _)

theorem holdEnds_sends {x : Fin 12} {c : Fin 4} {e : Entry} {s : State} (h : findEntry s x c = some e) :
    Sends (newNotice .holdEnded (some (4 * (x.val + 1) + c.val)) (some (e.kw : Int)) s) s (holdEnds x c s) := by
  rw [holdEnds_some h]
  exact (sends_notify_of (s := s) (t := droppedWith x c .holdEnded s) rfl rfl .holdEnded (some (holdSubject x c))
    (some (e.kw : Int))).grows (updates_updateAt s e.sect _).2

section
variable {x : Fin 12} {c : Fin 4} {e : Entry} {s : State} (h : findEntry s x c = some e)
include h

theorem exec_waitTimerExpiry (hs : e.state = .waiting) :
    exec (.waitTimerExpiry x c) s = .next (endEntry x c .timedOut (elapse e.remaining s)) := by
  change execWaitTimerExpiry x c s = _
  rw [execWaitTimerExpiry, ← hs, entryTimer_some h, onExpiry_some]

theorem exec_acceptDeadlineExpiry (hs : e.state = .offered) :
    exec (.acceptDeadlineExpiry x c) s = .next (endEntry x c .expired (elapse e.remaining s)) := by
  change execAcceptDeadlineExpiry x c s = _
  rw [execAcceptDeadlineExpiry, ← hs, entryTimer_some h, onExpiry_some]

theorem exec_holdDeadlineExpiry (hs : e.state = .active) :
    exec (.holdDeadlineExpiry x c) s = .next (holdEnds x c (elapse e.remaining s)) := by
  change execHoldDeadlineExpiry x c s = _
  rw [execHoldDeadlineExpiry, ← hs, entryTimer_some h, onExpiry_some]

end

/-! ### CANCEL RESERVATION (07 R131) -/

theorem stationOf_number (x : Fin 12) : stationOf ((x.val + 1 : Nat) : Int) = some x := by
  rw [stationOf, Int.natCast_succ, Int.add_sub_cancel]
  exact index_nat x

theorem stationOf_none {n : Nat} (h : n = 0 ∨ 12 < n) : stationOf (n : Int) = none := by
  unfold stationOf index
  rw [dif_neg]
  omega

/-- CANCEL RESERVATION of a station's consumer, after its fields are read. -/
theorem cancelReservation_none {x : Fin 12} {c : Fin 4} {s : State} (ho : s.operating = true)
    (h : findEntry s x c = none) :
    cancelReservation [((x.val + 1 : Nat) : Int), (c.val : Int)] s = (s, .refused .notFound) := by
  simp only [cancelReservation, arg_zero, arg_one, stationOf_number, index_nat, ho, h, not_true, if_false, refuse]

theorem cancelReservation_some {x : Fin 12} {c : Fin 4} {e : Entry} {s : State} (ho : s.operating = true)
    (h : findEntry s x c = some e) :
    cancelReservation [((x.val + 1 : Nat) : Int), (c.val : Int)] s = (removeEntry e .removed s, .ok) := by
  simp only [cancelReservation, arg_zero, arg_one, stationOf_number, index_nat, ho, h, not_true, if_false]

theorem cancelReservation_stopped {x : Fin 12} {c : Fin 4} {s : State} (ho : s.operating = false) :
    cancelReservation [((x.val + 1 : Nat) : Int), (c.val : Int)] s = (s, .refused .wrongState) := by
  simp only [cancelReservation, arg_zero, arg_one, stationOf_number, index_nat, ho, Bool.false_eq_true, not_false_eq_true,
    if_true, refuse]

theorem cancelReservation_badField {n m : Nat} (h : n = 0 ∨ 12 < n ∨ 3 < m) (s : State) :
    cancelReservation [(n : Int), (m : Int)] s = (s, .refused .badField) := by
  have bad : stationOf (n : Int) = none ∨ index 4 (m : Int) = none := by
    rcases h with h | h | h
    · exact Or.inl (stationOf_none (Or.inl h))
    · exact Or.inl (stationOf_none (Or.inr h))
    · exact Or.inr (index_none h)
  unfold cancelReservation
  rw [arg_zero, arg_one]
  rcases bad with h | h
  · rw [h]
    rfl
  · rw [h]
    cases stationOf (n : Int) <;> rfl

theorem exec_cancelReservation {l : Link} {seq : Byte} {s : State} (ht : Takes l s) (n m : Byte) :
    exec (.cancelReservation l seq [n, m]) s =
      .next (answerTo l 40 seq (cancelReservation [(n.toNat : Int), (m.toNat : Int)] (validFrame l s)).2
        (cancelReservation [(n.toNat : Int), (m.toNat : Int)] (validFrame l s)).1) :=
  congrArg Host.Outcome.next (request_taken rfl (readFields_oneOne n m) (by decide) ht)

/-- Settles O49. -/
theorem entriesEnd : Obligations.EntriesEnd := by
  refine ⟨fun x c e s h => ?_, fun l seq n m s ht => ?_⟩
  · obtain ⟨f, found, sect, kw⟩ := findEntry_elapse e.remaining h
    have removed (a : Answer) := removeEntry_effect found a
    have held := ending_effect f.sect (u := holdNoticed x c f (elapse e.remaining s)) rfl (holdNoticed_updates x c f _)
    have sends := holdEnds_sends found
    rw [← holdEnds_some found, sect] at held
    rw [kw] at sends
    dsimp only
    refine ⟨fun hs => ⟨_, exec_waitTimerExpiry h hs, ?_⟩, fun hs => ⟨_, exec_acceptDeadlineExpiry h hs, ?_⟩,
      fun hs => ⟨_, exec_holdDeadlineExpiry h hs, held.1, held.2.1, held.2.2.1, held.2.2.2, fun _ => sends⟩⟩
    · obtain ⟨gone, answers, frame, leaves⟩ := removed .timedOut
      rw [sect] at leaves
      rw [endEntry_some found]
      exact ⟨gone, answers, frame, leaves, nofun⟩
    · obtain ⟨gone, answers, frame, leaves⟩ := removed .expired
      rw [sect] at leaves
      rw [endEntry_some found]
      exact ⟨gone, answers, frame, leaves, nofun⟩
  · intro i
    refine ⟨fun hb => exec_turnedAway (exec_cancelReservation ht n m) (cancelReservation_badField hb _),
      fun x c hn hm => ?_⟩
    have run := exec_cancelReservation (seq := seq) ht n m
    rw [hn, hm] at run
    have operating : (validFrame l s).operating = s.operating := operating_of (validFrame_start l s)
    have find : findEntry (validFrame l s) x c = findEntry s x c :=
      findEntry_of (congrArg Resv.queue (validFrame_resv l s)) x c
    refine ⟨fun ho => exec_turnedAway run (cancelReservation_stopped (operating.trans ho)),
      fun ho hf => exec_turnedAway run (cancelReservation_none (operating.trans ho) (find.trans hf)), fun ho hf => ?_⟩
    obtain ⟨e, he⟩ := Option.isSome_iff_exists.1 hf
    obtain ⟨gone, answers, frame, leaves⟩ := removeEntry_effect (find.trans he) .removed
    refine ⟨_, exec_answered run (cancelReservation_some (operating.trans ho) (find.trans he)), gone, answers,
      fun f hf => ?_, frame⟩
    cases he.symm.trans hf
    exact leaves

end Sys2Proof.Machine

/-! The station messages (07 R125, R127, R130, R131). -/

namespace Sys2Proof.Machine

/-! ### A new entry in the queue (07 R126) -/

/-- The arrival number a new entry takes. -/
def nextArrival (s : State) : Nat := if s.resv.queue = [] then 1 else s.resv.counter

/-- The queue and counter with a new entry. -/
def enqueuedResv (e : Entry) (s : State) : Resv :=
  if nextArrival s < 4294967295 then
    { s.resv with queue := s.resv.queue ++ [{ e with arrival := nextArrival s }], counter := nextArrival s + 1 }
  else
    { s.resv with
      queue := (s.resv.queue ++ [{ e with arrival := nextArrival s }]).mapIdx (fun k (f : Entry) => { f with arrival := k + 1 }),
      counter := s.resv.queue.length + 2 }

theorem enqueueEntry_eq (e : Entry) (s : State) : enqueueEntry e s = { s with resv := enqueuedResv e s } := by
  have number : (if s.resv.queue.isEmpty = true then 1 else s.resv.counter) = nextArrival s :=
    if_congr List.isEmpty_iff rfl rfl
  unfold enqueueEntry enqueuedResv
  dsimp only
  rw [number]
  by_cases h : nextArrival s < 4294967295
  · rw [if_pos h]
    exact if_pos h
  · rw [if_neg h, ← renumber_eq]
    refine (if_neg h).trans ?_
    rw [List.length_append]
    rfl

/-- The entries of a queue with a new one, but for their arrival numbers. -/
theorem enqueuedResv_members (e : Entry) (s : State) :
    (enqueuedResv e s).queue.length = s.resv.queue.length + 1 ∧
      (∃ a, { e with arrival := a } ∈ (enqueuedResv e s).queue) ∧
      ∀ f ∈ (enqueuedResv e s).queue, ∃ a, f = { e with arrival := a } ∨ ∃ g ∈ s.resv.queue, f = { g with arrival := a } := by
  unfold enqueuedResv
  by_cases h : nextArrival s < 4294967295
  · rw [if_pos h]
    refine ⟨List.length_append, ⟨nextArrival s, List.mem_append_right _ (List.mem_singleton_self _)⟩, fun f hf => ?_⟩
    rcases List.mem_append.1 hf with hf | hf
    · exact ⟨f.arrival, Or.inr ⟨f, hf, rfl⟩⟩
    · exact ⟨_, Or.inl (List.mem_singleton.1 hf)⟩
  · rw [if_neg h]
    refine ⟨by rw [List.length_mapIdx, List.length_append]; rfl, ⟨s.resv.queue.length + 1, ?_⟩, fun f hf => ?_⟩
    · refine List.mem_mapIdx.2 ⟨s.resv.queue.length, by rw [List.length_append]; exact Nat.lt_succ_self _, ?_⟩
      rw [List.getElem_append_right (Nat.le_refl _)]
      simp only [Nat.sub_self, List.getElem_singleton]
    · obtain ⟨k, hk, rfl⟩ := List.mem_mapIdx.1 hf
      have member := List.getElem_mem hk
      rcases List.mem_append.1 member with hm | hm
      · exact ⟨k + 1, Or.inr ⟨_, hm, rfl⟩⟩
      · exact ⟨k + 1, Or.inl (by rw [List.mem_singleton.1 hm])⟩

/-! ### START REQUEST (07 R127) -/

section
variable {x : Fin 12} {c : Fin 4} {y kw level hold : Nat} {s : State}

theorem startRequest_stopped (h : s.running = false) :
    startRequest x c y kw level hold s = answer x c (.refused .wrongState) s :=
  if_pos (by rw [h]; exact Bool.false_ne_true)

theorem startRequest_full (h : s.running = true) (hq : 16 ≤ s.resv.queue.length) :
    startRequest x c y kw level hold s = answer x c (.refused .full) s :=
  (if_neg (not_not.2 h)).trans (if_pos hq)

theorem startRequest_duplicate (h : s.running = true) (hq : s.resv.queue.length < 16)
    (hf : (findEntry s x c).isSome = true) :
    startRequest x c y kw level hold s = answer x c (.refused .duplicate) s :=
  (if_neg (not_not.2 h)).trans ((if_neg (not_le.2 hq)).trans (if_pos hf))

/-- The section of a START REQUEST tested, the request taken. -/
def startAt (x : Fin 12) (c : Fin 4) (o : Option (Fin 4)) (kw level hold : Nat) (s : State) : State :=
  match o with
  | some z =>
    if sectPresent s z then
      updateAt s z (answer x c .queued (enqueueEntry (readyEntry (settings s) x c z kw level hold) s))
    else answer x c (.refused .badField) s
  | none => answer x c (.refused .badField) s

theorem startRequest_fresh (h : s.running = true) (hq : s.resv.queue.length < 16) (hf : findEntry s x c = none) :
    startRequest x c y kw level hold s = startAt x c four[y]? kw level hold s :=
  (if_neg (not_not.2 h)).trans ((if_neg (not_le.2 hq)).trans
    (if_neg (by rw [hf]; exact Bool.false_ne_true)))

theorem four_getElem? (z : Fin 4) : four[z.val]? = some z := by
  revert z
  decide

theorem four_getElem?_none (h : 4 ≤ y) : four[y]? = none := List.getElem?_eq_none h

end

/-- The state of a taken START REQUEST before the account update. -/
def queuedState (x : Fin 12) (c z : Fin 4) (kw level hold : Nat) (s : State) : State :=
  answer x c .queued { s with resv := enqueuedResv (readyEntry (settings s) x c z kw level hold) s }

theorem startAt_queued {x : Fin 12} {c z : Fin 4} {kw level hold : Nat} {s : State} (h : sectPresent s z = true) :
    startAt x c (some z) kw level hold s = updateAt s z (queuedState x c z kw level hold s) := by
  refine (if_pos h).trans ?_
  rw [enqueueEntry_eq]
  rfl

theorem queuedState_updates (x : Fin 12) (c z : Fin 4) (kw level hold : Nat) (s : State) :
    Updates s (queuedState x c z kw level hold s) := by
  rw [queuedState, ← enqueueEntry_eq]
  exact (updates_enqueueEntry _ s).trans (updates_answer x c .queued _)

theorem reserves_updateAt (r : Resv) (x : Fin 12) (c y : Fin 4) (a : Answer) (s : State) :
    Reserves r x c y a s (updateAt s y (answer x c a { s with resv := r })) := by
  have update := updateAt_island (s := s) (u := answer x c a { s with resv := r }) (answer_plant x c a _) y
  unfold Reserves
  exact update

/-- What a taken START REQUEST does. -/
theorem startAt_effect {x : Fin 12} {c z : Fin 4} {kw level hold : Nat} {s : State} (h : sectPresent s z = true)
    (hf : ∀ e ∈ s.resv.queue, ¬ (e.station = x ∧ e.consumer = c)) :
    let t := startAt x c (some z) kw level hold s
    t.resv.queue.length = s.resv.queue.length + 1 ∧
    (∃ e ∈ t.resv.queue, e.station = x ∧ e.consumer = c ∧ e.sect = z ∧
      e.kw = min 60000 (max 1 kw) ∧ e.level = min 7 (max 1 level) ∧ e.hold = min 600 (max 5 (min 1023 hold)) ∧
      (e.state = .waiting ∨ e.state = .offered)) ∧
    UpdateFrame s t ∧ Reserves (enqueuedResv (readyEntry (settings s) x c z kw level hold) s) x c z .queued s t := by
  dsimp only
  rw [startAt_queued h]
  obtain ⟨length, ⟨n, new⟩, members⟩ := enqueuedResv_members (readyEntry (settings s) x c z kw level hold) s
  have waits : ∀ f ∈ (queuedState x c z kw level hold s).resv.queue, f.station = x → f.consumer = c → f.state ≠ .active := by
    intro f hfm hx hc
    obtain ⟨a, rfl | ⟨g, hg, rfl⟩⟩ := members f hfm
    · exact nofun
    · exact absurd ⟨hx, hc⟩ (hf g hg)
  obtain ⟨same, kept⟩ := (updateAt_queue s z (queuedState x c z kw level hold s)).waits waits
  obtain ⟨f, hfm, hx, hc, sect, kws, levels, holds, state⟩ := kept _ new rfl rfl
  refine ⟨same.trans length, ⟨f, hfm, hx, hc, sect, kws, levels, holds, ?_⟩,
    ((queuedState_updates x c z kw level hold s).trans (updates_updateAt s z _)).1, reserves_updateAt _ x c z .queued s⟩
  cases hs : f.state with
  | waiting => exact Or.inl rfl
  | offered => exact Or.inr rfl
  | active => exact absurd hs state

/-! ### ACCEPT (07 R130) -/

section
variable {x : Fin 12} {c : Fin 4} {e : Entry} {s : State}

theorem acceptMessage_notFound (h : findEntry s x c = none) : acceptMessage x c s = answer x c .notFound s := by
  simp only [acceptMessage, h]

theorem acceptMessage_waiting (h : findEntry s x c = some e) (hs : e.state = .waiting) :
    acceptMessage x c s = answer x c .notOffered s := by
  simp only [acceptMessage, h, hs]

theorem acceptMessage_active (h : findEntry s x c = some e) (hs : e.state = .active) :
    acceptMessage x c s = answer x c .active s := by
  simp only [acceptMessage, h, hs]

/-- An entry accepted. -/
def Entry.accepted (e : Entry) : Entry := { e with state := .active, remaining := e.hold * 1000 }

/-- The queue with the entry of a station's consumer accepted. -/
def acceptedResv (x : Fin 12) (c : Fin 4) (s : State) : Resv :=
  { s.resv with
    queue := s.resv.queue.map fun f => if f.station = x ∧ f.consumer = c then f.accepted else f }

theorem updEntry_queue (x : Fin 12) (c : Fin 4) (f : Entry → Entry) (s : State) :
    updEntry x c f s =
      { s with resv.queue := s.resv.queue.map fun e => if e.station = x ∧ e.consumer = c then f e else e } := by
  have each (e : Entry) : (if e.isOf x c = true then f e else e) = if e.station = x ∧ e.consumer = c then f e else e :=
    if_congr (isOf_iff x c e) rfl rfl
  unfold updEntry
  simp only [each]

theorem acceptMessage_offered (h : findEntry s x c = some e) (hs : e.state = .offered) :
    acceptMessage x c s = updateAt s e.sect (answer x c .active { s with resv := acceptedResv x c s }) := by
  simp only [acceptMessage, h, hs, updEntry_queue, acceptedResv, Entry.accepted]

/-- What an ACCEPT of an offer does. -/
theorem acceptMessage_effect (h : findEntry s x c = some e) (hs : e.state = .offered) :
    let t := acceptMessage x c s
    (∃ f ∈ t.resv.queue, f.station = x ∧ f.consumer = c ∧ f.state = .active ∧ f.remaining = f.hold * 1000) ∧
    (t.line.stations[x]).answers[c] = some { answer := .active, delivered := false } ∧ UpdateFrame s t ∧
    Reserves (acceptedResv x c s) x c e.sect .active s t := by
  dsimp only
  rw [acceptMessage_offered h hs]
  obtain ⟨member, hx, hc⟩ := findEntry_some h
  have active : ∀ f ∈ (acceptedResv x c s).queue, f.station = x → f.consumer = c → f.state = .active := by
    intro f hf fx fc
    obtain ⟨g, hg, rfl⟩ := List.mem_map.1 hf
    by_cases own : g.station = x ∧ g.consumer = c
    · rw [if_pos own]
      rfl
    · rw [if_neg own] at fx fc
      exact absurd ⟨fx, fc⟩ own
  have accepted : e.accepted ∈ (acceptedResv x c s).queue :=
    List.mem_map.2 ⟨e, member, if_pos ⟨hx, hc⟩⟩
  have updates : Updates s (answer x c .active { s with resv := acceptedResv x c s }) := by
    have eq := updEntry_queue x c Entry.accepted s
    exact (eq ▸ updates_updEntry x c Entry.accepted s : Updates s { s with resv := acceptedResv x c s }).trans
      (updates_answer x c .active _)
  obtain ⟨kept, -, answers⟩ := (updateAt_queue s e.sect (answer x c .active { s with resv := acceptedResv x c s })).active active
  refine ⟨⟨e.accepted, kept _ accepted hx hc, hx, hc, rfl, rfl⟩, answers.trans ?_,
    (updates.trans (updates_updateAt s e.sect _)).1, reserves_updateAt _ x c e.sect .active s⟩
  rw [answer_answers, if_pos ⟨rfl, rfl⟩]

/-! ### DONE and WITHDRAW (07 R131) -/

theorem endMessage_notFound (h : findEntry s x c = none) : endMessage x c s = answer x c .notFound s := by
  simp only [endMessage, h]

theorem endMessage_some (h : findEntry s x c = some e) : endMessage x c s = removeEntry e .removed s := by
  simp only [endMessage, h]

end

theorem takeMessage_end {x : Fin 12} {c : Fin 4} {m : Message} (h : m = .done c ∨ m = .withdraw c) (s : State) :
    takeMessage x m s = endMessage x c s := by
  rcases h with rfl | rfl
  · rfl
  · rfl

/-- START REQUEST, check by check. -/
theorem start_answers (x : Fin 12) (c : Fin 4) (y kw level hold : Nat) (s : State) :
    let t := startRequest x c y kw level hold s
    (s.running = false → t = answer x c (.refused .wrongState) s) ∧
    (s.running = true → 16 ≤ s.resv.queue.length → t = answer x c (.refused .full) s) ∧
    (s.running = true → s.resv.queue.length < 16 →
      (∀ e ∈ s.resv.queue, e.station = x → e.consumer = c → t = answer x c (.refused .duplicate) s) ∧
      ((∀ e ∈ s.resv.queue, ¬ (e.station = x ∧ e.consumer = c)) → t = startAt x c four[y]? kw level hold s)) :=
  ⟨startRequest_stopped, startRequest_full, fun hr hq =>
    ⟨fun _ he hx hc => startRequest_duplicate hr hq (findEntry_isSome he hx hc),
      fun hf => startRequest_fresh hr hq (findEntry_none.2 hf)⟩⟩

/-- Settles O48. -/
theorem stationMessagesAreTaken : Obligations.StationMessagesAreTaken := by
  refine ⟨fun x c y kw level hold s => ?_, fun x c m s hm => ?_, fun x s => rfl, fun x c s => ?_⟩
  · obtain ⟨stopped, full, fresh⟩ := start_answers x c y kw level hold s
    intro t
    refine ⟨stopped, full, fun hr hq => ⟨(fresh hr hq).1, fun hf => ?_⟩⟩
    have taken : t = startAt x c four[y]? kw level hold s := (fresh hr hq).2 hf
    clear_value t
    subst taken
    refine ⟨fun hy => by rw [four_getElem?_none hy]; rfl, fun z hz => ?_⟩
    subst hz
    rw [four_getElem?]
    refine ⟨fun hs => if_neg (by rw [hs]; exact Bool.false_ne_true), fun hs => ?_⟩
    obtain ⟨length, entry, frame, reserves⟩ := startAt_effect (kw := kw) (level := level) (hold := hold) hs hf
    refine ⟨length, entry, frame, fun hn => ?_, fun hn => ?_⟩
    · have small : nextArrival s < 4294967295 := hn
      rw [enqueuedResv, if_pos small] at reserves
      exact reserves
    · have large : ¬ nextArrival s < 4294967295 := not_lt.2 hn
      rw [enqueuedResv, if_neg large] at reserves
      exact reserves
  · intro t
    have ended : t = endMessage x c s := takeMessage_end hm s
    clear_value t
    subst ended
    refine ⟨endMessage_notFound, findEntry_none.2, fun e he => ?_⟩
    obtain ⟨member, hx, hc⟩ := findEntry_some he
    obtain ⟨gone, answers, frame, leaves⟩ := removeEntry_effect he .removed
    rw [endMessage_some he]
    exact ⟨member, hx, hc, leaves, gone, answers, frame⟩
  · refine ⟨fun hf => acceptMessage_notFound (findEntry_none.2 hf), fun e he => ⟨acceptMessage_waiting he,
      acceptMessage_active he, fun hs => acceptMessage_effect he hs⟩⟩

end Sys2Proof.Machine

/-! What the Reservation Arbiter does at an account update and at a set loss (07 R128 to R133). -/

namespace Sys2Proof.Machine

/-! ### The wanted field and the offer of an update (07 R128, R133) -/

section
variable {i : Fin 4} {a : Account} {s : State} (ha : s.plant.accounts[i] = some a)
include ha

theorem seeWanted_rose (h : s.resv.lastWanted[i] = 0 ∧ a.wanted ≠ 0) :
    seeWanted i s =
      { notify .capacityWanted (some i.val) (some (a.wanted : Int)) s with
        resv.lastWanted := put s.resv.lastWanted i a.wanted } := by
  simp only [seeWanted, ha, if_pos h]
  rfl

theorem seeWanted_kept (h : s.resv.lastWanted[i] ≠ 0 ∨ a.wanted = 0) :
    seeWanted i s = { s with resv.lastWanted := put s.resv.lastWanted i a.wanted } := by
  have same : ¬ (s.resv.lastWanted[i] = 0 ∧ a.wanted ≠ 0) := fun k => h.elim (· k.1) k.2
  simp only [seeWanted, ha, if_neg same]

end

theorem seeWanted_start (i : Fin 4) (s : State) : (seeWanted i s).start = s.start := by
  unfold seeWanted
  split
  · dsimp only
    split <;> rfl
  · rfl

theorem seeWanted_running (i : Fin 4) (s : State) : (seeWanted i s).running = s.running :=
  running_of (seeWanted_start i s)

section
variable {i : Fin 4} {s : State}

theorem arbiterUpdate_stopped (h : s.running = false) : arbiterUpdate i s = seeWanted i s := by
  have stopped : ¬ (seeWanted i s).running = true := by rw [seeWanted_running, h]; exact Bool.false_ne_true
  exact if_neg stopped

theorem arbiterUpdate_none (h : s.running = true) (ho : offerTest i (seeWanted i s) = none) :
    arbiterUpdate i s = seeWanted i s := by
  have running := (seeWanted_running i s).trans h
  simp only [arbiterUpdate, running, ho, if_true]

theorem arbiterUpdate_some {u : State} (h : s.running = true) (ho : offerTest i (seeWanted i s) = some u) :
    arbiterUpdate i s = reUpdate i u := by
  have running := (seeWanted_running i s).trans h
  simp only [arbiterUpdate, running, ho, if_true]

end

/-! ### Offers returned at a set loss (07 R132) -/

section
variable {i : Fin 4} {a : Account} {s : State} (ha : s.plant.accounts[i] = some a)
include ha

theorem lossWithdraw_spare (h : 0 ≤ a.spare) : lossWithdraw i s = s := by
  simp only [lossWithdraw, ha, if_neg (not_lt.2 h)]

theorem lossWithdraw_short (h : a.spare < 0) :
    lossWithdraw i s = recompute [i] (returnOffers (entriesOf s i .offered) s) := by
  simp only [lossWithdraw, ha, if_pos h]

end

/-- The entries of one consumer among an island's offers: the entry itself, where it is one. -/
theorem offers_any {s : State} (h : QueueLaw s) (i : Fin 4) {e : Entry} (he : e ∈ s.resv.queue) :
    (entriesOf s i .offered).any (fun f => e.isOf f.station f.consumer) = true ↔
      e.state = .offered ∧ e.island s = some i := by
  rw [List.any_eq_true]
  refine ⟨fun ⟨f, hf, hi⟩ => ?_, fun hs => ⟨e, mem_entriesOf.2 ⟨he, hs⟩, (isOf_iff _ _ e).2 ⟨rfl, rfl⟩⟩⟩
  obtain ⟨member, offered⟩ := mem_entriesOf.1 hf
  obtain ⟨station, consumer⟩ := (isOf_iff _ _ e).1 hi
  rw [h.unique he member station consumer]
  exact offered

/-- The offers of an island returned. -/
theorem returnOffers_island {s : State} (h : QueueLaw s) (i : Fin 4) :
    (returnOffers (entriesOf s i .offered) s).resv.queue = s.resv.queue.map (fun e =>
      if e.state = .offered ∧ e.island s = some i then
        { e with state := .waiting, remaining := (settings s).waitLimit * 1000 }
      else e) ∧
    ∀ e ∈ s.resv.queue, e.state = .offered → e.island s = some i →
      ((returnOffers (entriesOf s i .offered) s).line.stations[e.station]).answers[e.consumer] =
        some { answer := .withdrawn, delivered := false } := by
  obtain ⟨queue, answers, -⟩ := returnOffers_writes (entriesOf s i .offered) s
  refine ⟨queue.trans (List.map_congr_left fun e he => if_congr (offers_any h i he) rfl rfl), fun e he hs hi => ?_⟩
  rw [answers, if_pos]
  exact List.any_eq_true.2 ⟨e, mem_entriesOf.2 ⟨he, hs, hi⟩, (isOf_iff _ _ e).2 ⟨rfl, rfl⟩⟩

/-! ### Offers (07 R128, R129) -/

theorem makeOffer_eq (e : Entry) (s : State) :
    makeOffer e s =
      { s with
        resv.queue := s.resv.queue.map (fun f =>
          if f.station = e.station ∧ f.consumer = e.consumer then
            { f with state := .offered, remaining := (settings s).acceptTime }
          else f),
        line.stations := upd s.line.stations e.station (fun r =>
          { r with answers := put r.answers e.consumer (some { answer := .offer, delivered := false }) }) } := by
  rw [makeOffer, updEntry_queue]
  rfl

theorem returnOffer_eq (e : Entry) (s : State) :
    returnOffer e s =
      { s with
        resv.queue := s.resv.queue.map (fun f =>
          if f.station = e.station ∧ f.consumer = e.consumer then
            { f with state := .waiting, remaining := (settings s).waitLimit * 1000 }
          else f),
        line.stations := upd s.line.stations e.station (fun r =>
          { r with answers := put r.answers e.consumer (some { answer := .withdrawn, delivered := false }) }) } := by
  rw [returnOffer, updEntry_queue]
  rfl

/-! ### The candidate (07 R128) -/

/-- `e` stands before `f` in the candidates' order, or beside it. -/
def Leads (e f : Entry) : Prop := f.level < e.level ∨ f.level = e.level ∧ e.arrival ≤ f.arrival

theorem Leads.refl (e : Entry) : Leads e e := Or.inr ⟨rfl, Nat.le_refl _⟩

theorem Leads.trans {e f g : Entry} (h : Leads e f) (k : Leads f g) : Leads e g := by
  unfold Leads at *
  omega

theorem before_iff (e f : Entry) : e.before f = true ↔ f.level < e.level ∨ e.level = f.level ∧ e.arrival < f.arrival := by
  simp only [Entry.before, Bool.or_eq_true, Bool.and_eq_true, decide_eq_true_iff]

theorem leads_of_before {e f : Entry} (h : e.before f = true) : Leads e f := by
  rw [before_iff] at h
  unfold Leads
  omega

theorem leads_of_not_before {e f : Entry} (h : ¬ e.before f = true) : Leads f e := by
  rw [before_iff] at h
  unfold Leads
  omega

/-- The better of the candidate so far and an entry. -/
def betterOf (best : Option Entry) (e : Entry) : Option Entry :=
  match best with
  | none => some e
  | some b => if e.before b then some e else some b

theorem candidate_eq (s : State) (i : Fin 4) : candidate s i = (entriesOf s i .waiting).foldl betterOf none := rfl

/-- The better of two leads both. -/
theorem betterOf_leads (best : Option Entry) (e : Entry) :
    ∃ b, betterOf best e = some b ∧ Leads b e ∧ ∀ c, best = some c → Leads b c := by
  cases best with
  | none => exact ⟨e, rfl, Leads.refl e, nofun⟩
  | some c =>
    by_cases h : e.before c = true
    · exact ⟨e, if_pos h, Leads.refl e, fun d hd => Option.some.inj hd ▸ leads_of_before h⟩
    · exact ⟨c, if_neg h, leads_of_not_before h, fun d hd => Option.some.inj hd ▸ Leads.refl c⟩

theorem foldl_betterOf_leads (l : List Entry) (best : Option Entry) {e : Entry} (h : l.foldl betterOf best = some e) :
    (∀ f ∈ l, Leads e f) ∧ ∀ c, best = some c → Leads e c := by
  induction l generalizing best with
  | nil => exact ⟨nofun, fun c hc => Option.some.inj (h.symm.trans hc) ▸ Leads.refl e⟩
  | cons f l ih =>
    obtain ⟨b, hb, leads, before⟩ := betterOf_leads best f
    obtain ⟨rest, first⟩ := ih _ h
    have best_leads := first b hb
    refine ⟨fun g hg => ?_, fun c hc => best_leads.trans (before c hc)⟩
    rcases List.mem_cons.1 hg with rfl | hg
    · exact best_leads.trans leads
    · exact rest g hg

/-- The candidate leads every WAITING entry of its island. -/
theorem candidate_leads {s : State} {i : Fin 4} {e : Entry} (h : candidate s i = some e) {f : Entry}
    (hf : f ∈ s.resv.queue) (hs : f.state = .waiting) (hi : f.island s = some i) : Leads e f :=
  (foldl_betterOf_leads _ none ((candidate_eq s i).symm.trans h)).1 f (mem_entriesOf.2 ⟨hf, hs, hi⟩)

section
variable {i : Fin 4} {a : Account} {e : Entry} {s : State} (ha : s.plant.accounts[i] = some a)
  (he : candidate s i = some e)
include ha he

theorem offerTest_free (ho : offeredEntry s i = none) :
    offerTest i s = if (e.kw : Int) ≤ a.spare then some (makeOffer e s) else none := by
  simp only [offerTest, ha, he, ho]

theorem offerTest_swap {o : Entry} (ho : offeredEntry s i = some o) :
    offerTest i s =
      if o.level < e.level ∧ (e.kw : Int) ≤ a.spare + o.kw then some (makeOffer e (returnOffer o s)) else none := by
  simp only [offerTest, ha, he, ho]

end

/-- Settles O50. -/
theorem offerTestDecides : Obligations.OfferTestDecides := by
  refine ⟨fun i a s ha => ?_, fun i a s ha => ?_, fun e s => ?_, fun i a e s ha he => ?_⟩
  · exact ⟨seeWanted_rose ha, seeWanted_kept ha, arbiterUpdate_stopped, arbiterUpdate_none, fun u => arbiterUpdate_some⟩
  · refine ⟨lossWithdraw_spare ha, fun hs => ⟨(updates_lossWithdraw i s).1, ?_⟩⟩
    rw [lossWithdraw_short ha hs]
    obtain ⟨-, -, plant, -⟩ := returnOffers_writes (entriesOf s i .offered) s
    refine ⟨fun b hb => recompute_accountOf hb, fun j hj => ?_, fun h => returnOffers_island h i⟩
    rw [recompute_unlisted (by rw [List.mem_singleton]; exact hj), plant]
  · intro told
    exact ⟨makeOffer_eq e s, returnOffer_eq e s⟩
  · obtain ⟨member, waiting, island⟩ := candidate_mem he
    exact ⟨⟨member, waiting, island, fun f hf hs hi => candidate_leads he hf hs hi⟩, offerTest_free ha he,
      fun o => offerTest_swap ha he⟩

end Sys2Proof.Machine

/-! The poll slots and poll frames of the consumer line (07 R120, R121, R124, 11 R173). -/

namespace Sys2Proof.Machine

/-! ### The next station (07 R120) -/

theorem listedStations_sorted (s : State) : (listedStations s).Pairwise (· < ·) := by
  have ascending : twelve.Pairwise (· < ·) := by decide
  exact ascending.filter _

/-- The first entry of an ascending list is its least. -/
theorem head?_least {l : List (Fin 12)} (h : l.Pairwise (· < ·)) {y : Fin 12} (hy : l.head? = some y) :
    ∀ z ∈ l, y ≤ z := by
  cases l with
  | nil => nomatch hy
  | cons x xs =>
    cases Option.some.inj hy
    intro z hz
    rcases List.mem_cons.1 hz with rfl | hz
    · exact le_refl _
    · exact le_of_lt ((List.pairwise_cons.1 h).1 z hz)

/-- The first entry of an ascending list that is found is the least of those that could be. -/
theorem find?_least {l : List (Fin 12)} {p : Fin 12 → Bool} (h : l.Pairwise (· < ·)) {y : Fin 12}
    (hy : l.find? p = some y) : p y = true ∧ ∀ z ∈ l, p z = true → y ≤ z := by
  refine ⟨List.find?_some hy, fun z hz hp => ?_⟩
  rw [← List.head?_filter] at hy
  exact head?_least (h.filter p) hy z (List.mem_filter.2 ⟨hz, hp⟩)

/-- The station after another: the next one up, or the lowest of all. -/
theorem stationAfter_cases (s : State) (x : Fin 12) :
    (∃ y, stationAfter s x = some y ∧ x < y ∧ ∀ z ∈ listedStations s, x < z → y ≤ z) ∨
      stationAfter s x = (listedStations s).head? ∧ ∀ z ∈ listedStations s, z ≤ x := by
  unfold stationAfter
  cases h : (listedStations s).find? fun y => decide (x.val < y.val) with
  | some y =>
    obtain ⟨later, least⟩ := find?_least (listedStations_sorted s) h
    exact Or.inl ⟨y, rfl, of_decide_eq_true later, fun z hz hx => least z hz (decide_eq_true hx)⟩
  | none =>
    refine Or.inr ⟨rfl, fun z hz => ?_⟩
    have passed := List.find?_eq_none.1 h z hz
    rw [decide_eq_true_iff] at passed
    exact not_lt.1 passed

theorem stationAfter_next {s : State} {x y : Fin 12} (h : stationAfter s x = some y) :
    s.conf.stations[y] = true ∧
      ∀ z : Fin 12, s.conf.stations[z] = true → (x < y → ¬ (x < z ∧ z < y)) ∧ (y ≤ x → z ≤ x ∧ y ≤ z) := by
  refine ⟨stationAfter_listed h, fun z hz => ?_⟩
  have listed := (mem_listedStations s z).2 hz
  rcases stationAfter_cases s x with ⟨w, hw, later, least⟩ | ⟨head, low⟩
  · cases hw.symm.trans h
    exact ⟨fun _ ⟨hx, hy⟩ => absurd hy (not_lt.2 (least z listed hx)), fun hy => absurd later (not_lt.2 hy)⟩
  · refine ⟨fun _ ⟨hx, _⟩ => absurd hx (not_lt.2 (low z listed)), fun _ => ⟨low z listed, ?_⟩⟩
    exact head?_least (listedStations_sorted s) (head.symm.trans h) z listed

theorem stationAfter_none {s : State} {x : Fin 12} (h : stationAfter s x = none) (y : Fin 12) :
    s.conf.stations[y] = false := by
  rcases stationAfter_cases s x with ⟨w, hw, -⟩ | ⟨head, -⟩
  · exact nomatch hw.symm.trans h
  · have empty : listedStations s = [] := List.head?_eq_none_iff.1 (head.symm.trans h)
    refine Bool.eq_false_iff.2 fun hy => ?_
    have listed := (mem_listedStations s y).2 hy
    rw [empty] at listed
    exact nomatch listed

theorem stationAfter_of {s t : State} (h : t.conf = s.conf) (x : Fin 12) : stationAfter t x = stationAfter s x := by
  simp only [stationAfter, listedStations, h]

/-! ### The poll frame (07 R124, 11 R173) -/

theorem pollChars_eq (number : Nat) (answers : List (List Byte)) :
    pollChars number answers =
      (writeField .w1 number ++ writeField .w1 answers.length ++ answers.flatten) ++
        crcChars (writeField .w1 number ++ writeField .w1 answers.length ++ answers.flatten) := by
  have head : writeItems [(.w1, (number : Int)), (.w1, (answers.length : Int))] =
      writeField .w1 number ++ writeField .w1 answers.length := by
    simp only [writeItems, List.flatMap_cons, List.flatMap_nil, List.append_nil]
  rw [pollChars, head]

/-- An answer is coded with the kW and the time left of its entry. -/
theorem answerChars_bytes (c : Fin 4) (o : Option Entry) (a : Answer) {kw ms : Nat}
    (h : ∀ x, o = some x → kw = x.kw ∧ ms = x.remaining) : AnswerChars c o a (answerBytes c a kw ms) := by
  have head (n : Nat) (rest : List Byte) :
      writeField .w1 ((16 * n + c.val : Nat) : Int) ++ rest = BitVec.ofNat 8 (16 * n + c.val) :: rest := by
    rw [writeField_one]
    rfl
  cases a with
  | offer =>
    intro x hx
    obtain ⟨rfl, rfl⟩ := h x hx
    simp only [answerBytes, head, writeItems, List.flatMap_cons, List.flatMap_nil, List.append_nil, Answer.code]
  | active =>
    intro x hx
    obtain ⟨rfl, rfl⟩ := h x hx
    exact head _ _
  | refused r =>
    cases r with
    | full => exact head 13 _
    | duplicate => exact head 13 _
    | badField => exact head 13 _
    | wrongState => exact head 13 _
  | queued => exact head 1 []
  | withdrawn => exact head 3 []
  | notOffered => exact head 5 []
  | notFound => exact head 6 []
  | removed => exact head 7 []
  | expired => exact head 8 []
  | holdEnded => exact head 9 []
  | timedOut => exact head 10 []
  | held => exact head 11 []
  | dropped => exact head 12 []

theorem entryFigures_of {s : State} {x : Fin 12} {c : Fin 4} {e : Entry} (h : findEntry s x c = some e) :
    (entryFigures s x c).1 = e.kw ∧ (entryFigures s x c).2 = e.remaining := by
  simp only [entryFigures, h, and_self]

/-- The characters of a pending answer of a station. -/
def pendingChars (s : State) (x : Fin 12) (p : Fin 4 × Answer) : List Byte :=
  answerBytes p.1 p.2 (entryFigures s x p.1).1 (entryFigures s x p.1).2

theorem pendingAnswers_map (s : State) (x : Fin 12) :
    pendingAnswers s x =
      (four.filterMap fun c => ((s.line.stations[x]).answers[c]).map fun a => (c, a.answer)).map (pendingChars s x) := by
  rw [pendingAnswers, List.map_filterMap]
  refine congrArg (List.filterMap · four) (funext fun c => ?_)
  rw [Option.map_map]
  rfl

theorem pendingAnswers_chars (s : State) (x : Fin 12) :
    List.Forall₂ (fun p cs => AnswerChars p.1 (findEntry s x p.1) p.2 cs)
      (four.filterMap fun c => ((s.line.stations[x]).answers[c]).map fun a => (c, a.answer)) (pendingAnswers s x) := by
  rw [pendingAnswers_map, List.forall₂_map_right_iff, List.forall₂_same]
  intro p _
  refine answerChars_bytes p.1 _ p.2 fun e he => ?_
  obtain ⟨kw, ms⟩ := entryFigures_of he
  exact ⟨kw, ms⟩

/-! ### A poll slot (07 R120) -/

theorem pollSlot_some {x : Fin 12} {s : State} (h : s.line.next = some x) :
    pollSlot s =
      markDelivered x
        { s with
          line.slot := some 25, line.next := stationAfter s x, line.current := some x,
          line.poll := some (pollChars (x.val + 1) (pendingAnswers s x)), line.window := none } := by
  simp only [pollSlot, h]
  rfl

theorem markDelivered_stations (x : Fin 12) (s : State) (y : Fin 12) :
    (markDelivered x s).line.stations[y] =
      if x = y then
        { s.line.stations[x] with
          answers := tab (fun _ a => a.map fun p => { p with delivered := true }) s.line.stations[x].answers }
      else s.line.stations[y] := get_upd ..

theorem exec_pollSlotExpiry {r : Nat} {s : State} (h : s.line.slot = some r) :
    exec .pollSlotExpiry s = .next (pollSlot (elapse r s)) := by
  change execPollSlotExpiry s = _
  rw [execPollSlotExpiry, h, onExpiry_some]

theorem exec_pollFrameSent_some {cs : List Byte} {s : State} (h : s.line.poll = some cs) :
    exec .pollFrameSent s = .next { s with line.poll := none, line.window := some 15 } := by
  change execPollFrameSent s = _
  simp only [execPollFrameSent, h]
  rfl

theorem exec_pollFrameSent_none {s : State} (h : s.line.poll = none) : exec .pollFrameSent s = .next s := by
  change execPollFrameSent s = _
  simp only [execPollFrameSent, h]

/-- What a poll slot does to a state whose next slot is for a station. -/
theorem pollSlot_effect {x : Fin 12} {p : State} (h : p.line.next = some x) :
    let t := pollSlot p
    t.line.slot = some 25 ∧ t.line.current = some x ∧ t.line.next = stationAfter p x ∧
    t.line.poll = some (pollChars (x.val + 1) (pendingAnswers p x)) ∧ t.line.window = none ∧
    (∀ c : Fin 4, (t.line.stations[x]).answers[c] =
      (p.line.stations[x]).answers[c].map fun a => { a with delivered := true }) ∧
    t.line.stations[x].state = p.line.stations[x].state ∧ t.line.stations[x].miss = p.line.stations[x].miss ∧
    (∀ y : Fin 12, y ≠ x → t.line.stations[y] = p.line.stations[y]) ∧
    t.plant = p.plant ∧ t.scan = p.scan ∧ t.share = p.share ∧ t.sync = p.sync ∧ t.shed = p.shed ∧ t.resv = p.resv ∧
    t.prof = p.prof ∧ t.link = p.link ∧ t.start = p.start ∧ t.conf = p.conf := by
  dsimp only
  rw [pollSlot_some h]
  have own (q : State) := (markDelivered_stations x q x).trans (if_pos rfl)
  refine ⟨rfl, rfl, rfl, rfl, rfl, fun c => ?_, ?_, ?_, fun y hy => ?_, rfl, rfl, rfl, rfl, rfl, rfl, rfl, rfl, rfl, rfl⟩
  · rw [own]
    exact get_tab (fun (_ : Fin 4) (a : Option PendAnswer) => a.map fun p => { p with delivered := true }) _ c
  · rw [own]
  · rw [own]
  · rw [markDelivered_stations, if_neg (Ne.symm hy)]

/-- Settles O46. -/
theorem pollSlotsRun : Obligations.PollSlotsRun := by
  refine ⟨fun x r s hr hx => ?_, fun number answers => pollChars_eq number answers, fun x s => pendingAnswers_chars s x,
    fun x s => ⟨fun y => stationAfter_next, stationAfter_none⟩, fun cs s => exec_pollFrameSent_some,
    fun s => exec_pollFrameSent_none⟩
  have effect := pollSlot_effect ((elapse_next r s).trans hx)
  have stations := elapse_stations r s
  have after := stationAfter_of (elapse_conf r s) x
  have prof := elapse_prof r s
  have start := elapse_start r s
  have conf := elapse_conf r s
  have run := exec_pollSlotExpiry hr
  dsimp only
  generalize elapse r s = p at *
  rw [stations, after, prof, start, conf] at effect
  exact ⟨_, run, effect⟩

end Sys2Proof.Machine

/-! Replies on the consumer line and the states of the stations (07 R121 to R123, 11 R173). -/

namespace Sys2Proof.Machine

/-! ### The reply window (07 R121) -/

theorem inWindow_open {x : Fin 12} {r : Nat} {s : State} (hw : s.line.window = some r) (hc : s.line.current = some x)
    (act : Fin 12 → State → State) : inWindow s act = act x { s with line.window := none } := by
  simp only [inWindow, hw, hc]

theorem inWindow_shut {s : State} (hw : s.line.window = none) (act : Fin 12 → State → State) : inWindow s act = s := by
  simp only [inWindow, hw]

theorem elapse_window (n : Nat) (s : State) : (elapse n s).line.window.isSome = s.line.window.isSome := by
  unfold elapse
  split
  · exact Option.isSome_map ..
  · rfl

section
variable {x : Fin 12} {r : Nat} {s : State} (hw : s.line.window = some r) (hc : s.line.current = some x)
include hw hc

theorem exec_replyFrame_good {body : List Byte} {m : Message} (h : classify body = some m) :
    exec (.replyFrame body) s = .next (takeMessage x m (goodReply x { s with line.window := none })) := by
  change execReplyFrame body s = _
  rw [execReplyFrame, inWindow_open hw hc]
  simp only [h]

theorem exec_replyFrame_errored {body : List Byte} (h : classify body = none) :
    exec (.replyFrame body) s = .next (missedReply x { s with line.window := none }) := by
  change execReplyFrame body s = _
  rw [execReplyFrame, inWindow_open hw hc]
  simp only [h]

theorem exec_replyBadAddress : exec .replyBadAddress s = .next (missedReply x { s with line.window := none }) := by
  change execReplyBadAddress s = _
  rw [execReplyBadAddress, inWindow_open hw hc]

theorem exec_replyWindowExpiry :
    exec .replyWindowExpiry s = .next (missedReply x { elapse r s with line.window := none }) := by
  have opened : (elapse r s).line.window.isSome = true := by rw [elapse_window, hw]; rfl
  obtain ⟨n, hn⟩ := Option.isSome_iff_exists.1 opened
  change execReplyWindowExpiry s = _
  rw [execReplyWindowExpiry, hw, onExpiry_some, inWindow_open hn ((elapse_current r s).trans hc)]

end

theorem exec_replies_shut {s : State} (hw : s.line.window = none) (body : List Byte) :
    exec (.replyFrame body) s = .next s ∧ exec .replyBadAddress s = .next s ∧ exec .replyWindowExpiry s = .next s := by
  refine ⟨?_, ?_, ?_⟩
  · change execReplyFrame body s = _
    rw [execReplyFrame, inWindow_shut hw]
  · change execReplyBadAddress s = _
    rw [execReplyBadAddress, inWindow_shut hw]
  · change execReplyWindowExpiry s = _
    rw [execReplyWindowExpiry, hw, onExpiry_none]

/-! ### The classification of a reply (11 R173) -/

theorem classify_append {head crc : List Byte} (h : crc.length = 2) :
    classify (head ++ crc) = if crc = crcChars (0x00#8 :: head) then messageOf head else none := by
  have length : (head ++ crc).length - 2 = head.length := by rw [List.length_append, h, Nat.add_sub_cancel]
  unfold classify
  rw [length, List.take_left, List.drop_left]

theorem classify_short {body : List Byte} (h : body.length < 2) : classify body = none := by
  have none_before : body.length - 2 = 0 := by omega
  unfold classify
  rw [none_before, List.drop_zero, List.take_zero]
  refine if_neg fun e => ?_
  rw [e, crcChars_length] at h
  exact lt_irrefl _ h

theorem append_toNat (a b : Byte) : (a ++ b).toNat = 256 * a.toNat + b.toNat := by
  rw [BitVec.toNat_append, ← Nat.shiftLeft_add_eq_or_of_lt b.isLt, Nat.shiftLeft_eq, Nat.mul_comm]

theorem messageIndex_eq {b : Byte} {c : Fin 4} (h : c.val = b.toNat % 4) : messageIndex b = c := Fin.ext h.symm

/-- The message of a code, an index and the fields after them. -/
def messageBy (b : Byte) (n : Nat) (fields : List Byte) : Option Message :=
  match n, fields with
  | 0, [] => some .idle
  | 1, [y, k1, k0, lv, h1, h0] =>
    some (.start (messageIndex b) y.toNat (k1 ++ k0).toNat lv.toNat (h1 ++ h0).toNat)
  | 2, [] => some (.accept (messageIndex b))
  | 3, [] => some (.done (messageIndex b))
  | 4, [] => some (.withdraw (messageIndex b))
  | _, _ => none

theorem messageOf_eq (b : Byte) (fields : List Byte) : messageOf (b :: fields) = messageBy b (b.toNat / 16) fields := by
  delta messageOf messageBy
  exact Eq.refl _

/-- A message has the length of its code. -/
theorem messageBy_fits {b : Byte} {n : Nat} {fields : List Byte} {m : Message} (h : messageBy b n fields = some m) :
    n = 1 ∧ fields.length = 6 ∨ n ≠ 1 ∧ n < 5 ∧ fields = [] := by
  match n, fields, h with
  | 0, [], _ => exact Or.inr ⟨by decide, by decide, rfl⟩
  | 1, [_, _, _, _, _, _], _ => exact Or.inl ⟨rfl, rfl⟩
  | 2, [], _ => exact Or.inr ⟨by decide, by decide, rfl⟩
  | 3, [], _ => exact Or.inr ⟨by decide, by decide, rfl⟩
  | 4, [], _ => exact Or.inr ⟨by decide, by decide, rfl⟩

section
variable {b : Byte} {c : Fin 4}

theorem messageOf_idle (h : b.toNat / 16 = 0) : messageOf [b] = some .idle := by
  rw [messageOf_eq, h]
  rfl

variable (hc : c.val = b.toNat % 4)
include hc

theorem messageOf_start (h : b.toNat / 16 = 1) (y k1 k0 level h1 h0 : Byte) :
    messageOf [b, y, k1, k0, level, h1, h0] =
      some (.start c y.toNat (256 * k1.toNat + k0.toNat) level.toNat (256 * h1.toNat + h0.toNat)) := by
  rw [messageOf_eq, h, ← append_toNat, ← append_toNat, ← messageIndex_eq hc]
  rfl

theorem messageOf_accept (h : b.toNat / 16 = 2) : messageOf [b] = some (.accept c) := by
  rw [messageOf_eq, h, ← messageIndex_eq hc]
  rfl

theorem messageOf_done (h : b.toNat / 16 = 3) : messageOf [b] = some (.done c) := by
  rw [messageOf_eq, h, ← messageIndex_eq hc]
  rfl

theorem messageOf_withdraw (h : b.toNat / 16 = 4) : messageOf [b] = some (.withdraw c) := by
  rw [messageOf_eq, h, ← messageIndex_eq hc]
  rfl

end

theorem messageOf_none {b : Byte} {fields : List Byte}
    (h : ¬ (b.toNat / 16 = 1 ∧ fields.length = 6 ∨ b.toNat / 16 ≠ 1 ∧ b.toNat / 16 < 5 ∧ fields = [])) :
    messageOf (b :: fields) = none := by
  cases hm : messageOf (b :: fields) with
  | none => rfl
  | some m => exact absurd (messageBy_fits ((messageOf_eq b fields).symm.trans hm)) h

/-! ### A good reply (07 R122, R124) -/

/-- A station's record after a good reply. -/
def StationRt.heard (r : StationRt) : StationRt :=
  { state := .present, miss := 0, answers := tab (fun _ a => a.filter fun p => !p.delivered) r.answers }

theorem updStation_get (x : Fin 12) (f : StationRt → StationRt) (s : State) (y : Fin 12) :
    (updStation x f s).line.stations[y] = if x = y then f s.line.stations[x] else s.line.stations[y] := get_upd ..

theorem goodReply_lost {x : Fin 12} {s : State} (h : s.line.stations[x].state = .lost) :
    goodReply x s = notify .stationPresent (some (x.val + 1)) none (updStation x StationRt.heard s) := if_pos h

theorem goodReply_known {x : Fin 12} {s : State} (h : s.line.stations[x].state ≠ .lost) :
    goodReply x s = updStation x StationRt.heard s := if_neg h

theorem goodReply_blocks (x : Fin 12) (s : State) :
    (goodReply x s).line = (updStation x StationRt.heard s).line ∧ (goodReply x s).resv = s.resv ∧
      (goodReply x s).plant = s.plant := by
  by_cases h : s.line.stations[x].state = .lost
  · rw [goodReply_lost h]
    exact ⟨rfl, rfl, rfl⟩
  · rw [goodReply_known h]
    exact ⟨rfl, rfl, rfl⟩

theorem heard_answers (r : StationRt) (c : Fin 4) : r.heard.answers[c] = r.answers[c].filter fun a => !a.delivered :=
  get_tab (fun (_ : Fin 4) (a : Option PendAnswer) => a.filter fun (p : PendAnswer) => !p.delivered) r.answers c

/-! ### A missed reply (07 R122, R123) -/

section
variable {x : Fin 12} {s : State}

theorem missedReply_lost (h : s.line.stations[x].state = .lost) : missedReply x s = s := if_pos h

theorem missedReply_counts (h : s.line.stations[x].state ≠ .lost) (hm : s.line.stations[x].miss < 2) :
    missedReply x s = updStation x (fun r => { r with miss := r.miss + 1 }) s := (if_neg h).trans (if_pos hm)

/-- A station's record when it is lost. -/
def StationRt.lostNow (r : StationRt) : StationRt := { r with state := .lost, miss := 3 }

/-- STATION_LOST goes out with the station's record changed, before its entries are dropped. -/
def lostNoticed (x : Fin 12) (s : State) : State :=
  notify .stationLost (some (x.val + 1)) none (updStation x StationRt.lostNow s)

theorem missedReply_loses (h : s.line.stations[x].state ≠ .lost) (hm : 2 ≤ s.line.stations[x].miss) :
    missedReply x s = dropStation x (lostNoticed x s) := (if_neg h).trans (if_neg (not_lt.2 hm))

end

/-- Several entries dropped. -/
def droppedAll (es : List Entry) (s : State) : State :=
  es.foldl (fun t e => droppedWith e.station e.consumer .dropped t) s

theorem droppedAll_updates (es : List Entry) (s : State) : Updates s (droppedAll es s) :=
  updates_foldl (f := fun t (e : Entry) => droppedWith e.station e.consumer .dropped t)
    (fun t e => droppedWith_updates e.station e.consumer .dropped t) es s

theorem dropStation_eq (x : Fin 12) (s : State) :
    dropStation x s =
      accountUpdate false s
        (four.filter fun i => (droppedEntries s x).any fun e => decide (e.island s = some i))
        (droppedAll (droppedEntries s x) s) := rfl

/-- The entries that stand where several are dropped. -/
theorem droppedAll_queue (es : List Entry) (s : State) (f : Entry) :
    f ∈ (droppedAll es s).resv.queue ↔
      f ∈ s.resv.queue ∧ ∀ e ∈ es, ¬ (f.station = e.station ∧ f.consumer = e.consumer) := by
  induction es generalizing s with
  | nil => exact ⟨fun h => ⟨h, nofun⟩, fun h => h.1⟩
  | cons e es ih =>
    have one : f ∈ (droppedWith e.station e.consumer .dropped s).resv.queue ↔
        f ∈ s.resv.queue ∧ ¬ (f.station = e.station ∧ f.consumer = e.consumer) := by
      change f ∈ (dropEntry e.station e.consumer s).resv.queue ↔ _
      rw [dropEntry_queue, List.mem_filter, decide_eq_true_iff]
    rw [show droppedAll (e :: es) s = droppedAll es (droppedWith e.station e.consumer .dropped s) from rfl, ih, one,
      List.forall_mem_cons, and_assoc]

theorem droppedAll_answers (es : List Entry) (s : State) (x : Fin 12) (c : Fin 4) :
    ((droppedAll es s).line.stations[x]).answers[c] =
      if ∃ e ∈ es, e.station = x ∧ e.consumer = c then some { answer := .dropped, delivered := false }
      else (s.line.stations[x]).answers[c] := by
  induction es generalizing s with
  | nil => exact (if_neg (by simp)).symm
  | cons e es ih =>
    rw [show droppedAll (e :: es) s = droppedAll es (droppedWith e.station e.consumer .dropped s) from rfl, ih,
      droppedWith, answer_answers]
    by_cases later : ∃ f ∈ es, f.station = x ∧ f.consumer = c
    · obtain ⟨f, hf, hk⟩ := later
      rw [if_pos ⟨f, hf, hk⟩, if_pos ⟨f, List.mem_cons_of_mem _ hf, hk⟩]
    · rw [if_neg later]
      refine if_congr ⟨fun h => ⟨e, List.mem_cons_self, h⟩, fun ⟨f, hf, hk⟩ => ?_⟩ rfl rfl
      rcases List.mem_cons.1 hf with rfl | hf
      · exact hk
      · exact absurd ⟨f, hf, hk⟩ later

theorem mem_droppedEntries (s : State) (x : Fin 12) (e : Entry) :
    e ∈ droppedEntries s x ↔ e ∈ s.resv.queue ∧ e.station = x ∧ e.state ≠ .active := by
  rw [droppedEntries, List.mem_filter, Bool.and_eq_true, decide_eq_true_iff, decide_eq_true_iff]

/-- What the loss of a station does to its entries (07 R123). -/
theorem dropStation_effect (x : Fin 12) (s : State) :
    Updates s (dropStation x s) ∧ (∀ e ∈ (dropStation x s).resv.queue, e.station = x → e.state = .active) ∧
      ∀ e ∈ s.resv.queue, e.station = x → e.state ≠ .active →
        ((dropStation x s).line.stations[x]).answers[e.consumer] = some { answer := .dropped, delivered := false } := by
  rw [dropStation_eq]
  generalize four.filter (fun i => (droppedEntries s x).any fun e => decide (e.island s = some i)) = is
  have moves : QueueMoves (droppedAll (droppedEntries s x) s) (accountUpdate false s is (droppedAll (droppedEntries s x) s)) :=
    (moves_accountUpdate false s is _).2.2
  have left : ∀ f ∈ (droppedAll (droppedEntries s x) s).resv.queue, f.station = x → f.state = .active := by
    intro f hf hx
    obtain ⟨member, others⟩ := (droppedAll_queue _ s f).1 hf
    by_contra hs
    exact others f ((mem_droppedEntries s x f).2 ⟨member, hx, hs⟩) ⟨rfl, rfl⟩
  refine ⟨(droppedAll_updates _ s).trans (updates_accountUpdate false s is _), fun e he hx => ?_, fun e he hx hs => ?_⟩
  · exact left e ((moves.active (x := x) (c := e.consumer) fun f hf fx _ => left f hf fx).2.1 e he hx rfl) hx
  · have dropped := (mem_droppedEntries s x e).2 ⟨he, hx, hs⟩
    have gone : ∀ f ∈ (droppedAll (droppedEntries s x) s).resv.queue, ¬ (f.station = x ∧ f.consumer = e.consumer) :=
      fun f hf ⟨fx, fc⟩ => ((droppedAll_queue _ s f).1 hf).2 e dropped ⟨fx.trans hx.symm, fc⟩
    rw [(moves.gone gone).2, droppedAll_answers, if_pos ⟨e, dropped, hx, rfl⟩]

/-- What the third missed reply does. -/
theorem missedReply_effect {x : Fin 12} {s : State} (h : s.line.stations[x].state ≠ .lost)
    (hm : 2 ≤ s.line.stations[x].miss) :
    (missedReply x s).line.stations[x].state = .lost ∧ (missedReply x s).line.stations[x].miss = 3 ∧
    Sends (newNotice .stationLost (some (x.val + 1)) none s) s (missedReply x s) ∧
    (∀ e ∈ (missedReply x s).resv.queue, e.station = x → e.state = .active) ∧
    (∀ e ∈ s.resv.queue, e.station = x → e.state ≠ .active →
      ((missedReply x s).line.stations[x]).answers[e.consumer] = some { answer := .dropped, delivered := false }) := by
  rw [missedReply_loses h hm]
  obtain ⟨⟨frame, grows⟩, active, dropped⟩ := dropStation_effect x (lostNoticed x s)
  obtain ⟨-, -, -, -, -, -, -, stations, -⟩ := frame
  have record : (lostNoticed x s).line.stations[x] = s.line.stations[x].lostNow :=
    (updStation_get x StationRt.lostNow s x).trans (if_pos rfl)
  obtain ⟨state, miss⟩ := stations x
  refine ⟨state.trans (by rw [record]; rfl), miss.trans (by rw [record]; rfl), Sends.grows ?_ grows, active, dropped⟩
  exact sends_notify_of (s := s) (t := updStation x StationRt.lostNow s) rfl rfl .stationLost (some (x.val + 1)) none

/-- Settles O47. -/
theorem repliesMoveStations : Obligations.RepliesMoveStations := by
  refine ⟨fun x r body s hw hc => ⟨fun m => exec_replyFrame_good hw hc, exec_replyFrame_errored hw hc,
      exec_replyBadAddress hw hc, exec_replyWindowExpiry hw hc⟩,
    fun body s hw => exec_replies_shut hw body, fun head crc => classify_append, fun body => classify_short, rfl,
    fun b fields => ⟨messageOf_idle, fun c hc => ⟨messageOf_start hc, messageOf_accept hc, messageOf_done hc,
      messageOf_withdraw hc⟩, fun h hl => messageOf_none ?_, fun h hl => messageOf_none ?_, fun h => messageOf_none ?_⟩,
    fun x s => ?_⟩
  · rintro (⟨-, six⟩ | ⟨other, -⟩)
    · exact hl six
    · exact other h
  · rintro (⟨one, -⟩ | ⟨-, -, empty⟩)
    · exact h one
    · exact hl empty
  · rintro (⟨one, -⟩ | ⟨-, small, -⟩)
    · rw [one] at h
      exact absurd h (by decide)
    · exact absurd small (not_lt.2 h)
  · obtain ⟨line, resv, plant⟩ := goodReply_blocks x s
    have record : (goodReply x s).line.stations[x] = s.line.stations[x].heard := by
      rw [line]
      exact (updStation_get x StationRt.heard s x).trans (if_pos rfl)
    dsimp only
    refine ⟨by rw [record]; rfl, by rw [record]; rfl, fun c => by rw [record]; exact heard_answers _ c, fun y hy => ?_,
      resv, plant, fun h => ?_, fun h => by rw [goodReply_known h]; rfl, missedReply_lost, missedReply_counts,
      missedReply_effect⟩
    · rw [line]
      exact (updStation_get x StationRt.heard s y).trans (if_neg (Ne.symm hy))
    · rw [goodReply_lost h]
      exact sends_notify_of (s := s) (t := updStation x StationRt.heard s) rfl rfl .stationPresent (some (x.val + 1)) none

end Sys2Proof.Machine

/-! The readying of settings fields (08 R138, R147, R148) and the records of the configuration image (10 R168, 11 section
11.5). -/

namespace Sys2Proof.Machine

/-! ### Fields made ready -/

theorem fieldsMadeReady : FieldsMadeReady := by
  refine ⟨fun overload under v => ⟨rfl, rfl, rfl, rfl, rfl, rfl, rfl, rfl, rfl, rfl, rfl, rfl, rfl, rfl, rfl, rfl⟩, ?_⟩
  intro v0 v1 v2 v3 v4 v5 v6 v7 v8 v9 v10 v11 v12 v13 v14 v15
  constructor
  · simp [readyBlock, List.mapIdx_cons, readyField]
  · simp [clampBlock, List.mapIdx_cons, readyField]

/-! ### Codes and indices -/

theorem index_ge {n : Nat} {v : Int} (h : (n : Int) ≤ v) : index n v = none := by
  unfold index
  rw [dif_neg]
  omega

theorem flag_code (b : Bool) : flag (if b then 1 else 0) = some b := by
  cases b <;> rfl

theorem senseOf_code (t : TripSense) : senseOf (if t = .level then 1 else 0) = some t := by
  cases t <;> rfl

/-! ### Records of fixed length -/

section
variable (img : Image) (idx : Int) (vs : List Int)

theorem loadFixed_general : loadFixed img 0 idx vs = if idx = 0 then loadGeneral img vs else none := rfl

theorem loadFixed_set : loadFixed img 1 idx vs = (index 8 idx).bind fun g => loadSet img g vs := rfl

theorem loadFixed_section :
    loadFixed img 2 idx vs =
      (index 4 idx).bind fun x => (busOf vs).map fun c => ({ img with sections := put img.sections x c }, vs) := rfl

theorem loadFixed_tie :
    loadFixed img 3 idx vs =
      (index 4 idx).bind fun t => (busOf vs).map fun c => ({ img with ties := put img.ties t c }, vs) := rfl

theorem loadFixed_group : loadFixed img 4 idx vs = (index 32 idx).bind fun g => loadGroup img g vs := rfl

theorem loadFixed_sync : loadFixed img 5 idx vs = if idx = 0 then loadSync img vs else none := rfl

theorem loadFixed_stations :
    loadFixed img 6 idx vs =
      if idx = 0 ∧ vs.length = 12 ∧ vs.all (fun v => (flag v).isSome) = true then
        some ({ img with stations := tab (fun i _ => (vs.getD i.val 0) = 1) img.stations }, vs)
      else none := rfl

theorem loadFixed_block :
    loadFixed img 10 idx vs =
      (index 8 idx).bind fun p =>
        (Settings.ofList (clampBlock vs)).map fun b =>
          ({ img with profiles := upd img.profiles p fun r => { r with initial := b } }, clampBlock vs) := rfl

end

theorem load_general (img : Image) (nom bf tf cf lv dd ls ct lt aw : Int) (p : Fin 8) :
    let n : Int := if nom < 55000 then 50000 else 60000
    loadFixed img 0 0 [nom, bf, tf, cf, lv, dd, ls, ct, lt, aw, p.val] = some
      ({ img with
          general :=
            { nominal := n.toNat, breakerFilter := (clamp 20 500 bf).toNat, tripFilter := (clamp 5 100 tf).toNat,
              confirmFilter := (clamp 20 500 cf).toNat, liveThr := (clamp 500 950 lv).toNat,
              deadThr := (clamp 50 400 dd).toNat, lossTime := (clamp 30 300 ls).toNat,
              confirmTime := (clamp 100 5000 ct).toNat, linkTimeout := (clamp 500 10000 lt).toNat,
              agreeWindow := (clamp 1000 5000 aw).toNat, initialProfile := p } },
       [n, clamp 20 500 bf, clamp 5 100 tf, clamp 20 500 cf, clamp 500 950 lv, clamp 50 400 dd, clamp 30 300 ls,
        clamp 100 5000 ct, clamp 500 10000 lt, clamp 1000 5000 aw, p.val]) := by
  intro n
  rw [loadFixed_general, if_pos rfl]
  simp only [loadGeneral, index_nat, Option.map_some, n]

theorem load_set (img : Image) (g : Fin 8) (here : Bool) (x : Fin 4) (rating fs park : Int) (sense : TripSense) :
    loadFixed img 1 g.val
      [(if here then 1 else 0 : Int), (x.val : Int), rating, fs, park, if sense = .level then 1 else 0] = some
      ({ img with
          sets := put img.sets g
            { present := here, sect := x, rating := (clamp 500 20000 rating).toNat, fs := (clamp 500 25000 fs).toNat,
              park := clamp (-1000) 1000 park, sense := sense } },
       [(if here then 1 else 0 : Int), (x.val : Int), clamp 500 20000 rating, clamp 500 25000 fs, clamp (-1000) 1000 park,
        if sense = .level then 1 else 0]) := by
  rw [loadFixed_set, index_nat]
  simp only [Option.bind_some, loadSet, flag_code, index_nat, senseOf_code]

theorem busOf_codes (here dead : Bool) :
    busOf [if here then 1 else 0, if dead then 1 else 0] = some { present := here, deadClose := dead } := by
  simp only [busOf, flag_code]

theorem load_group (img : Image) (g : Fin 32) (here : Bool) (x : Fin 4) :
    loadFixed img 4 g.val [(if here then 1 else 0 : Int), (x.val : Int), 255] =
      some ({ img with groups := put img.groups g { present := here, sect := x, confirm := none } },
        [(if here then 1 else 0 : Int), (x.val : Int), 255]) ∧
    ∀ c : Fin 16, loadFixed img 4 g.val [(if here then 1 else 0 : Int), (x.val : Int), (c.val : Int)] =
      some ({ img with groups := put img.groups g { present := here, sect := x, confirm := some c } },
        [(if here then 1 else 0 : Int), (x.val : Int), (c.val : Int)]) := by
  refine ⟨?_, fun c => ?_⟩
  · rw [loadFixed_group, index_nat]
    simp only [Option.bind_some, loadGroup, flag_code, index_nat, if_true]
  · have other : ¬ (c.val : Int) = 255 := by omega
    rw [loadFixed_group, index_nat]
    simp only [Option.bind_some, loadGroup, flag_code, index_nat, if_neg other, Option.map_some]

theorem edgesOf_none : edgesOf 0 = some .none := rfl
theorem edgesOf_rise : edgesOf 1 = some .rise := rfl
theorem edgesOf_fall : edgesOf 2 = some .fall := rfl
theorem edgesOf_both : edgesOf 3 = some .both := rfl

/-- The SYNC record with two edge codes that name edges. -/
theorem load_sync (img : Image) (st li tg sw vw gs qp pw tc pl cf c f : Int) (ce fe : Edges) (hc : edgesOf c = some ce)
    (hf : edgesOf f = some fe) :
    loadFixed img 5 0 [st, li, tg, sw, vw, gs, qp, pw, tc, pl, cf, c, f] = some
      ({ img with
          sync :=
            { settle := (clamp 50 1000 st).toNat, limit := (clamp 10 300 li).toNat, slipTarget := clamp 0 200 tg,
              slipWindow := clamp 10 500 sw, voltWindow := clamp 10 100 vw, gain := clamp 0 255 gs,
              qualPasses := (clamp 1 10 qp).toNat, phaseWindow := clamp 1 30 pw, tClose := clamp 20 500 tc,
              pulse := (clamp 100 1000 pl).toNat, confirm := (clamp 200 3000 cf).toNat, coarseEdges := ce,
              fineEdges := fe } },
       [clamp 50 1000 st, clamp 10 300 li, clamp 0 200 tg, clamp 10 500 sw, clamp 10 100 vw, clamp 0 255 gs,
        clamp 1 10 qp, clamp 1 30 pw, clamp 20 500 tc, clamp 100 1000 pl, clamp 200 3000 cf, c, f]) := by
  rw [loadFixed_sync, if_pos rfl]
  simp only [loadSync, hc, hf]

/-- The flags of a list of stations. -/
theorem flags_getD (here : Vector Bool 12) (i : Fin 12) :
    decide ((here.toList.map fun b => if b then (1 : Int) else 0).getD i.val 0 = 1) = here[i] := by
  have value : (here.toList.map fun b => if b then (1 : Int) else 0).getD i.val 0 = if here[i] then 1 else 0 := by
    rw [List.getD_eq_getElem?_getD, List.getElem?_map, Vector.getElem?_toList]
    simp
  rw [value]
  cases here[i] <;> rfl

theorem load_stations (img : Image) (here : Vector Bool 12) :
    loadFixed img 6 0 (here.toList.map fun b => if b then 1 else 0) =
      some ({ img with stations := here }, here.toList.map fun b => if b then 1 else 0) := by
  have coded : (here.toList.map fun b => if b then (1 : Int) else 0).all (fun v => (flag v).isSome) = true := by
    rw [List.all_map, List.all_eq_true]
    intro b _
    exact congrArg Option.isSome (flag_code b)
  have table : tab (fun i _ => decide ((here.toList.map fun b => if b then (1 : Int) else 0).getD i.val 0 = 1))
      img.stations = here := by
    refine Vector.ext fun i hi => ?_
    exact (get_tab _ img.stations ⟨i, hi⟩).trans (flags_getD here ⟨i, hi⟩)
  rw [loadFixed_stations, if_pos ⟨rfl, by rw [List.length_map, Vector.length_toList], coded⟩, table]

theorem load_baseGroup (img : Image) (g : Fin 32) (level load : Int) :
    loadFixed img 7 g.val [level, load] = some
      ({ img with
          base.groups := put img.base.groups g { level := (clamp 0 7 level).toNat, load := (clamp 0 20000 load).toNat } },
       [clamp 0 7 level, clamp 0 20000 load]) := by
  simp only [loadFixed, index_nat]

theorem load_baseSet (img : Image) (g : Fin 8) (m : Mode) (c base : Int) (hc : modeOf c = some m) :
    loadFixed img 8 g.val [c, base] = some
      ({ img with base.sets := put img.base.sets g { mode := m, base := (clamp 0 20000 base).toNat } },
       [c, clamp 0 20000 base]) := by
  simp only [loadFixed, index_nat, hc, Option.map_some]

theorem load_profile (img : Image) (p : Fin 8) (here patch : Bool) :
    loadFixed img 9 p.val [if here then 1 else 0, if patch then 1 else 0] =
      some ({ img with profiles := upd img.profiles p fun r => { r with present := here, patch := patch } },
        [if here then 1 else 0, if patch then 1 else 0]) := by
  simp only [loadFixed, index_nat, flag_code]

/-- An index outside its numbering is no record. -/
theorem load_badIndex (img : Image) (idx : Int) (vs : List Int) :
    (idx ≠ 0 → loadFixed img 0 idx vs = none ∧ loadFixed img 5 idx vs = none ∧ loadFixed img 6 idx vs = none) ∧
    (4 ≤ idx → loadFixed img 2 idx vs = none ∧ loadFixed img 3 idx vs = none) ∧
    (8 ≤ idx → loadFixed img 1 idx vs = none ∧ loadFixed img 8 idx vs = none ∧ loadFixed img 9 idx vs = none ∧
      loadFixed img 10 idx vs = none) ∧
    (32 ≤ idx → loadFixed img 4 idx vs = none ∧ loadFixed img 7 idx vs = none) := by
  refine ⟨fun h => ⟨if_neg h, if_neg h, if_neg fun k => h k.1⟩, fun h => ?_, fun h => ?_, fun h => ?_⟩
  · have outside : index 4 idx = none := index_ge h
    exact ⟨by rw [loadFixed_section, outside]; rfl, by rw [loadFixed_tie, outside]; rfl⟩
  · have outside : index 8 idx = none := index_ge h
    refine ⟨by rw [loadFixed_set, outside]; rfl, ?_, ?_, by rw [loadFixed_block, outside]; rfl⟩
    · simp only [loadFixed, outside]
    · simp only [loadFixed, outside]
  · have outside : index 32 idx = none := index_ge h
    refine ⟨by rw [loadFixed_group, outside]; rfl, ?_⟩
    simp only [loadFixed, outside]

/-- A field that names nothing is no record. -/
theorem load_badField (img : Image) (idx : Int) :
    (∀ nom bf tf cf lv dd ls ct lt aw p : Int, 8 ≤ p →
      loadFixed img 0 idx [nom, bf, tf, cf, lv, dd, ls, ct, lt, aw, p] = none) ∧
    (∀ here x rating fs park sense : Int, 4 ≤ x → loadFixed img 1 idx [here, x, rating, fs, park, sense] = none) ∧
    ∀ here x c : Int, (4 ≤ x ∨ 16 ≤ c ∧ c ≠ 255) → loadFixed img 4 idx [here, x, c] = none := by
  refine ⟨fun nom bf tf cf lv dd ls ct lt aw p hp => ?_, fun here x rating fs park sense hx => ?_, fun here x c h => ?_⟩
  · have outside : index 8 p = none := index_ge hp
    rw [loadFixed_general]
    simp only [loadGeneral, outside, Option.map_none, ite_self]
  · have outside : index 4 x = none := index_ge hx
    have bad (g : Fin 8) : loadSet img g [here, x, rating, fs, park, sense] = none := by
      cases hf : flag here <;> simp only [loadSet, outside, hf]
    rw [loadFixed_set]
    cases index 8 idx with
    | none => rfl
    | some g => exact bad g
  · have bad (g : Fin 32) : loadGroup img g [here, x, c] = none := by
      rcases h with hx | ⟨hc, hn⟩
      · have outside : index 4 x = none := index_ge hx
        cases hf : flag here <;> simp only [loadGroup, outside, hf]
      · have outside : index 16 c = none := index_ge hc
        simp only [loadGroup, outside, if_neg hn, Option.map_none]
        cases flag here <;> cases index 4 x <;> rfl
    rw [loadFixed_group]
    cases index 32 idx with
    | none => rfl
    | some g => exact bad g

end Sys2Proof.Machine

/-! The characters of a record and of a patch list (08 R148, 10 R168, 11 R172). -/

namespace Sys2Proof.Machine

/-! ### How many values a reading finds -/

theorem readPrefix_count : ∀ (ws : List Width) (cs : List Byte) (p : List Int × List Byte),
    readPrefix ws cs = some p → p.1.length = ws.length := by
  intro ws
  induction ws with
  | nil =>
    intro cs p h
    cases h
    rfl
  | cons w ws ih =>
    have one {cs : List Byte} {v : Int} {p : List Int × List Byte}
        (h : (readPrefix ws cs).map (fun p => (v :: p.1, p.2)) = some p) : p.1.length = (w :: ws).length := by
      obtain ⟨q, hq, rfl⟩ := Option.map_eq_some_iff.1 h
      exact congrArg (· + 1) (ih cs q hq)
    intro cs p h
    match w, cs, h with
    | .w1, _ :: _, h => exact one h
    | .w2, _ :: _ :: _, h => exact one h
    | .w4, _ :: _ :: _ :: _ :: _, h => exact one h

theorem readFields_count {ws : List Width} {cs : List Byte} {vs : List Int} (h : readFields ws cs = some vs) :
    vs.length = ws.length := by
  unfold readFields at h
  split at h
  next q hq =>
    cases h
    exact readPrefix_count ws cs _ hq
  next => exact nomatch h

/-! ### Patch lists (08 R148) -/

/-- R148 refuses a patch list for its counts. -/
def Refused (ps : List RawPatch) : Prop :=
  8 < ps.length ∨ 48 < (ps.map fun q => q.entries.length).sum ∨ (∃ q ∈ ps, 32 < q.count) ∨
    ∃ fore q after, ps = fore ++ q :: after ∧ after ≠ [] ∧ q.count = 0

theorem zeroLast_iff (ps : List RawPatch) :
    zeroLast ps = true ↔ ¬ ∃ fore q after, ps = fore ++ q :: after ∧ after ≠ [] ∧ q.count = 0 := by
  induction ps with
  | nil => simp [zeroLast]
  | cons p ps ih =>
    have split_head : (∃ fore q after, p :: ps = fore ++ q :: after ∧ after ≠ [] ∧ q.count = 0) ↔
        (ps ≠ [] ∧ p.count = 0) ∨ ∃ fore q after, ps = fore ++ q :: after ∧ after ≠ [] ∧ q.count = 0 := by
      constructor
      · rintro ⟨fore, q, after, eq, some_after, zero⟩
        cases fore with
        | nil =>
          cases eq
          exact Or.inl ⟨some_after, zero⟩
        | cons f fore =>
          cases eq
          exact Or.inr ⟨fore, q, after, rfl, some_after, zero⟩
      · rintro (⟨some_after, zero⟩ | ⟨fore, q, after, rfl, some_after, zero⟩)
        · exact ⟨[], p, ps, rfl, some_after, zero⟩
        · exact ⟨p :: fore, q, after, rfl, some_after, zero⟩
    rw [split_head]
    cases ps with
    | nil => simp [zeroLast]
    | cons q qs =>
      rw [zeroLast, Bool.and_eq_true, decide_eq_true_iff, ih, not_or]
      simp

theorem tablesKnown_iff (ps : List RawPatch) : tablesKnown ps = true ↔ ∀ q ∈ ps, q.table = 0 ∨ q.table = 1 := by
  simp only [tablesKnown, List.all_eq_true, Bool.or_eq_true, decide_eq_true_iff]

/-- What `readyPatches` asks of a list. -/
theorem readyPatches_asks (ps : List RawPatch) :
    (ps.length ≤ 8 ∧ (ps.map fun p => p.entries.length).sum ≤ 48 ∧
      ps.all (fun p => decide (p.count ≤ 32) && (decide (p.table = 0) || decide (p.table = 1))) = true ∧
        zeroLast ps = true) ↔ tablesKnown ps = true ∧ ¬ Refused ps := by
  have each : ps.all (fun p => decide (p.count ≤ 32) && (decide (p.table = 0) || decide (p.table = 1))) = true ↔
      (¬ ∃ q ∈ ps, 32 < q.count) ∧ tablesKnown ps = true := by
    rw [tablesKnown_iff, List.all_eq_true]
    simp only [Bool.and_eq_true, Bool.or_eq_true, decide_eq_true_iff, not_exists, not_and, not_lt]
    exact ⟨fun h => ⟨fun q hq => (h q hq).1, fun q hq => (h q hq).2⟩, fun h q hq => ⟨h.1 q hq, h.2 q hq⟩⟩
  rw [each, zeroLast_iff, Refused, not_or, not_or, not_or, not_lt, not_lt]
  tauto

theorem readyPatches_none {ps : List RawPatch} (h : Refused ps) : readyPatches ps = none :=
  if_neg fun k => ((readyPatches_asks ps).1 k).2 h

theorem readyPatches_some {ps : List RawPatch} (ht : tablesKnown ps = true) (h : ¬ Refused ps) :
    readyPatches ps = some (ps.map fun q => (readyPatch q).1, ps.any fun q => (readyPatch q).2) :=
  if_pos ((readyPatches_asks ps).2 ⟨ht, h⟩)

/-- A list that is not refused, count by count. -/
theorem not_refused {ps : List RawPatch} (hl : ps.length ≤ 8) (hs : (ps.map fun q => q.entries.length).sum ≤ 48)
    (hc : ∀ q ∈ ps, q.count ≤ 32) (hz : ∀ fore q after, ps = fore ++ q :: after → after ≠ [] → q.count ≠ 0) :
    ¬ Refused ps := by
  rintro (long | many | ⟨q, hq, big⟩ | ⟨fore, q, after, eq, some_after, zero⟩)
  · exact absurd long (not_lt.2 hl)
  · exact absurd many (not_lt.2 hs)
  · exact absurd big (not_lt.2 (hc q hq))
  · exact hz fore q after eq some_after zero

theorem readyPatch_groups {q : RawPatch} (h : q.table = 0) :
    readyPatch q =
      (.groups q.first.toNat
        (q.entries.map fun e => { level := (min 7 (max (0 : Int) e.1)).toNat, load := (min 20000 (max (0 : Int) e.2)).toNat }),
       decide (∃ e ∈ q.entries, min 7 (max (0 : Int) e.1) ≠ e.1 ∨ min 20000 (max (0 : Int) e.2) ≠ e.2)) := by
  have changed : (q.entries.any fun e => decide (clamp 0 7 e.1 ≠ e.1) || decide (clamp 0 20000 e.2 ≠ e.2)) =
      decide (∃ e ∈ q.entries, min 7 (max (0 : Int) e.1) ≠ e.1 ∨ min 20000 (max (0 : Int) e.2) ≠ e.2) := by
    rw [Bool.eq_iff_iff]
    simp only [List.any_eq_true, Bool.or_eq_true, decide_eq_true_iff]
    exact Iff.rfl
  rw [readyPatch, if_pos h, changed]
  rfl

theorem modeOf_getD (v : Int) :
    (modeOf v).getD .share = if v = 1 then Mode.base else if v = 2 then Mode.hold else Mode.share := by
  unfold modeOf
  by_cases h0 : v = 0
  · subst h0
    rfl
  by_cases h1 : v = 1
  · subst h1
    rfl
  by_cases h2 : v = 2
  · subst h2
    rfl
  · rw [if_neg h0, if_neg h1, if_neg h2, if_neg h1, if_neg h2]
    rfl

theorem modeOf_isNone (v : Int) : (modeOf v).isNone = true ↔ ¬ (v = 0 ∨ v = 1 ∨ v = 2) := by
  unfold modeOf
  split_ifs <;> simp_all

theorem readyPatch_sets {q : RawPatch} (h : q.table = 1) :
    readyPatch q =
      (.sets q.first.toNat
        (q.entries.map fun e =>
          { mode := if e.1 = (1 : Int) then Mode.base else if e.1 = (2 : Int) then Mode.hold else Mode.share,
            base := (min 20000 (max (0 : Int) e.2)).toNat }),
       decide (∃ e ∈ q.entries, ¬ (e.1 = 0 ∨ e.1 = 1 ∨ e.1 = 2) ∨ min 20000 (max (0 : Int) e.2) ≠ e.2)) := by
  have other : ¬ q.table = 0 := by
    rw [h]
    decide
  have changed : (q.entries.any fun e => (modeOf e.1).isNone || decide (clamp 0 20000 e.2 ≠ e.2)) =
      decide (∃ e ∈ q.entries, ¬ (e.1 = 0 ∨ e.1 = 1 ∨ e.1 = 2) ∨ min 20000 (max (0 : Int) e.2) ≠ e.2) := by
    rw [Bool.eq_iff_iff]
    simp only [List.any_eq_true, Bool.or_eq_true, decide_eq_true_iff, modeOf_isNone]
    exact Iff.rfl
  rw [readyPatch, if_neg other, changed]
  simp only [modeOf_getD, clamp]

theorem readyPatch_count (q : RawPatch) : (readyPatch q).1.count = q.entries.length := by
  unfold readyPatch
  split
  · exact List.length_map ..
  · exact List.length_map ..

/-- PATCH is set where a patch has a count of 1 or more. -/
theorem readyPatches_patch (ps : List RawPatch) :
    ((ps.map fun q => (readyPatch q).1).any fun q => decide (0 < q.count)) =
      ps.any fun q => decide (0 < q.entries.length) := by
  rw [List.any_map]
  refine congrArg ps.any (funext fun q => ?_)
  exact congrArg (fun n => decide (0 < n)) (readyPatch_count q)

/-! ### LOAD RECORD reads a record (10 R168) -/

section
variable (img : Image) (kind idx : Byte) (cs : List Byte)

theorem loadRecordOf_kind (h : kind.toNat ≠ 11) {ws : List Width} {vs : List Int}
    (hw : recordWidths kind.toNat = some ws) (hv : readFields ws cs = some vs) :
    loadRecordOf img (kind :: idx :: cs) =
      (loadFixed img kind.toNat idx.toNat vs).map fun r => (r.1, writeItems (ws.zip r.2), decide (r.2 ≠ vs)) := by
  have other : ¬ (kind.toNat : Int) = 11 := by omega
  simp only [loadRecordOf, readPrefix, Option.map_some, if_neg other, hw, hv]

theorem recordWidths_none (h : 12 ≤ kind.toNat) : recordWidths kind.toNat = none := by
  unfold recordWidths
  split <;> try omega
  rfl

theorem loadRecordOf_unknown (h : 12 ≤ kind.toNat) : loadRecordOf img (kind :: idx :: cs) = none := by
  have other : ¬ (kind.toNat : Int) = 11 := by omega
  simp only [loadRecordOf, readPrefix, Option.map_some, if_neg other, recordWidths_none kind h]

end

/-- The kind of a PROFILE PATCHES record. -/
theorem patchesKind : (((0x0B#8 : Byte).toNat : Int)) = 11 := rfl

theorem loadRecordOf_patches (img : Image) (idx : Byte) (cs : List Byte) {ps : List RawPatch}
    (hr : readPatchList cs = some ps) :
    loadRecordOf img (0x0B#8 :: idx :: cs) =
      (index 8 (idx.toNat : Int)).bind fun p => (readyPatches ps).map fun r =>
        ({ img with profiles := upd img.profiles p fun q => { q with patches := r.1 } }, patchListBytes r.1, r.2) := by
  simp only [loadRecordOf, readPrefix, Option.map_some, patchesKind, if_true, hr, Option.bind_some]
  cases index 8 (idx.toNat : Int) with
  | none => rfl
  | some p => cases readyPatches ps <;> rfl

/-- A PROFILE PATCHES record is refused and made ready as WRITE PROFILE does it (log 63). -/
theorem load_patches (img : Image) (idx : Byte) (cs : List Byte) (ps : List RawPatch) (hr : readPatchList cs = some ps)
    (ht : tablesKnown ps = true) :
    ((8 ≤ idx.toNat ∨ Refused ps) → loadRecordOf img (0x0B#8 :: idx :: cs) = none) ∧
    ∀ p : Fin 8, idx.toNat = p.val → ¬ Refused ps →
      loadRecordOf img (0x0B#8 :: idx :: cs) =
        some ({ img with profiles := upd img.profiles p fun r => { r with patches := ps.map fun q => (readyPatch q).1 } },
          patchListBytes (ps.map fun q => (readyPatch q).1), ps.any fun q => (readyPatch q).2) := by
  rw [loadRecordOf_patches img idx cs hr]
  refine ⟨fun h => ?_, fun p hp h => ?_⟩
  · rcases h with h | h
    · rw [index_none h]
      rfl
    · rw [readyPatches_none h]
      cases index 8 (idx.toNat : Int) <;> rfl
  · rw [hp, index_nat, readyPatches_some ht h]
    rfl

theorem recordsLoad : RecordsLoad := by
  refine ⟨load_general, load_set, fun img x here dead => ?_, load_group, fun img st li tg sw vw gs qp pw tc pl cf ce fe => ?_,
    load_stations, load_baseGroup, fun img g m base => ?_, load_profile, load_badIndex, load_badField,
    fun img kind idx cs => loadRecordOf_unknown img kind idx cs, fun img kind idx cs ws vs hk hw hv => ?_, load_patches⟩
  · intro vs
    refine ⟨?_, ?_⟩
    · rw [loadFixed_section, index_nat, Option.bind_some, busOf_codes]
      rfl
    · rw [loadFixed_tie, index_nat, Option.bind_some, busOf_codes]
      rfl
  · intro code
    have coded (e : Edges) : edgesOf (code e) = some e := by
      cases e
      case none => exact edgesOf_none
      case rise => exact edgesOf_rise
      case fall => exact edgesOf_fall
      case both => exact edgesOf_both
    exact load_sync img st li tg sw vw gs qp pw tc pl cf _ _ ce fe (coded ce) (coded fe)
  · intro code
    have coded : modeOf code = some m := by
      cases m <;> rfl
    exact load_baseSet img g m code base coded
  · exact loadRecordOf_kind img kind idx cs (by omega) hw hv

end Sys2Proof.Machine

/-! WRITE SETTING, WRITE PROFILE and LOAD RECORD (08 R147, R148, 10 R168). -/

namespace Sys2Proof.Machine

/-! ### WRITE SETTING (08 R147) -/

theorem settings_top {s : State} {p : Fin 8} (h : s.prof.stack.getLast? = some p) : settings s = s.prof.working[p] := by
  simp only [settings, h]

/-- The Working block of a profile written. -/
def writtenBlock (p : Fin 8) (b : Settings) (s : State) : State := { s with prof.working := put s.prof.working p b }

theorem writtenBlock_eq {s : State} {w : Vector Settings 8} (h : s.prof.working = w) (p : Fin 8) (b : Settings) :
    writtenBlock p b s = { s with prof.working := put w p b } := by
  subst h
  rfl

theorem writtenBlock_settings {s : State} {p : Fin 8} (h : s.prof.stack.getLast? = some p) (b : Settings) :
    settings (writtenBlock p b s) = b :=
  (settings_top (s := writtenBlock p b s) h).trans (get_put_self s.prof.working p b)

theorem settingEffects_eq (f : Fin 16) (v s : State) :
    settingEffects f v s =
      if f = 5 ∨ f = 6 ∨ f = 8 then accountUpdate false v four s
      else if f = 12 ∧ (settings s).autoRestore = false then { s with shed.restore := Vector.replicate 4 none }
      else s := by
  have off : (if f = 12 then autoOffCancels s else s) =
      if f = 12 ∧ (settings s).autoRestore = false then { s with shed.restore := Vector.replicate 4 none } else s := by
    unfold autoOffCancels
    by_cases hf : f = 12
    · cases ha : (settings s).autoRestore with
      | true =>
        rw [if_pos hf, if_pos rfl, if_neg fun k => Bool.false_ne_true k.2.symm]
      | false =>
        rw [if_pos hf, if_neg Bool.false_ne_true, if_pos ⟨hf, rfl⟩]
        rfl
    · rw [if_neg hf, if_neg fun k => hf k.1]
  unfold settingEffects
  rw [off]

/-- A field's value made ready gives a block again, consistent where the block was. -/
theorem ofList_ready (b : Settings) (f : Fin 16) (x : Int) :
    ∃ blk, Settings.ofList (b.toList.set f.val (readyField f.val b.overDwell b.underDwell x)) = some blk ∧
      blk.toList = b.toList.set f.val (readyField f.val b.overDwell b.underDwell x) ∧
      (b.consistent = true → blk.consistent = true) := by
  have held := readyField_nonneg f.val b.underDwell x (Int.natCast_nonneg b.overDwell)
  have flagged : f.val = 12 → readyField f.val b.overDwell b.underDwell x = 0 ∨
      readyField f.val b.overDwell b.underDwell x = 1 := by
    intro h
    rw [h]
    exact readyField_flag _ _ x
  obtain ⟨blk, made, listed⟩ := ofList_set b f held flagged
  exact ⟨blk, made, listed, fun hb => consistent_set hb listed⟩

theorem writtenSetting_eq {b blk : Settings} {f : Fin 16} {x : Int}
    (h : Settings.ofList (b.toList.set f.val (readyField f.val b.overDwell b.underDwell x)) = some blk) :
    writtenSetting b f x = (blk, readyField f.val b.overDwell b.underDwell x) := by
  simp only [writtenSetting, h, Option.getD_some]

theorem writeSetting_badField {n : Nat} (h : 16 ≤ n) (x : Int) (s : State) :
    writeSetting [(n : Int), x] s = (s, .refused .badField) := by
  simp only [writeSetting, arg_zero, index_none h, refuse]

theorem writeSetting_stopped (f : Fin 16) (x : Int) {s : State} (hr : s.running = false) :
    writeSetting [(f.val : Int), x] s = (s, .refused .wrongState) := by
  simp only [writeSetting, arg_zero, index_nat, hr, Bool.false_eq_true, not_false_eq_true, if_true, refuse]

theorem writeSetting_busy (f : Fin 16) (x : Int) {s : State} (hr : s.running = true) (he : s.entering = true) :
    writeSetting [(f.val : Int), x] s = (s, .busy) := by
  simp only [writeSetting, arg_zero, index_nat, hr, he, not_true, if_false, if_true]

/-- A field of the active profile's Working block written. -/
theorem writeSetting_writes {f : Fin 16} {x : Int} {s : State} {p : Fin 8} {blk : Settings} (hr : s.running = true)
    (he : s.entering = false) (hp : s.prof.stack.getLast? = some p)
    (h : Settings.ofList ((s.prof.working[p]).toList.set f.val
      (readyField f.val (s.prof.working[p]).overDwell (s.prof.working[p]).underDwell x)) = some blk) :
    writeSetting [(f.val : Int), x] s =
      (if blk = s.prof.working[p] then writtenBlock p blk s else settingEffects f s (writtenBlock p blk s),
        .done (decide (readyField f.val (s.prof.working[p]).overDwell (s.prof.working[p]).underDwell x ≠ x))
          (writeField .w4 (readyField f.val (s.prof.working[p]).overDwell (s.prof.working[p]).underDwell x))) := by
  have not_busy : ¬ s.entering = true := by rw [he]; exact Bool.false_ne_true
  unfold writeSetting
  rw [arg_zero, index_nat]
  dsimp only
  rw [if_neg (not_not.2 hr), if_neg not_busy, settings_top hp, arg_one, writtenSetting_eq h]
  simp only [hp]
  rfl

theorem exec_writeSetting {l : Link} {seq : Byte} {s : State} (ht : Takes l s) (n a b c d : Byte) :
    exec (.writeSetting l seq [n, a, b, c, d]) s =
      .next (answerTo l 52 seq (writeSetting [(n.toNat : Int), (a ++ b ++ c ++ d).toInt] (validFrame l s)).2
        (writeSetting [(n.toNat : Int), (a ++ b ++ c ++ d).toInt] (validFrame l s)).1) :=
  congrArg Host.Outcome.next (request_taken rfl (readFields_oneFour n a b c d) (by decide) ht)

/-- WRITE SETTING, command by command. -/
theorem writeSetting_answers (l : Link) (seq n a b c d : Byte) (s : State) (ht : Takes l s) :
    let i := Instr.writeSetting l seq [n, a, b, c, d]
    (16 ≤ n.toNat → exec i s = .next (turnedAway l 52 seq (.refused .badField) s)) ∧
    (n.toNat < 16 → s.running = false → exec i s = .next (turnedAway l 52 seq (.refused .wrongState) s)) ∧
    (n.toNat < 16 → s.running = true → s.entering = true → exec i s = .next (turnedAway l 52 seq .busy s)) ∧
    ∀ (f : Fin 16) (p : Fin 8), n.toNat = f.val → s.running = true → s.entering = false →
      s.prof.stack.getLast? = some p →
      let v := validFrame l s
      let old := s.prof.working[p]
      let x := (a ++ b ++ c ++ d).toInt
      let held := readyField f.val old.overDwell old.underDwell x
      ∃ blk : Settings, blk.toList = old.toList.set f.val held ∧ (old.consistent = true → blk.consistent = true) ∧
        let q : State := { v with prof.working := put s.prof.working p blk }
        exec i s = .next
          (answerTo l 52 seq (.done (decide (held ≠ x)) (writeField .w4 held))
            (if blk = old then q
              else if f = 5 ∨ f = 6 ∨ f = 8 then accountUpdate false v four q
              else if f = 12 ∧ blk.autoRestore = false then
                { q with shed.restore := Vector.replicate 4 none }
              else q)) ∧
        settings q = blk ∧ UpdateFrame q (accountUpdate false v four q) ∧
        ∀ (j : Fin 4) (e : Account), (recompute four q).plant.accounts[j] = some e → AccountOf q j e := by
  obtain ⟨-, running, entering, -⟩ := validFrame_checks l s
  have run := exec_writeSetting (seq := seq) ht n a b c d
  dsimp only
  refine ⟨fun hn => exec_turnedAway run (writeSetting_badField hn _ _), fun hn hr => exec_turnedAway run ?_,
    fun hn hr he => exec_turnedAway run ?_, fun f p hn hr he hp => ?_⟩
  · exact writeSetting_stopped ⟨n.toNat, hn⟩ _ (running.trans hr)
  · exact writeSetting_busy ⟨n.toNat, hn⟩ _ (running.trans hr) (entering.trans he)
  · obtain ⟨blk, made, listed, consistent⟩ := ofList_ready s.prof.working[p] f (a ++ b ++ c ++ d).toInt
    have prof : (validFrame l s).prof = s.prof := validFrame_prof l s
    have top : (validFrame l s).prof.stack.getLast? = some p := by rw [prof]; exact hp
    have working : (validFrame l s).prof.working = s.prof.working := congrArg Prof.working prof
    have wrote := writeSetting_writes (s := validFrame l s) (x := (a ++ b ++ c ++ d).toInt) (blk := blk)
      (running.trans hr) (entering.trans he) top (by rw [working]; exact made)
    have held := writtenBlock_settings top blk
    rw [settingEffects_eq, held, writtenBlock_eq working, working] at wrote
    rw [writtenBlock_eq working] at held
    rw [hn] at run
    exact ⟨blk, listed, consistent, exec_answered run wrote, held, (updates_accountUpdate false _ four _).1,
      fun j e he => recompute_of_isSome (mem_four_all j) he⟩

/-! ### WRITE PROFILE (08 R148) -/

theorem exec_writeProfile {l : Link} {seq : Byte} {fields : List Byte} {s : State} (hl : fields.length ≤ 298)
    (ht : Takes l s) :
    exec (.writeProfile l seq fields) s =
      .next (answerTo l 53 seq (writeProfile fields (validFrame l s)).2 (writeProfile fields (validFrame l s)).1) :=
  congrArg Host.Outcome.next (requestFrame_taken hl ht)

section
variable (s : State)

theorem writeProfile_nil : writeProfile [] s = (s, .refused .badField) := rfl

theorem writeProfile_one (n : Byte) : writeProfile [n] s = (s, .refused .badField) := rfl

variable (n part : Byte) (cs : List Byte)

/-- WRITE PROFILE after its profile and part code are read. -/
theorem writeProfile_noProfile (h : 8 ≤ n.toNat) : writeProfile (n :: part :: cs) s = (s, .refused .badField) := by
  simp only [writeProfile, readPrefix, Option.map_some, index_none h, refuse]

theorem writeProfile_badPart (h : 2 ≤ part.toNat) : writeProfile (n :: part :: cs) s = (s, .refused .badField) := by
  have not_initial : ¬ (part.toNat : Int) = 0 := by omega
  have not_patches : ¬ (part.toNat : Int) = 1 := by omega
  simp only [writeProfile, readPrefix, Option.map_some, if_neg not_initial, if_neg not_patches, refuse]
  cases index 8 (n.toNat : Int) <;> rfl

theorem initialCode : (((0 : Byte).toNat : Int)) = 0 := rfl

theorem patchesCode : (((1 : Byte).toNat : Int)) = 1 := rfl

theorem writeProfile_badInitial (h : readFields blockWidths cs = none) :
    writeProfile (n :: 0 :: cs) s = (s, .refused .badField) := by
  simp only [writeProfile, readPrefix, Option.map_some, initialCode, if_true, h, refuse]
  cases index 8 (n.toNat : Int) <;> rfl

theorem writeProfile_badPatches (h : readPatchList cs = none) :
    writeProfile (n :: 1 :: cs) s = (s, .refused .badField) := by
  simp only [writeProfile, readPrefix, Option.map_some, patchesCode, one_ne_zero, if_false, if_true, h, refuse]
  cases index 8 (n.toNat : Int) <;> rfl

theorem writeProfile_badTables {ps : List RawPatch} (h : readPatchList cs = some ps) (ht : tablesKnown ps = false) :
    writeProfile (n :: 1 :: cs) s = (s, .refused .badField) := by
  simp only [writeProfile, readPrefix, Option.map_some, patchesCode, one_ne_zero, if_false, if_true, h, ht,
    Bool.false_eq_true, if_false, refuse]
  cases index 8 (n.toNat : Int) <;> rfl

theorem writeProfile_initial {p : Fin 8} (hn : n.toNat = p.val) {vs : List Int} (h : readFields blockWidths cs = some vs) :
    writeProfile (n :: 0 :: cs) s = profileWrite p (writeInitial p vs) s := by
  simp only [writeProfile, readPrefix, Option.map_some, hn, index_nat, initialCode, if_true, h]

theorem writeProfile_patches {p : Fin 8} (hn : n.toNat = p.val) {ps : List RawPatch} (h : readPatchList cs = some ps)
    (ht : tablesKnown ps = true) :
    writeProfile (n :: 1 :: cs) s = profileWrite p (writePatches p ps) s := by
  simp only [writeProfile, readPrefix, Option.map_some, hn, index_nat, patchesCode, one_ne_zero, if_false, if_true, h, ht]

end

/-- A new Initial block. -/
theorem writeInitial_writes (p : Fin 8) {vs : List Int} (h : vs.length = 16) :
    ∃ blk : Settings, blk.toList = readyBlock vs ∧ ∀ s : State, writeInitial p vs s =
      (updProfile p (fun r => { r with initial := blk }) s, .done (decide (readyBlock vs ≠ vs)) (blockBytes blk)) := by
  obtain ⟨blk, made, listed⟩ := ofList_readyBlock h
  exact ⟨blk, listed, fun s => by simp only [writeInitial, made]⟩

theorem writePatches_refused (p : Fin 8) {ps : List RawPatch} (h : Refused ps) (s : State) :
    writePatches p ps s = (s, .refused .badField) := by
  simp only [writePatches, readyPatches_none h, refuse]

theorem writePatches_writes (p : Fin 8) {ps : List RawPatch} (ht : tablesKnown ps = true) (h : ¬ Refused ps) (s : State) :
    writePatches p ps s =
      (updProfile p
        (fun r =>
          { r with patches := ps.map fun q => (readyPatch q).1,
                   patch := ps.any fun q => decide (0 < q.entries.length) }) s,
        .done (ps.any fun q => (readyPatch q).2) (patchListBytes (ps.map fun q => (readyPatch q).1))) := by
  simp only [writePatches, readyPatches_some ht h, readyPatches_patch]

/-- The checks of WRITE PROFILE read the state before the frame. -/
theorem profileWrite_valid (l : Link) (p : Fin 8) (own : State → State × Reply) (s : State) :
    profileWrite p own (validFrame l s) =
      if ¬ s.operating = true then (validFrame l s, .refused .wrongState)
      else if ¬ (s.start.ram.profiles[p]).present = true then (validFrame l s, .refused .notPresent)
      else if p ∈ s.prof.stack then (validFrame l s, .refused .onStack)
      else if isTarget s p = true then (validFrame l s, .busy)
      else own (validFrame l s) := by
  rw [validFrame_eq l s]
  rfl

/-- The checks of a WRITE PROFILE whose contents are read, with `own` left to do. -/
theorem writeProfile_checks {i : Instr} {l : Link} {seq : Byte} {p : Fin 8} {own : State → State × Reply} {s : State}
    (run : exec i s = .next (answerTo l 53 seq (profileWrite p own (validFrame l s)).2
      (profileWrite p own (validFrame l s)).1)) :
    (s.operating = false → exec i s = .next (turnedAway l 53 seq (.refused .wrongState) s)) ∧
    (s.operating = true → (s.start.ram.profiles[p]).present = false →
      exec i s = .next (turnedAway l 53 seq (.refused .notPresent) s)) ∧
    (s.operating = true → (s.start.ram.profiles[p]).present = true →
      (p ∈ s.prof.stack → exec i s = .next (turnedAway l 53 seq (.refused .onStack) s)) ∧
      (p ∉ s.prof.stack → isTarget s p = true → exec i s = .next (turnedAway l 53 seq .busy s)) ∧
      (p ∉ s.prof.stack → isTarget s p = false →
        exec i s = .next (answerTo l 53 seq (own (validFrame l s)).2 (own (validFrame l s)).1))) := by
  have chain := profileWrite_valid l p own s
  refine ⟨fun ho => ?_, fun ho hp => ?_, fun ho hp => ?_⟩
  · rw [if_pos (by rw [ho]; exact Bool.false_ne_true)] at chain
    exact exec_turnedAway run chain
  · rw [if_neg (not_not.2 ho), if_pos (by rw [hp]; exact Bool.false_ne_true)] at chain
    exact exec_turnedAway run chain
  rw [if_neg (not_not.2 ho), if_neg (not_not.2 hp)] at chain
  refine ⟨fun hs => ?_, fun hs hb => ?_, fun hs hb => ?_⟩
  · rw [if_pos hs] at chain
    exact exec_turnedAway run chain
  · rw [if_neg hs, if_pos hb] at chain
    exact exec_turnedAway run chain
  · rw [if_neg hs, if_neg (by rw [hb]; exact Bool.false_ne_true)] at chain
    exact exec_answered run chain

/-! ### LOAD RECORD (10 R168) -/

theorem ofList_clampBlock {vs : List Int} (h : vs.length = 16) :
    ∃ c, Settings.ofList (clampBlock vs) = some c ∧ c.toList = clampBlock vs := by
  match vs, h with
  | [v0, v1, v2, v3, v4, v5, v6, v7, v8, v9, v10, v11, v12, v13, v14, v15], _ =>
    refine ⟨_, rfl, ?_⟩
    simp only [Settings.toList, clampBlock, List.mapIdx_cons, List.mapIdx_nil]
    simp [readyField, clamp]
    split_ifs <;> omega

/-- A settings block record. -/
theorem loadRecordOf_block (img : Image) (p : Fin 8) (cs : List Byte) {vs : List Int}
    (h : readFields blockWidths cs = some vs) :
    ∃ blk : Settings, blk.toList = clampBlock vs ∧
      loadRecordOf img (0x0A#8 :: BitVec.ofNat 8 p.val :: cs) =
        some ({ img with profiles := upd img.profiles p fun r => { r with initial := blk } },
          writeItems (blockWidths.zip (clampBlock vs)), decide (clampBlock vs ≠ vs)) ∧
      recordFits (0x0A#8 :: BitVec.ofNat 8 p.val :: cs) = true := by
  obtain ⟨blk, made, listed⟩ := ofList_clampBlock (readFields_count h)
  refine ⟨blk, listed, ?_, ?_⟩
  · have small : p.val < 256 := by omega
    rw [loadRecordOf_kind img 0x0A#8 _ cs (by decide) (ws := blockWidths) rfl h, byte_toNat small]
    change (loadFixed img 10 _ vs).map _ = _
    rw [loadFixed_block, index_nat, Option.bind_some, made]
    rfl
  · have other : ¬ (((0x0A#8 : Byte).toNat : Int)) = 11 := by decide
    have widths : recordWidths (((0x0A#8 : Byte).toNat : Int)) = some blockWidths := rfl
    simp only [recordFits, readPrefix, Option.map_some, if_neg other, widths, h]
    rfl

theorem exec_loadRecord {l : Link} {seq : Byte} {cs : List Byte} {s : State} (hl : cs.length ≤ 298) (ht : Takes l s) :
    exec (.loadRecord l seq cs) s =
      .next (answerTo l 56 seq (loadRecord cs (validFrame l s)).2 (loadRecord cs (validFrame l s)).1) :=
  congrArg Host.Outcome.next (requestFrame_taken hl ht)

section
variable {cs : List Byte} {s : State}

theorem loadRecord_unfit (h : recordFits cs = false) : loadRecord cs s = (s, .refused .badField) :=
  if_pos (by rw [h]; exact Bool.false_ne_true)

theorem loadRecord_wrongState (h : recordFits cs = true) (ho : ¬ (s.start.op = .unconfigured ∨ s.start.op = .held)) :
    loadRecord cs s = (s, .refused .wrongState) :=
  (if_neg (not_not.2 h)).trans (if_neg ho)

variable (h : recordFits cs = true) (ho : s.start.op = .unconfigured ∨ s.start.op = .held)
include h ho

theorem loadRecord_refused (hr : loadRecordOf s.start.ram cs = none) : loadRecord cs s = (s, .refused .badField) := by
  unfold loadRecord
  rw [if_neg (not_not.2 h), if_pos ho]
  simp only [hr, refuse]

theorem loadRecord_loads {img : Image} {held : List Byte} {changed : Bool}
    (hr : loadRecordOf s.start.ram cs = some (img, held, changed)) :
    loadRecord cs s = ({ s with start.ram := img }, .done changed held) := by
  unfold loadRecord
  rw [if_neg (not_not.2 h), if_pos ho]
  simp only [hr]

end

/-- LOAD RECORD, command by command. -/
theorem loadRecord_answers (l : Link) (seq : Byte) (cs : List Byte) (s : State) (ht : Takes l s) (hl : cs.length ≤ 298) :
    (recordFits cs = false → exec (.loadRecord l seq cs) s = .next (turnedAway l 56 seq (.refused .badField) s)) ∧
    (recordFits cs = true → s.start.op ≠ .unconfigured → s.start.op ≠ .held →
      exec (.loadRecord l seq cs) s = .next (turnedAway l 56 seq (.refused .wrongState) s)) ∧
    (recordFits cs = true → (s.start.op = .unconfigured ∨ s.start.op = .held) →
      (loadRecordOf s.start.ram cs = none →
        exec (.loadRecord l seq cs) s = .next (turnedAway l 56 seq (.refused .badField) s)) ∧
      ∀ img held changed, loadRecordOf s.start.ram cs = some (img, held, changed) →
        exec (.loadRecord l seq cs) s = .next
          (answerTo l 56 seq (.done changed held) { validFrame l s with start.ram := img })) := by
  have run := exec_loadRecord (seq := seq) hl ht
  have start : (validFrame l s).start = s.start := validFrame_start l s
  refine ⟨fun h => exec_turnedAway run (loadRecord_unfit h), fun h hu hh => exec_turnedAway run
    (loadRecord_wrongState h (by rw [start]; exact fun k => k.elim hu hh)), fun h ho => ⟨fun hr => exec_turnedAway run
    (loadRecord_refused h (by rw [start]; exact ho) (by rw [start]; exact hr)), fun img held changed hr => ?_⟩⟩
  exact exec_answered run (loadRecord_loads h (by rw [start]; exact ho) (by rw [start]; exact hr))

/-- Settles O54. -/
theorem settingsAndRecordsAreWritten : Obligations.SettingsAndRecordsAreWritten := by
  refine ⟨fieldsMadeReady, recordsLoad, writeSetting_answers, fun l seq n cs s ht => ?_,
    fun q => ⟨readyPatch_groups, readyPatch_sets⟩, fun img p cs vs h => loadRecordOf_block img p cs h, loadRecord_answers⟩
  intro initial patches bad hl
  have run (part : Byte) := exec_writeProfile (seq := seq) (fields := n :: part :: cs) (Nat.add_le_add_right hl 2) ht
  refine ⟨exec_turnedAway (exec_writeProfile (by decide) ht) (writeProfile_nil _),
    exec_turnedAway (exec_writeProfile (by simp) ht) (writeProfile_one _ n),
    fun part hp => exec_turnedAway (run part) (writeProfile_badPart _ n part cs hp),
    fun hv => exec_turnedAway (run 0) (writeProfile_badInitial _ n cs hv),
    fun hr => exec_turnedAway (run 1) (writeProfile_badPatches _ n cs hr),
    fun ps hr hk => exec_turnedAway (run 1) (writeProfile_badTables _ n cs hr hk), fun i hi => ?_⟩
  have different : initial ≠ patches := by
    intro h
    injection h with _ _ fields
    injection fields with _ tail
    injection tail with code
    exact absurd code (by decide)
  rcases hi with ⟨rfl, hv⟩ | ⟨rfl, ps, hr, hk⟩
  · obtain ⟨vs, hv⟩ := Option.isSome_iff_exists.1 hv
    refine ⟨fun h => exec_turnedAway (run 0) (writeProfile_noProfile _ n 0 cs h), fun p hp => ?_⟩
    have taken := run 0
    rw [writeProfile_initial _ n cs hp hv] at taken
    obtain ⟨stopped, absent, checks⟩ := writeProfile_checks taken
    refine ⟨stopped, absent, fun ho hpr => ?_⟩
    obtain ⟨stacked, busy, writes⟩ := checks ho hpr
    refine ⟨stacked, busy, fun hs ht => ⟨fun ws _ hw => ?_, fun ps h => absurd h different⟩⟩
    cases hv.symm.trans hw
    obtain ⟨blk, listed, wrote⟩ := writeInitial_writes p (readFields_count hv)
    exact ⟨blk, listed, exec_answered (writes hs ht) (wrote _)⟩
  · refine ⟨fun h => exec_turnedAway (run 1) (writeProfile_noProfile _ n 1 cs h), fun p hp => ?_⟩
    have taken := run 1
    rw [writeProfile_patches _ n cs hp hr hk] at taken
    obtain ⟨stopped, absent, checks⟩ := writeProfile_checks taken
    refine ⟨stopped, absent, fun ho hpr => ?_⟩
    obtain ⟨stacked, busy, writes⟩ := checks ho hpr
    refine ⟨stacked, busy, fun hs ht => ⟨fun ws h => absurd h.symm different, fun qs _ hq => ?_⟩⟩
    cases hr.symm.trans hq
    exact ⟨fun h => exec_turnedAway (writes hs ht) (writePatches_refused p h _), fun long many counts zero =>
      exec_answered (writes hs ht) (writePatches_writes p hk (not_refused long many counts zero) _)⟩

end Sys2Proof.Machine
